-- ==== Sys2Proof/Word.lean ====
section
/-! DEFINITION. The word types of the register fabric (R338) and the engines (R223), and an exact fraction. -/
namespace Sys2Proof

/-- A register of the fabric: 32 bits (R338). -/
abbrev Word := BitVec 32

/-- One byte of the address space (R338). -/
abbrev Byte := BitVec 8

/-- A d register, a table word or a result register of an engine (R180, R223). -/
abbrev DWord := BitVec 48

/-- An accumulator of an engine or of the baseline integrator (R225, R269). -/
abbrev AWord := BitVec 96

/-- An exact fraction `num / den`, for the quantities the spec computes exactly before it rounds (R59, R145). -/
structure Frac where
  num : Int
  den : Nat
deriving DecidableEq, Repr, Inhabited

end Sys2Proof
end

