-- ==== Sys2Proof/Syntax.lean ====
section
/-! DEFINITION. The commands of the block: one constructor of `Instr` for each row of the table, with the operands a
command carries. The table gives no row a word of bits, so an operand is typed by what it names. -/
namespace Sys2Proof

/-- The masters of the fabric (R335). -/
inductive Master where
  | hs | hi | sv
  | eng (k : Fin 5)
  | cl
deriving DecidableEq, Repr

/-- Whether a master is an engine: it reaches the fabric only through its posts (R335). -/
def Master.isEngine : Master → Bool
  | .eng _ => true
  | _ => false

/-- Three values, one for each of the slices S0, S1 and S2 of a channel (R57). -/
structure Tri where
  s0 : Int
  s1 : Int
  s2 : Int
deriving DecidableEq, Repr

/-- What the slices of every channel emit in one MOD clock, in ascending channel index (R57, R19); a channel the list
does not reach emits packets of 0. -/
abbrev ModClock := List Tri

/-- What an output instant brings (R23): its time in XTM periods, and the packets of the MOD clocks since the last event that
carried some. -/
structure Instant where
  t : Nat
  clk : List ModClock
deriving DecidableEq, Repr

/-- What a cycle boundary brings (R37, R70): where the loop, while locked, places tick 0 on the crossing of the input, the
first-integrator states (2^-16 packet) of each channel's slices at m0, and the packets up to m0. -/
structure Boundary where
  t : Nat
  u1 : List Tri
  clk : List ModClock
deriving DecidableEq, Repr

/-- How the inner code finds one codeword of a page when it is read (R413): corrected, or failing with the stored data
differing by the mask, or passing with the data differing by the mask. -/
inductive CwRead where
  | corrected
  | failed (mask : BitVec 64)
  | wrong (mask : BitVec 64)
deriving DecidableEq, Repr

/-- The codewords of one page that do not read clean, by index CW0-CW33 (R412). -/
abbrev CwErrs := List (Fin 34 × CwRead)

/-- A tone map of one swath: its repetition factor and the code of each carrier of the band in order (R494, R495). -/
structure SwathMap where
  rep : Nat
  codes : List Nat
deriving DecidableEq, Repr

/-- A tone map of a link: its identifier and its six swath maps (R505). -/
structure ToneMap where
  tmid : Nat
  swaths : List SwathMap
deriving DecidableEq, Repr

/-- The header of a Heathline DATA frame (R500). -/
structure DataHdr where
  typ : Nat
  pri : Nat
  ackreq : Bool
  full : Bool
  src : Nat
  dst : Nat
  fdst : Nat
  hops : Nat
  seq : Nat
  nblk : Nat
  tmid : Nat
  sphase : Nat
  lock : Bool
  nid : Nat
deriving DecidableEq, Repr

/-- One FEC block as the receiver decodes it: its payload and CRC, and what of the payload is message, the firmware's MAC
header and the padding apart (R496, R521). -/
structure FecBlock where
  raw : List Byte
  crc : BitVec 16
  bytes : List Byte
deriving DecidableEq, Repr

/-- What the receiver gets of one DATA frame: the header CRC and the header, the receiver's pin-referred
tick at the first preamble symbol (R508), the blocks, the measured LQ and the swath of the lowest SNR margin (R502), and the firmware's MAC
header: whether this is the last segment and the original source (R520, R521). -/
structure DataFrame where
  hdrCrc : BitVec 16
  hdr : DataHdr
  tick : Fin 1024
  blocks : List FecBlock
  lq : Fin 32
  wsw : Fin 6
  origSrc : Nat
  segIndex : Nat
  lastSeg : Bool
deriving DecidableEq, Repr

/-- A received SACK (R502). -/
structure Sack where
  dst : Nat
  seq : Nat
  bitmap : BitVec 64
  lq : Fin 32
  wsw : Fin 8
deriving DecidableEq, Repr

/-- What the station meets while it contends (R510, R512): the time at which the slot it drew begins, the slot, the band energy and the
idle floor that its receiver tracks in 0.5 dB, whether it detects or receives a preamble or a frame, and whether it detected a burst in
an earlier priority window. -/
structure Contention where
  t : Nat
  slot : Nat
  energy : Nat
  floor : Nat
  preamble : Bool
  burst : Bool
deriving DecidableEq, Repr

/-- A tone-map message: a measured map for our transmissions to a station, a map we measured for the station's
transmissions to us, or a request for a fresh one (R505, R507). -/
inductive MapMsg where
  | fromNeighbour (station : Nat) (map : ToneMap)
  | measured (station : Nat) (map : ToneMap)
deriving DecidableEq, Repr

/-- The status word of one device in a ring round (R554). -/
structure RingStatus where
  present : Bool
  seen : Bool
  up : Bool
  variant : Nat
deriving DecidableEq, Repr

/-- An aggregate cell of a ring round (R554, R562). -/
structure RingCell where
  collect : Int
  total : BitVec 64
deriving DecidableEq, Repr

/-- A message slot of a ring round (R557). -/
structure RingSlot where
  data : Word
  w : Nat
  mbx : Nat
  dst : Nat
  src : Nat
  nodata : Bool
  go : Bool
  toggle : Bool
  full : Bool
  scrc : BitVec 8
  result : Nat
deriving DecidableEq, Repr

/-- A ring round as it arrives at LDI (R554), with its SYNCW and its CRC. -/
structure Round where
  syncw : BitVec 16
  crc : BitVec 32
  rnum : BitVec 8
  okmap : BitVec 8
  status : List RingStatus
  cells : List RingCell
  slots : List RingSlot
deriving DecidableEq, Repr

/-- A request on the I2C port: its bytes, and whether a STOP ends the transaction before the response is read (R367, R368). -/
structure I2cWrite where
  bytes : List Byte
  stop : Bool
deriving DecidableEq, Repr

/-- The condition of a branch as the engine reads it is in its word; the commands of the engine carry the engine and
whether the fetch meets a parity error (R212, code 11). The rows of the table, in its order: -/
inductive Instr where
  -- converter channels, filter chains and the boundaries (01, 02, 03, 07, 08)
  | outputInstant (inst : Instant)
  | lockLossTimeout (t : Nat)
  | cycleBoundary (b : Boundary)
  | crossfadeEnd (clk : List ModClock)
  | offsetMeasured (ch : Fin 18) (clk : List ModClock)
  | secondBoundary
  | pulseStart (n : Fin 4)
  | pulseEnd (n : Fin 4)
  | hrmCyclePost (g : Fin 4)
  | hrmBlockPost (g : Fin 4)
  | blksync (m : Master)
  | evtPop (m : Master)
  | evtFlush (m : Master)
  | clampDetect (bank : Fin 3)
  | fltSyncGo (m : Master)
  | syncInstant (clk : List ModClock)
  | cnvRetire (m : Master) (ch sl : Nat)
  | cnvRestore (m : Master) (ch sl : Nat)
  | measofs (m : Master) (ch : Fin 18)
  | bandgapCompare (m : Master)
  | bandgapCompareDone (diff : Int)
  | bandgapSwap (m : Master)
  | refdiffExpire
  -- relief and calibration (04)
  | reliefStart (m : Master) (u : Fin 2) (target : Nat) (matchcyc : Nat) (autoswap : Bool)
  | reliefSwap (m : Master) (u : Fin 2) (force : Bool)
  | reliefReturn (m : Master) (u : Fin 2) (matchcyc : Nat) (autoswap : Bool)
  | reliefAbort (m : Master) (u : Fin 2)
  | patrol (m : Master) (u : Fin 2)
  | pstop (m : Master) (u : Fin 2)
  | reliefTimeout (u : Fin 2)
  | rebase (m : Master) (a b : Bool)
  | calZero (m : Master) (ch : Nat) (short : Bool) (ncyc : Nat)
  | calFull (m : Master) (ch : Nat) (dc : Bool) (ncyc : Nat)
  | calAbort (m : Master)
  | calTimeout
  -- the engines (05, 06)
  | handlerDispatch (e : Fin 5)
  | add (e : Fin 5) (pe : Bool)
  | sub (e : Fin 5) (pe : Bool)
  | neg (e : Fin 5) (pe : Bool)
  | abs (e : Fin 5) (pe : Bool)
  | min (e : Fin 5) (pe : Bool)
  | max (e : Fin 5) (pe : Bool)
  | shl (e : Fin 5) (pe : Bool)
  | shr (e : Fin 5) (pe : Bool)
  | shrr (e : Fin 5) (pe : Bool)
  | sat (e : Fin 5) (pe : Bool)
  | mov (e : Fin 5) (pe : Bool)
  | movFromX (e : Fin 5) (pe : Bool)
  | movToX (e : Fin 5) (pe : Bool)
  | addi (e : Fin 5) (pe : Bool)
  | movi (e : Fin 5) (pe : Bool)
  | movhi (e : Fin 5) (pe : Bool)
  | mul (e : Fin 5) (pe : Bool)
  | mac (e : Fin 5) (pe : Bool)
  | msu (e : Fin 5) (pe : Bool)
  | sqa (e : Fin 5) (pe : Bool)
  | aclr (e : Fin 5) (pe : Bool)
  | aadd (e : Fin 5) (pe : Bool)
  | amov (e : Fin 5) (pe : Bool)
  | sqrt (e : Fin 5) (pe : Bool)
  | div (e : Fin 5) (pe : Bool)
  | cordVector (e : Fin 5) (pe : Bool)
  | cordRotate (e : Fin 5) (pe : Bool)
  | inPort (e : Fin 5) (pe : Bool)
  | inq (e : Fin 5) (pe : Bool)
  | tld (e : Fin 5) (pe tpe : Bool)
  | tst (e : Fin 5) (pe : Bool)
  | xld (e : Fin 5) (pe : Bool)
  | xadd (e : Fin 5) (pe : Bool)
  | res (e : Fin 5) (pe : Bool)
  | resa (e : Fin 5) (pe : Bool)
  | br (e : Fin 5) (pe : Bool)
  | brc (e : Fin 5) (pe : Bool)
  | loop (e : Fin 5) (pe : Bool)
  | call (e : Fin 5) (pe : Bool)
  | ret (e : Fin 5) (pe : Bool) (t : Nat)
  | yield (e : Fin 5) (pe : Bool)
  | trap (e : Fin 5) (pe : Bool)
  | pulse (e : Fin 5) (pe : Bool)
  | post (e : Fin 5) (pe : Bool)
  | evt (e : Fin 5) (pe : Bool)
  | flagClrs (e : Fin 5) (pe : Bool)
  | flagGetf (e : Fin 5) (pe : Bool)
  | flagPutf (e : Fin 5) (pe : Bool)
  | pace (e : Fin 5) (pe : Bool)
  | cyc (e : Fin 5) (pe : Bool)
  | postQueueDeliver (e : Fin 5)
  | hairspringMeasure (e : Fin 5) (pace : BitVec 16)
  | admitEngine (m : Master) (e : Fin 5)
  | engineStop (m : Master) (e : Fin 5)
  | engineClear (m : Master) (e : Fin 5)
  | pacemaxrst (m : Master) (e : Fin 5)
  | slackrst (m : Master) (e : Fin 5)
  | tableWordWrite (m : Master) (addr : BitVec 24) (data : Word)
  | queuedTableWrite (e : Fin 5)
  | snap (m : Master) (g : Fin 4) (auto : Bool)
  | snapCopy
  | snapTimeout
  | takeover (m : Master) (now force auto : Bool)
  | engineReleased
  | handback (m : Master) (now force auto : Bool)
  | handbackCopy
  | handbackTimeout
  | engineReliefAbort (m : Master)
  | sourceBase (m : Master) (g : Fin 4)
  | sourceEngine (m : Master) (g : Fin 4)
  -- the register fabric and the host ports (10)
  | regUpdate (m : Master) (mask : BitVec 8) (t : Nat)
  | aliasSet (m : Master) (addr : BitVec 24) (size : Fin 3) (data : Word)
  | aliasClr (m : Master) (addr : BitVec 24) (size : Fin 3) (data : Word)
  | aliasTgl (m : Master) (addr : BitVec 24) (size : Fin 3) (data : Word)
  | sqClear (m : Master) (addr : BitVec 24) (seq : BitVec 8) (bits : BitVec 24)
  | registerWrite (m : Master) (addr : BitVec 24) (size : Fin 4) (data : BitVec 64)
  | lowWordRead (m : Master) (addr : BitVec 24)
  | lockRead (m : Master) (n : Fin 16)
  | lockRelease (m : Master) (n : Fin 16)
  | spiReadFrame (bytes : List Byte) (csAfter : Option Nat)
  | spiWriteFrame (bytes : List Byte)
  | spiBroadcastWrite (bytes : List Byte)
  | spiCsEarly (bytes : List Byte)
  | i2cRequest (bytes : I2cWrite)
  | i2cResponseRead
  | hostAccessTimeout (m : Master) (addr : BitVec 24)
  | cfgsumScanDone
  | cfgCapture (m : Master)
  -- mailboxes (11)
  | mbxPost (m : Master) (n : Fin 32)
  | mbxDataWrite (m : Master) (n : Fin 32) (w : Fin 16) (size : Fin 3) (data : Word)
  | mbxRelease (m : Master) (n : Fin 32) (mseq : BitVec 8)
  | mbxCfgWrite (m : Master) (n : Fin 32) (data : Word)
  | epochNew (m : Master)
  | mailboxCopy (e : Fin 5)
  | svCommandTake
  | replyPost
  | noticePost
  | ping (i : Fin 4)
  | version (i : Fin 4)
  | loadref (i : Fin 4)
  -- the ferroelectric store (12)
  | nvmWrite (m : Master) (addr : BitVec 24) (size : Fin 3) (data : Word)
  | nvmRead (m : Master) (addr : BitVec 24) (size : Fin 3) (errs : CwErrs)
  | pageCloseTimeout
  | nvmFlush (m : Master)
  | pageinfoRead (m : Master) (errs : CwErrs)
  | scrub (m : Master)
  | scrubDone (errs : List (Nat × CwErrs))
  | remap (m : Master) (errs : CwErrs)
  | remapDone
  | counterIncrement (m : Master) (n : Fin 16)
  | rdef (i : Fin 4)
  | rwrite (i : Fin 4)
  | rread (i : Fin 4)
  | rscan (i : Fin 4)
  | cinc (i : Fin 4)
  | cread (i : Fin 4)
  | logread (i : Fin 4)
  -- the auxiliary converter (09)
  | auxTimerEvent (t : Nat)
  | auxPwPulseEnd (gpio : Fin 8) (high : Bool) (width t : Nat)
  | auxUrgent (m : Master) (insel : BitVec 4) (t : Nat)
  | auxConversionStart (t : Nat)
  | auxResult (raw : Int) (t : Nat)
  | auxCalZero (m : Master) (pin : Fin 4) (t : Nat)
  | auxCalFull (m : Master) (pin : Fin 4) (t : Nat)
  -- the real-time clock (13)
  | rtcTick (tamp0 tamp1 : Bool)
  | periodicEvent (t : Nat)
  | halt (m : Master)
  | calendarRelease (m : Master) (load catchup : Bool)
  | arm (m : Master) (n : Fin 2)
  | disarm (m : Master) (n : Fin 2)
  | clrrec (m : Master)
  | xtreturn (m : Master)
  | subsecRead (m : Master)
  | yearRead (m : Master)
  | shadowExpire (m : Master)
  | xt32Fail
  | xt32Stable
  | lrcTrim (div : BitVec 16)
  | switchover
  | vddReturn
  | vbatLoss
  -- power, resets and clocks (14)
  | por
  | brownOut
  | brownOutRelease
  | resetn
  | fullReset (m : Master)
  | domainReset (m : Master) (dom : BitVec 8)
  | watchdogReset
  | lowSupply (vdd avdd : Bool)
  | xtmFail
  | xtmokSet
  | pwrOn (m : Master) (dom : BitVec 8)
  | pwrOff (m : Master) (dom : BitVec 8)
  | pwrVcore (m : Master) (vcode : BitVec 5)
  | powerStepDone
  | vcoreSettled
  | profsave (i : Fin 4)
  | profrun (i : Fin 4)
  | pwrinfo (i : Fin 4)
  -- the power-line link (15)
  | dataFrameReceived (f : DataFrame)
  | sackSend
  | sackReceived (k : Sack)
  | sackTimeout
  | mediumAccess (m : Contention)
  | frameTransmit (clip : Bool)
  | toneMapMessage (msg : MapMsg)
  | neighbourTimeout (slot : Fin 32)
  | plcConfig (i : Fin 4)
  | macStart (i : Fin 4)
  | macStop (i : Fin 4)
  | send (i : Fin 4)
  | nbrinfo (i : Fin 4)
  | tmreq (i : Fin 4)
  | rxdone (i : Fin 4)
  | macinfo (i : Fin 4)
  -- the panel (16)
  | updateFull (i : Fin 4) (ohms : Nat)
  | updateDiff (i : Fin 4) (ohms : Nat)
  | waveformDone
  | recover (i : Fin 4) (ohms : Nat)
  | jdiscard (i : Fin 4)
  | jinfo (i : Fin 4)
  | wfsave (i : Fin 4)
  | wfload (i : Fin 4)
  | stress (i : Fin 4)
  | stresssync (i : Fin 4)
  | bezel (i : Fin 4) (ohms : Nat)
  | pumpFault
  | dialUpdate (m : Master)
  | dialDone
  | bezelCheck (m : Master)
  | bezelCheckDone (ohms : Nat)
  | journalCopy
  -- the chain (17)
  | syncReceived (run : Nat)
  | lnkLoss
  | roundStart
  | roundPass (r : Round)
  -- privilege and the seal (18)
  | openSession (m : Master) (level : Fin 4) (slot : Fin 16) (chal : BitVec 256) (t : Nat)
  | prove (m : Master) (level : Fin 4) (slot : Fin 16) (t : Nat)
  | closeSession (m : Master)
  | sessionTimeout (m : Master)
  | lockoutExpire (slot : Fin 8)
  | sealSet (m : Master)
  | sealOpen (m : Master)
  | keycmd (m : Master) (slot : Fin 16)
  | pmapWrite (m : Master) (n : Fin 6) (size : Fin 3) (data : Word)
  | clampCurrentStops (bank : Fin 3)
  | cycTick512
  | plsTick
  | resetnRelease
  | lnkReturn
  | receiveInputSaturated
deriving DecidableEq, Repr

end Sys2Proof
end

