-- ==== Sys2Proof/Config.lean ====
section
/-! DEFINITION. What an implementation fixes and the spec does not give: ROM contents, fused tables and the free values
(log entry 7). None has a body, so no statement can rest on a value of one. -/
namespace Sys2Proof.Config

/-- The next free value, by its index: a value the spec leaves open (log entry 7). -/
opaque freeValue : Nat → Nat

/-- The sum that the in-phase correction kernel of a fixed response adds to the comb output, from the packets of the
sample's span, by RESP and preset (R105, R110; ROM contents not given, log entry 8). -/
opaque respKernel : Nat → Nat → List Int → Int

/-- The tap of the Hilbert FIR at a place, by preset, in units of 2^-22 (R112; ROM contents not given, log entry 8). -/
opaque hilbertTap : Nat → Nat → Int

/-- The companion correction QCORR by preset and locked frequency in 1/8 Hz (R113; the ROM table is given at the nominal
frequencies only, log entry 8). -/
opaque qcorr : Nat → Nat → Nat

/-- The gain g of the Rogowski integrator by preset and nominal frequency, in units of 2^-30 (R115; log entry 8). -/
opaque integGain : Nat → Nat → Int

/-- The gain temperature compensation factor of a channel of a grade A part at a temperature in 1/1024 degree, from the table
fused in the part, at a temperature that the table does not hold (R94; the rule is not given, log entry 8). -/
opaque tcf : List (Int × List Frac) → Nat → Int → Frac

/-- The fixed slope of the compensation of a grade B part, per 1/1024 degree (R94; log entry 8). -/
opaque tcfSlope : Frac

/-- The tap of the resampler's polyphase kernel by preset, place and phase, in units of 2^-22 (R301; log entry 8). -/
opaque resampleTap : Nat → Nat → Nat → Int

/-- The error of a CORDIC output, by operands and output, in units of 2^-46 (R241 bounds it, log entry 9). -/
opaque cordError : Nat → Int → Int → Int

/-- The pace scaled to 1.00 V and 25 degrees from a measured pace, the core setting and the temperature (R198; the model
is not given, log entry 8). -/
opaque paceNorm : Nat → Nat → Int → Nat

/-- The program image words of a reference program, by program and word index (R289; log entry 8). -/
opaque refProgram : Nat → Nat → Word

/-- In which order a reference program multiplies coefficient, voltage and current in its two MUL steps (R270; log entry 51). -/
opaque refMuls : Nat → Nat

/-- The last place of a quantity that a reference program computes, by quantity and floor (R264; log entry 51). -/
opaque refPlace : Nat → Int → Nat

/-- The d value that shows an energy in quanta in result registers 32-39 of the reference programs (R291; log entry 51). -/
opaque refQuanta : Int → BitVec 48

/-- Whether a pair of samples counts as a DC sample of the reference programs (R290; log entry 51). -/
opaque dcSample : Int → Int → Bool

/-- How many words the image of a reference program has (R289; log entry 8). -/
opaque refLength : Nat → Nat

/-- The ROM interleaver of a band: the coded bit that stands at a place (R496; log entry 52). -/
opaque interleave : Bool → Nat → Nat

/-- The place, among the bits of a swath's symbol, of a copy of a coded bit, by REP, bits of the symbol, copy and bit (R495; log entry 52). -/
opaque copyPlace : Nat → Nat → Nat → Nat → Nat

/-- The point of a carrier in a SYNC symbol and in the inverted one (R499; ROM pattern, log entry 52). -/
opaque syncPoint : Bool → Nat → Nat

/-- The point of a differential code: coded bits per carrier, the bits, and the point last sent on the carrier (R494; log entry 52). -/
opaque diffPoint : Nat → Nat → Nat → Nat

/-- The point of the coherent code by its four bits (R494; log entry 52). -/
opaque qamPoint : Nat → Nat

/-- The level of a line of the panel in a GLOBAL phase that the spec gives no level for it there, by line, SEG or COM, and phase word
(R534, R535; log entry 26). -/
opaque panelLevel : Bool → Nat → Nat → Nat

/-- The bytes of a tone-map message with a map, or of the request for one (R505, R507; log entry 52). -/
opaque mapMessage : List Nat → List (BitVec 8)

/-- A byte of a page of the system region after a store of a record, by the number of the store and the offset (R408; the layout of the
records is not given, log entry 53). -/
opaque sysByte : Nat → Nat → BitVec 8

end Sys2Proof.Config
end

