-- ==== Sys2Proof/Machine/State.lean ====
section
/-! DEFINITION. The state of the block as plain data, the reasons a step can stop, and the state after reset. -/
namespace Sys2Proof.Machine

/-- No command of the block ends in a fault: the spec gives each an effect, a refusal in its own status bits, or an
error response (log entry 1). Raised by nobody; safe. -/
inductive Fault where
  | noFault
deriving DecidableEq, Repr

/-- `notModelled`: raised by an arm of exec for a command that has no meaning yet; safe. -/
inductive Refusal where
  | notModelled (mnemonic : String)
deriving DecidableEq, Repr

/-- A sparse memory: strictly rising keys, no entry equal to what an unlisted key reads as. -/
abbrev SMap (α : Type) := List (Nat × α)

/-- The channel builds (R2). -/
inductive Build where
  | q | t | s
deriving DecidableEq, Repr

/-- What the fuses and straps fix (R1-R6, R69, R94, R95, R198, R458, R547, R571, R591; log entries 2 and 3). `tcfRef` is the
reference temperature in 1/1024 °C, and `tcfTable` holds the trimmed temperatures with the factor of each channel there. -/
structure Fuses where
  build : Build
  plc : Bool
  gradeB : Bool
  die : BitVec 8
  romver : BitVec 8
  fabver : BitVec 4
  rtcver : BitVec 2
  levels : BitVec 4
  sliceOfs : List Tri
  sliceGrat : List Tri
  paceRef : BitVec 16
  lrcDiv : BitVec 16
  key0 : BitVec 256
  key1 : BitVec 256
  auxCal : List (Nat × Int)
  tcfRef : Int
  tcfTable : List (Int × List Frac)
  firmware : Word
  romSet : Word
  idPin : BitVec 3
  hselPin : Bool
  id : BitVec 3
  hsel : Bool
deriving DecidableEq, Repr

/-- The role of a slice (CNV_CHk_SLICE). -/
inductive Role where
  | resting | serving | standby | retired
deriving DecidableEq, Repr

/-- One slice of a channel (R57-R81): its role, offset (2^-20 packet), relative gain (2^-24), the boundary at which it
entered, the failed health checks in a row and whether it is due for retirement, its packet sum and its u1 at the start of the
cycle (2^-16 packet), its rectified offset-corrected sum (2^-20 packet, R68), the last 16 packets of the over-range window (R82),
and while it rests the MOD clocks since m0 with the sum over the offset window (R63). -/
structure Slice where
  role : Role
  ofs : Int
  grat : Int
  ofsValid : Bool
  entered : Nat
  ofsFails : Nat
  gainFails : Nat
  due : Bool
  pktSum : Int
  rectSum : Int
  u1Start : Int
  window : List Int
  rest : Option (Nat × Int)
deriving DecidableEq, Repr

/-- The flags of a sample (R25). -/
structure Flags where
  off : Bool
  settling : Bool
  disturb : Bool
  ovr : Bool
deriving DecidableEq, Repr

/-- The crossfade of a channel: the slices that served before m0, and the MOD clocks since m0 (R59, R64, R78). -/
structure Xfade where
  old : List (Fin 3)
  k : Nat
deriving DecidableEq, Repr

/-- A converter channel and its filter chain (02, 03). `clearAt`: the chain clears at its next decimation
instant (R129). -/
structure Chan where
  s0 : Slice
  s1 : Slice
  s2 : Slice
  rotCnt : Nat
  xfade : Option Xfade
  e1 : Frac
  e2 : Frac
  clks : Nat
  whole : Bool
  measPhase : Nat
  ovrAge : Option Nat
  integ : List Nat
  combs : List Nat
  span : List Int
  comb : Int
  latched : List Int
  sigmaOvr : Bool
  clearAt : Bool
  rankWin : List (Int × Flags)
  compWin : List (Int × Flags)
  intS : Int
  intPrev : Int
  zeroLeft : Nat
  flagLeft : Nat
  distTail : Nat
  run0 : Nat
  run1 : Nat
  x4 : Int
  xq4 : Int
  y : Int
  yq : Int
  flags : Flags
  qflags : Flags
deriving DecidableEq, Repr

/-- The windows a relief unit runs over a channel (R143-R145, R158, R164). -/
inductive WinKind where
  | none | settle | waitOpen | open
deriving DecidableEq, Repr

/-- A relief unit (04). The state code and job fields are registers; this is the rest. `b1`: the first window of the handover or
visit has opened, `sinceB1` cycles ago (R143, R144). -/
structure Relief where
  autoswap : Bool
  matchcyc : Nat
  win : WinKind
  cycles : Nat
  b1 : Bool
  sinceB1 : Nat
  total : Nat
  skipped : Nat
  n : Int
  sx : Frac
  sy : Frac
  sxx : Frac
  sxy : Frac
  syy : Frac
  patrolling : Bool
  visiting : Option (Fin 16)
  lastDone : Option (Fin 16)
  refs : SMap Frac
  visits : Nat
deriving DecidableEq, Repr

/-- The calibration unit (R170-R179): the running step, its channel, source, mode and length, and its sums. -/
structure CalUnit where
  full : Bool
  ch : Fin 16
  short : Bool
  dc : Bool
  ncyc : Nat
  running : Bool
  cycles : Nat
  since : Nat
  n : Int
  sum : Frac
  sq : Frac
  restart : Bool
deriving DecidableEq, Repr

/-- The cycle figures a frame carries (R255). -/
structure CycFigs where
  len : Nat
  freq : Nat
  count : Nat
  valid : Bool
  locked : Bool
  frames : Nat
deriving DecidableEq, Repr

/-- A sample frame (R182-R184): its sequence number, the codes of ports 0-15, the flag words, FINFO, the cycle figures
and the time it entered the FIFO (R203). -/
structure Frame where
  seq : Nat
  ports : List Int
  flagi : Word
  flagq : Word
  finfo : Word
  figs : CycFigs
  tIn : Nat
deriving DecidableEq, Repr

/-- The handlers of an engine (R188). -/
inductive HKind where
  | sample | cycle | block | second | mail | fault
deriving DecidableEq, Repr

/-- A staged EVT: code, payload, frame sequence number and the record's stamp word (R253, R316). -/
structure StagedEvt where
  code : BitVec 8
  payload : Word
  seq : Nat
  stamp : Word
deriving DecidableEq, Repr

/-- What a handler stages until its RET (R193). -/
structure Stage where
  res : List (Nat × DWord)
  resAny : Bool
  pulses : SMap Int
  evts : List StagedEvt
deriving DecidableEq, Repr

/-- A handler in progress: its kind, the stack entries present at its dispatch, its pace count, its stage and the frame
a SAMPLE processes (R189-R193, R258). -/
structure Handler where
  kind : HKind
  base : Nat
  paces : Nat
  stage : Stage
  frame : Option Frame
deriving DecidableEq, Repr

/-- A background handler interrupted at a YIELD: what R191 saves. -/
structure Susp where
  h : Handler
  pc : Nat
  z : Bool
  n : Bool
  v : Bool
  c : Bool
deriving DecidableEq, Repr

/-- The sums of one term over a cycle in a reference program (R264): energies in units of 2^-46, squares in units of 2^-76, sums with
cosine and sine in units of 2^-84. -/
structure RefTerm where
  e : Int
  q : Int
  vv : Int
  ii : Int
  vc : Int
  vs : Int
  ic : Int
  is : Int
deriving DecidableEq, Repr

/-- A spread quantity (R273): what is not yet paid of the cycle's value, the payment of a frame, and what of the value before falls
due on the next frame. -/
structure RefSpread where
  rest : Int
  rate : Int
  carry : Int
deriving DecidableEq, Repr

/-- A reference program of the ROM as an engine runs it (R289): which one (3P4W, 3P3W, 1P×3), the frames and sums of the cycle so far,
the trimmed currents of the frames before, the energy registers, the spread quantities, the skipped frames, and what the latest
cycle left for CYCLE. -/
structure RefProg where
  prog : Fin 3
  n : Nat
  terms : List RefTerm
  past : List (List Int)
  prev : Option Frame
  totals : SMap AWord
  spread : SMap RefSpread
  skipped : Nat
  last : List RefTerm
  lastN : Nat
  lastCreep : Bool
deriving DecidableEq, Repr

/-- One entry of an engine's post queue (R252). -/
structure PostEntry where
  mb : Fin 32
  w : Fin 16
  data : Word
  go : Bool
deriving DecidableEq, Repr

/-- When a bound request applies: at the frame whose output instant is at or after a time, or at a cycle boundary. -/
inductive ApplyAt where
  | frame (t : Nat)
  | cycle (n : Nat)
deriving DecidableEq, Repr

/-- One word of an engine's table queue with its binding; `ready` once its apply point has passed, `held` where that point fell in a
background handler, for whose RET it waits (R208, R222). -/
structure TableEntry where
  word : Fin 2048
  data : DWord
  bind : Option ApplyAt
  ready : Bool
  held : Bool
deriving DecidableEq, Repr

/-- The states of an engine with PD5 on (R204). -/
inductive EState where
  | idle | armed | running | faulting | faulted | snap | shadow | released
deriving DecidableEq, Repr

/-- An engine (05, 06). `pc` is 4096 after word 4095 (R249). `relUpto`: it gives up its role at that frame (R217);
`stopping`: a STOP has reached its boundary (R210); `quiet`: its PULSE, EVT and POST effects are discarded (R216), and so are those of its frames below
`roleFrom`, where a role that it has taken begins (R217, R218); `ref`: its program memory holds a reference program as LOADREF left it. -/
structure Engine where
  st : EState
  prog : SMap Word
  table : SMap DWord
  d : SMap DWord
  a : SMap AWord
  x : SMap (BitVec 12)
  z : Bool
  n : Bool
  v : Bool
  c : Bool
  s : Bool
  pc : Nat
  stack : List Nat
  results : SMap DWord
  fifo : List Frame
  cur : Option Handler
  susp : Option Susp
  evCycle : Bool
  evBlock : Bool
  evSecond : Bool
  evMail : Bool
  evFault : Bool
  hdone : Nat
  hdoneAny : Bool
  lastFigs : CycFigs
  lastStamp : Word
  postq : List PostEntry
  postRefused : Nat
  tqueue : List TableEntry
  mailCopied : List (Fin 32)
  mailServed : List (Fin 32)
  normSum : Nat
  normCount : Nat
  relUpto : Option Nat
  stopping : Bool
  quiet : Bool
  roleFrom : Nat
  ref : Option RefProg
deriving DecidableEq, Repr

/-- Where engine relief stands (R215-R221): the group served or shadowed, the shadowing engine, a SNAP or HANDBACK that
waits for its copy point (a HANDBACK with its NOW and FORCE), the PULSE sums of frames committed by one of the pair only
(`none`: the frame was lost), the first frame compared, the new holder with its first frame while the old one works off its
queue, a bound TAKEOVER or HANDBACK, an ABORT due at the next frame, and the old holder the result view still shows. -/
structure EngineRelief where
  group : Fin 4
  shadow : Option (Fin 5)
  snapWait : Bool
  handWait : Bool
  handNow : Bool
  ours : List (Nat × Option (SMap Int))
  theirs : List (Nat × Option (SMap Int))
  since : Nat
  passing : Option (Fin 5 × Nat)
  takeBound : Option ApplyAt
  handBound : Option ApplyAt
  abortDue : Bool
  viewOld : Option (Fin 5 × Nat)
deriving DecidableEq, Repr

/-- A cycle's window of a pulse output: its boundary (first frame of the next cycle) once known, with n_c and L, and
the contributions summed so far; `len` is L in XTM periods (R275, R276). -/
structure PWin where
  upto : Option Nat
  nc : Nat
  creep : Nat
  len : Nat
  sum : Int
deriving DecidableEq, Repr

/-- A calibration-pulse output (R274-R279, R564): its windows, the open one last, H, P, the drain rate R, the pulse in
progress, the PLS ticks it has been inactive and since its latest start, the first frame it takes, the TOTAL it applied. -/
structure PulseOut where
  wins : List PWin
  h : Int
  p : Int
  rate : Nat
  active : Bool
  left : Nat
  idle : Nat
  sinceStart : Nat
  takesFrom : Nat
  aggRef : Option (BitVec 64)
deriving DecidableEq, Repr

/-- The baseline integrator and pulse source of a group (R266-R288): accumulators, cycle register, previous frame, frames
of the cycle, the source and the first frame of the latest fallback, the baseline contributions of the frames that wait for
their engine commit (R187), CREEP as it was before the boundary (R271), and the agreement check's snapshots. -/
structure Group where
  imp : AWord
  exp : AWord
  net0 : AWord
  net1 : AWord
  net2 : AWord
  net3 : AWord
  cycReg : Int
  prev : Option Frame
  nc : Nat
  base : Bool
  firstBase : Nat
  hist : List (Nat × Int)
  creepOld : Nat
  snapB : AWord × AWord
  snapE : AWord × AWord
  snapPend : Option (Nat × AWord × AWord × Bool)
  fbAt : Nat
  agrFirst : Bool
  agrBroken : Bool
deriving DecidableEq, Repr

/-- The frequency-locked loop (R293-R297). Times are in XTM periods: the latest sample with its instant and flag, the
latest crossing and whether it was flagged, the length of the latest candidate cycle and the run of agreeing ones; `exemptFrom`
and `exemptTo`: the settling interval of a synchronising reset (R295), its end once known; `exempts` in a row; `afterExempt`:
the running cycle began at a predicted tick 0; `lockedAll`: locked since its start; `tick0`: its start; `due`: where the loop predicts the next tick 0; `cycLen`: the whole
length of the latest completed cycle (R255), which may not fit CLK_CYCLEN; the loop's period. -/
structure Fll where
  armed : Bool
  prev : Option (Int × Nat)
  lastX : Option Nat
  lastBad : Bool
  lastLen : Nat
  run : Nat
  exemptFrom : Option Nat
  exemptTo : Option Nat
  exempts : Nat
  afterExempt : Bool
  lockedAll : Bool
  tick0 : Nat
  due : Nat
  cycLen : Nat
  period : Nat
deriving DecidableEq, Repr

/-- One frame's part in the harmonic unit (R299): its output instant, the codes and flags of the seven streams. -/
structure HPoint where
  t : Nat
  codes : List Int
  flags : List Flags
deriving DecidableEq, Repr

/-- A closed cycle of the harmonic unit that waits for its points (R300, R304): tick 0 of it and of the next, its count, the
length, VALID, the preset, whether its nominal frequency is 60 Hz, and whether a block ends with it: 0 no, 1 truncated, else
complete with that many cycles. -/
structure HCyc where
  t0 : Nat
  t1 : Nat
  count : Nat
  len : Nat
  valid : Bool
  preset : Nat
  nom60 : Bool
  ends : Nat
deriving DecidableEq, Repr

/-- A transformed cycle (R303, R305): per stream the points in units of 2^-22 code, and the bits OK, OVR and DIST; its length,
VALID, preset and nominal frequency. -/
structure HRes where
  pts : List (List Int)
  ok : List Bool
  ovr : List Bool
  dist : List Bool
  len : Nat
  valid : Bool
  preset : Nat
  nom60 : Bool
deriving DecidableEq, Repr

/-- The harmonic unit of a group (R299-R310): the latest frames, the closed cycles that wait for frames, the cycles of the
running block, a closed block that waits to be posted with its truncation, the blocks ended, and the posted page words by
stream. -/
structure Harm where
  pts : List HPoint
  wait : List HCyc
  block : List HRes
  blkWait : Option (List HRes × Bool)
  blkSeq : Nat
  page : SMap Word
deriving DecidableEq, Repr

/-- An event record of four words (R316). -/
structure EvtRec where
  w0 : Word
  w1 : Word
  w2 : Word
  w3 : Word
deriving DecidableEq, Repr

/-- One channel m of the EVT block (R311-R313): the samples of the running and the previous half window, the extremes
of its active events, and the values of the block (R312). -/
structure EvtChan where
  half : List (Int × Bool)
  prevHalf : List (Int × Bool)
  halfLocked : Bool
  prevLocked : Bool
  sagExt : Nat
  swellExt : Nat
  intExt : Nat
  blkVals : List (Nat × Bool)
deriving DecidableEq, Repr

/-- The EVT block (R311-R316); `lockPend` and `dcPend`: records that wait for their deciding frame (R315). -/
structure Evt where
  chans : Vector EvtChan 7
  half : Nat
  dcRuns : SMap Nat
  fifo : List EvtRec
  nextSeq : BitVec 8
  lockPend : List (Nat × Nat × Word)
  dcPend : List (Nat × Bool × Int)
deriving DecidableEq, Repr

/-- A trigger of the auxiliary converter: its source (0 RTC, 1 TIMER, 2 PW, 3 urgent, 4 ZERO step, 5 FULL step), the
input of an urgent or calibration request, its time and the delay it was accepted with (R327-R332). -/
structure AuxTrig where
  src : Nat
  insel : Nat
  t : Nat
  delay : Nat
deriving DecidableEq, Repr

/-- A conversion in progress: its trigger, the input it took at its start, whether CYC has been locked throughout its
window, its lateness in 1/16384 ms, its mode, whether CYC was locked at its start and times its
window, the XTM period it starts at, and the count of CYC ticks at the start of its window
(R323, R325, R330, R334). -/
structure AuxRun where
  trig : AuxTrig
  insel : Nat
  locked : Bool
  late : Nat
  mode : Nat
  byCyc : Bool
  start : Nat
  tick0 : Nat
deriving DecidableEq, Repr

/-- The auxiliary converter (09): the accepted trigger whose delay runs, the conversion in progress, the held trigger, the
urgent request, the zero points of the pins calibrated since PD1 SUP was reset (R333), when the latest conversion ended, and when the
TIMER source last fired or was enabled (R327, R330). -/
structure Aux where
  waiting : Option AuxTrig
  running : Option AuxRun
  held : Option AuxTrig
  urgent : Option AuxTrig
  zeros : SMap Int
  lastEnd : Nat
  timerAt : Nat
deriving DecidableEq, Repr

/-- A mailbox's state beside its registers (R389-R400). -/
structure Mbox where
  full : Bool
  mixed : Bool
  stale : Bool
  mseq : BitVec 8
  writers : List Nat
  high : Nat
deriving DecidableEq, Repr

/-- A command the supervisor holds: its words, the stamped sender and that sender's level at the take (R404, R405). -/
structure HeldCmd where
  words : List Word
  sender : Nat
  priv : Nat
  started : Bool
deriving DecidableEq, Repr

/-- The supervisor (R403-R405): held commands, replies and notices waiting (notices as OP word and data), dropped counts, and a
PROFRUN in progress: the power commands made so far, its command and its domains (R475). -/
structure Sup where
  held : List HeldCmd
  replies : List (List Word)
  notices : List (List Word)
  dropped : SMap Nat
  profStep : Option (Nat × HeldCmd × Nat)
deriving DecidableEq, Repr

/-- A session of a host master (R574-R577). `state` 0 none, 1 challenge, 2 open. -/
structure Session where
  level : Nat
  slot : Nat
  chalT : Nat
  reqLevel : Nat
  reqSlot : Nat
  mask : BitVec 4
deriving DecidableEq, Repr

/-- The real-time clock (13): the calendar as ticks from the epoch, the trim accumulator (10^-7 period), the trim in force and
the periods of the running tick, LASTFIRE of the alarms, the ticks since EN of the periodic event and one that is due, a return
to XT32 at the next tick, the calendar shadows by master (SUBSEC, TIME, DATE, YEAR), an event that awaits its frame, the
temperature in force with the time of that reading and the one before it (R95, R334), PD0 on VBAT, VBAT below its limit, whether the
latest tick brought a new second, and the alarms that fired at it with their ALMn and LASTFIRE before (R466). -/
structure Rtc where
  ticks : Nat
  trimAcc : Int
  trimNow : Int
  periods : Nat
  last0 : Option Nat
  last1 : Option Nat
  perCount : Nat
  perDue : Bool
  xtPend : Bool
  shadows : SMap (Word × Word × Word × Word)
  evfPend : Bool
  tempInForce : Option Int
  tempAt : Nat
  tempPrev : Option Int
  vddLow : Bool
  vbatLow : Bool
  newSec : Bool
  fired : List (Nat × Bool × Option Nat)
deriving DecidableEq, Repr

/-- A station in the neighbour table (R505-R509, R516): its address, the time it was last heard in XTM periods, the latest
values of its SACK LQ and header SNR, LOCK of its latest header, the class of the running phase measurements with their deltas,
the reported class (7 unknown) with its inversion and offset, and the tone maps. -/
structure Nbr where
  addr : Nat
  heard : Nat
  lqs : List Nat
  snrs : List Nat
  lockHdr : Bool
  runClass : Nat
  runDeltas : List Nat
  cls : Nat
  inverted : Bool
  offset : Nat
  tx : Option ToneMap
  rxCur : Option ToneMap
  rxPrev : Option ToneMap
deriving DecidableEq, Repr

/-- A message to be sent (R514, R521): `bytes` is what is not yet acknowledged, of which the frame of number `seq` carries
`take` bytes in `nblk` blocks of `payload` (0: no frame sent yet); `failed` the blocks the latest SACK marked failed, none before a SACK;
the repeats of this SEQ, the frames sent, the next hop of the latest, the SEND it belongs to, the tone map that a message of the firmware
carries, or none for its request for one (R505, R507), and the time the station got it (R510). -/
structure TxMsg where
  fdst : Nat
  src : Nat
  pri : Nat
  hops : Nat
  bytes : List Byte
  seq : Nat
  nblk : Nat
  take : Nat
  failed : Option (List Nat)
  repeats : Nat
  frames : Nat
  hop : Nat
  cmd : Option HeldCmd
  payload : List Byte
  mgmt : Option (Option ToneMap)
  got : Nat
deriving DecidableEq, Repr

/-- A transmission: its header, and the points sent in each symbol on the carriers of the band, none where a carrier is not
sent (R493-R502). -/
structure AirFrame where
  header : BitVec 96
  symbols : List (List (Option Nat))
deriving DecidableEq, Repr

/-- The blocks held of the latest SEQ of a source, of `nblk` (R513). -/
structure RxHold where
  src : Nat
  seq : Nat
  nblk : Nat
  blocks : SMap (List Byte)
deriving DecidableEq, Repr

/-- The SACK owed after a received frame (R502, R513), with the map the frame used. -/
structure SackDue where
  dst : Nat
  seq : Nat
  bitmap : BitVec 64
  lq : Nat
  wsw : Nat
  tmid : Nat
  failed : Bool
deriving DecidableEq, Repr

/-- The Heathline MAC (15): the two RAMs, the messages waiting in RX RAM, the neighbour table, the messages to send, the next
SEQ, the frame sent that awaits its SACK with the map it used, the time at which a slot won begins, CW in slots, the SACK owed, blocks
held, segments gathered by original source, messages delivered (SRC, SEQ, time), a STOP in progress, the band and mask of the start, the
latest transmission with the time it ends, the reference edge e (R511), the time until which a frame of others keeps the medium busy, and
the idle floor tracked (R510). -/
structure Plc where
  txRam : SMap Byte
  rxRam : SMap Byte
  rxMsgs : List (Nat × Nat)
  nbrs : List (Fin 32 × Nbr)
  queue : List TxMsg
  seq : Nat
  sent : Option (TxMsg × ToneMap)
  access : Option Nat
  cw : Nat
  sackDue : Option SackDue
  holds : List RxHold
  segs : SMap (SMap (List Byte))
  delivered : List (Nat × Nat × Nat)
  stopping : Option HeldCmd
  started : Bool
  bandRun : Bool
  maskRun : List Word
  air : Option AirFrame
  txUntil : Nat
  edge : Nat
  hearUntil : Nat
  floor : Nat
deriving DecidableEq, Repr

/-- A run of the panel in progress (R538, R540): the command with its reply still to come, target image and drive mask by words,
slot and band latched, the slot, target and mask of a second run of RECOVER, the frames run before this one, the loop resistance,
and whether the supervisor that must finish it has not been reset (R546). -/
structure PnlRun where
  cmd : HeldCmd
  target : Option (List Word)
  mask : List Word
  slot : Nat
  band : Nat
  second : Option (Nat × List Word)
  frames : Nat
  ohms : Nat
  live : Bool
deriving DecidableEq, Repr

/-- The panel driver (16): the words of the waveform RAM and the band headers by offset, the dial counters by segment, the image
of the latest completed update and whether the glass still shows it, the run in progress, a dial command held, a dial update
running with its band and image, the image of COM0 where it is known, the pump levels in 0.125 V, a bezel check in progress, and whether a band is in force (R531). -/
structure Pnl where
  wave : SMap Word
  dial : SMap Nat
  image : Option (List Word)
  shown : Bool
  run : Option PnlRun
  dialHeld : Bool
  dialRun : Option (Nat × List Word)
  dialImg : Option (List Word)
  v1 : Nat
  v2 : Nat
  bezPend : Bool
  tempOk : Bool
deriving DecidableEq, Repr

/-- An aggregate contribution in flight (R562, R563): its channel, the round it was sent in, the rounds since, and the amount
in units of 2^-46 quantum. -/
structure Flight where
  ch : Fin 4
  rnum : BitVec 8
  age : Nat
  amount : Int
deriving DecidableEq, Repr

/-- A chain message being sent in an owned slot (R557-R560): its mailbox, destination, length and toggle, the data words
acknowledged, whether the slot has been sent, and the rounds it came back with RESULT 0. -/
structure Lane where
  mbx : Fin 32
  dst : Nat
  dmbx : Nat
  len : Nat
  toggle : Bool
  next : Nat
  sent : Bool
  waited : Nat
deriving DecidableEq, Repr

/-- The Dolzu ring (17): the link, the run of good and of bad rounds, the last round number sent, OKMAP as the next round will
carry it and whether the round in progress came back whole (master), PRESENT and the slots as the master last received them,
TOTAL, backlogs and amounts in flight, the messages in the two owned slots, the latest T sent by destination and taken by
source, and the round as it last left the device. -/
structure Chn where
  up : Bool
  lnkOk : Bool
  synced : Bool
  dupId : Bool
  good : Nat
  bad : Nat
  rnum : BitVec 8
  okHist : BitVec 8
  gotOk : Bool
  present : List Bool
  slotsRx : List RingSlot
  total : Vector (BitVec 64) 4
  backlog : Vector Int 4
  flight : List Flight
  lane0 : Option Lane
  lane1 : Option Lane
  togglesTx : SMap Bool
  togglesRx : SMap Bool
  lastRound : Option Round
deriving DecidableEq, Repr

/-- The requests bound to a cycle boundary other than update groups (R40). -/
inductive Bind where
  | retire (ch : Fin 18) (sl : Fin 3)
  | autoRetire (ch : Fin 18) (sl : Fin 3)
  | restore (ch : Fin 18) (sl : Fin 3)
  | measofs (ch : Fin 18)
  | bgSwap
  | rlStart (u : Fin 2) (target : Fin 16) (matchcyc : Nat) (auto : Bool)
  | rlSwap (u : Fin 2)
  | rlReturn (u : Fin 2) (matchcyc : Nat) (auto : Bool)
  | rlAbort (u : Fin 2)
  | rlPatrol (u : Fin 2)
  | rlPstop (u : Fin 2)
  | rlTimeout (u : Fin 2)
  | cal
  | admitting (e : Fin 5)
  | stop (e : Fin 5)
  | srcEngine (g : Fin 4)
  | blkSync
deriving DecidableEq, Repr

/-- A staged copy of an update group: its apply point and the values that become active (R373). -/
structure Staged where
  ug : Fin 8
  late : Bool
  pt : ApplyAt
  vals : SMap Word
deriving DecidableEq, Repr

/-- What the fabric last answered, the model's own output field (log entry 6): read data, a completed write, or an
error response with its cause. -/
inductive Resp where
  | none
  | data (w : Word)
  | done
  | err (cause : Nat)
deriving DecidableEq, Repr

/-- The power sequence in progress (R472): the steps still to do, and the mailbox command it carries out (R475). -/
structure PwrSeq where
  steps : List (Fin 8 × Bool)
  vcore : Option (BitVec 5)
deriving DecidableEq, Repr

/-- Everything but the ferroelectric store. -/
structure Dev where
  now : Nat
  instT : Nat
  fuses : Fuses
  inReset : Bool
  resetPin : Bool
  regs : SMap Word
  act : SMap Word
  inst : SMap Word
  staged : List Staged
  bound : List (Nat × Bind)
  shadow : SMap (Nat × List Word)
  halves : SMap (Nat × BitVec 16)
  locks : SMap Nat
  cmPend : List Nat
  resp : Resp
  miso : List Byte
  i2cResp : Option (List Byte)
  pwr : Option PwrSeq
  modCnt : Nat
  modOn : Bool
  syncDue : Nat
  frameSeq : Nat
  cycN : Nat
  cutoffPassed : Bool
  cycMark : Bool
  blkMark : Bool
  secMark : Bool
  swpMark : List (Fin 4)
  blkCount : Nat
  escCycN : Nat
  framesCyc : Nat
  framesPrev : Nat
  halfMark : Bool
  chans : Vector Chan 18
  relief : Vector Relief 2
  slots : Vector (Fin 18) 16
  cal : Option CalUnit
  calZeros : SMap Int
  rcf : Frac
  tcfTemp : Option Int
  qfreq : Option Nat
  engines : Vector Engine 5
  er : EngineRelief
  roles : Vector (Fin 5) 4
  freeze : Option Nat
  vBound : Nat
  outs : Vector PulseOut 4
  groups : Vector Group 4
  fll : Fll
  harm : Vector Harm 4
  evt : Evt
  aux : Aux
  mbox : Vector Mbox 32
  sup : Sup
  sess : SMap Session
  rtc : Rtc
  plc : Plc
  pnl : Pnl
  chn : Chn
  cfgCapture : List Bool
  cycHigh : Bool
  txen : Bool
  freeCtr : Nat
deriving DecidableEq, Repr

/-- A page's CW33 and the check bytes in its CW32 (R412). -/
structure PageState where
  isOpen : Bool
  closes : Nat
  check : BitVec 64
deriving DecidableEq, Repr

/-- A ratchet counter's 68 codewords (R430): the cells, the two slots as (VALUE, CHK and GEN), and those that fail their inner code
(R413, R433): 0-63 the cells, 64 and 65 slot A, 66 and 67 slot B. -/
structure Ratchet where
  cells : SMap (BitVec 64)
  slotA : BitVec 64 × BitVec 64
  slotB : BitVec 64 × BitVec 64
  bad : List Nat
deriving DecidableEq, Repr

/-- A copy of a small table kept in two alternating copies with a sequence number and its CRC-32C; `bad`: a codeword of it fails its
inner code (R413, R426, R578). -/
structure Copy (α : Type) where
  seq : Nat
  crc : Word
  bad : Bool
  val : α
deriving DecidableEq, Repr

/-- An entry of the legal event log, as its 32 bytes (R584). -/
abbrev LogEntry := List Byte

/-- The journal record of the panel (R539). -/
structure Journal where
  seq : Nat
  pending : Bool
  slot : Nat
  band : Nat
  target : List Word
  mask : List Word
deriving DecidableEq, Repr

/-- What the supervisor's scan of a record area found (R442): the valid slots, the newest one with its SEQ, the TORN pages. -/
structure AreaScan where
  valid : List Nat
  newest : Option (Nat × Nat)
  torn : List Nat
deriving DecidableEq, Repr

/-- What the array holds (R407, R408): user and system bytes and spare pages as one byte memory by physical page, the pages' CW32 and
CW33, the codewords that do not read clean, the remap copies, the ratchet counters, and the records of the system region. -/
structure Stored where
  mem : List Host.Cell
  pages : SMap PageState
  errs : SMap CwErrs
  remapA : Copy (List (Nat × Nat))
  remapB : Copy (List (Nat × Nat))
  counters : Vector Ratchet 16
  areas : SMap (Nat × Nat)
  keys : SMap (BitVec 256)
  lockFails : SMap Nat
  pmapA : Copy (List Word)
  pmapB : Copy (List Word)
  sealA : Copy Bool
  sealB : Copy Bool
  log : List LogEntry
  journal : List Journal
  stressA : Copy (SMap Nat)
  stressB : Copy (SMap Nat)
  waves : Option (SMap Word)
  profiles : SMap (BitVec 8 × BitVec 5)
deriving DecidableEq, Repr

/-- The ferroelectric store (12): what the array holds, and the controller: the open page, the remap table in force and a remap in
progress, a scrub with the page it reads next, the pages it leaves and its tally (REWRITTEN, TORN, REMAPPED), the cache of the
counters, the scans of the record areas, and what the array held before each write pulse of the latest command that wrote, with
the time of that command (R419; the model's own, log entry 53). `sysStores` numbers the stores of records. -/
structure Nvm extends Stored where
  openPage : Option Nat
  remapNow : List (Nat × Nat)
  remapRun : Option (Nat × Nat)
  scrubbing : Bool
  scrubNext : Nat
  scrubDirty : List Nat
  scrubTally : Nat × Nat × Nat
  cache : Vector (BitVec 64 × Nat × Bool × Nat × Bool) 16
  scans : SMap AreaScan
  locked : List (Fin 8)
  endPend : List (Master × Nat × BitVec 4)
  flight : List Stored
  flightAt : Nat
  sysStores : Nat
deriving DecidableEq, Repr

/-- The chip: the device and its ferroelectric store. -/
structure Chip where
  dev : Dev
  nvm : Nvm
deriving DecidableEq, Repr

/-- The machine: the queue of commands that wait, first in first out, and the chip. -/
structure State where
  pending : List Instr
  chip : Chip
deriving DecidableEq, Repr

/-! ## The values a block's state takes when its domain powers up, and the state after reset -/

/-- A slice of a channel that is off. -/
def emptySlice : Slice := ⟨.resting, 0, 0, false, 0, 0, 0, false, 0, 0, 0, [], none⟩

/-- A channel that is off: its samples carry OFF (R26). -/
def offChan : Chan :=
  { s0 := emptySlice, s1 := emptySlice, s2 := emptySlice, rotCnt := 0, xfade := none, e1 := ⟨0, 1⟩, e2 := ⟨0, 1⟩, clks := 0,
    whole := false, measPhase := 0, ovrAge := none, integ := [], combs := [], span := [], comb := 0, latched := [], sigmaOvr := false,
    clearAt := false, rankWin := [], compWin := [], intS := 0, intPrev := 0, zeroLeft := 0, flagLeft := 0, distTail := 0,
    run0 := 0, run1 := 0, x4 := 0, xq4 := 0, y := 0, yq := 0, flags := ⟨true, false, false, false⟩,
    qflags := ⟨true, false, false, false⟩ }

/-- A relief unit in IDLE (R139). -/
def Relief.idle : Relief :=
  { autoswap := true, matchcyc := 16, win := .none, cycles := 0, b1 := false, sinceB1 := 0, total := 0, skipped := 0, n := 0,
    sx := ⟨0, 1⟩, sy := ⟨0, 1⟩, sxx := ⟨0, 1⟩, sxy := ⟨0, 1⟩, syy := ⟨0, 1⟩, patrolling := false, visiting := none,
    lastDone := none, refs := [], visits := 0 }

/-- The cycle figures before any cycle has completed. -/
def CycFigs.zero : CycFigs := ⟨0, 0, 0, false, false, 0⟩

/-- An engine as PD5 ESC powers up: memories, registers and results zero, IDLE (R209). -/
def Engine.zero : Engine :=
  { st := .idle, prog := [], table := [], d := [], a := [], x := [], z := false, n := false, v := false, c := false,
    s := false, pc := 0, stack := [], results := [], fifo := [], cur := none, susp := none, evCycle := false,
    evBlock := false, evSecond := false, evMail := false, evFault := false, hdone := 0, hdoneAny := false,
    lastFigs := CycFigs.zero, lastStamp := 0, postq := [], postRefused := 0, tqueue := [], mailCopied := [], mailServed := [],
    normSum := 0, normCount := 0, relUpto := none,
    stopping := false, quiet := false, roleFrom := 0, ref := none }

/-- A term with nothing summed. -/
def RefTerm.zero : RefTerm := { e := 0, q := 0, vv := 0, ii := 0, vc := 0, vs := 0, ic := 0, is := 0 }

/-- A spread quantity with nothing to pay. -/
def RefSpread.none : RefSpread := { rest := 0, rate := 0, carry := 0 }

/-- A reference program as LOADREF leaves it. -/
def RefProg.zero (p : Fin 3) : RefProg :=
  { prog := p, n := 0, terms := List.replicate (if p = 1 then 2 else 3) RefTerm.zero, past := [], prev := none, totals := [], spread := []
    skipped := 0, last := [], lastN := 0, lastCreep := false }

/-- Engine relief with nothing going on. -/
def EngineRelief.zero : EngineRelief :=
  { group := 0, shadow := none, snapWait := false, handWait := false, handNow := false, ours := [], theirs := [],
    since := 0, passing := none, takeBound := none, handBound := none, abortDue := false, viewOld := none }

/-- A pulse output as PD5 ESC powers up. -/
def PulseOut.zero : PulseOut :=
  { wins := [⟨none, 0, 0, 0, 0⟩], h := 0, p := 0, rate := 0, active := false, left := 0, idle := 0, sinceStart := 163840,
    takesFrom := 0, aggRef := none }

/-- A group's baseline integrator as PD5 ESC powers up: the source is BASE (R280). -/
def Group.zero : Group :=
  { imp := 0, exp := 0, net0 := 0, net1 := 0, net2 := 0, net3 := 0, cycReg := 0, prev := none, nc := 0, base := true,
    firstBase := 0, hist := [], creepOld := 0, snapB := (0, 0), snapE := (0, 0), snapPend := none, fbAt := 0, agrFirst := true,
    agrBroken := true }

/-- The frequency-locked loop, running free (R43). -/
def Fll.zero : Fll :=
  { armed := false, prev := none, lastX := none, lastBad := false, lastLen := 0, run := 0, exemptFrom := none, exemptTo := none,
    exempts := 0, afterExempt := false, lockedAll := false, tick0 := 0, due := 327680, cycLen := 0,
    period := 327680 }

/-- A harmonic unit as PD5 ESC powers up. -/
def Harm.zero : Harm := { pts := [], wait := [], block := [], blkWait := none, blkSeq := 0, page := [] }

/-- A channel of the EVT block as PD5 ESC powers up. -/
def EvtChan.zero : EvtChan :=
  { half := [], prevHalf := [], halfLocked := false, prevLocked := false, sagExt := 0, swellExt := 0, intExt := 0, blkVals := [] }

/-- The EVT block as PD5 ESC powers up. -/
def Evt.zero : Evt :=
  { chans := Vector.replicate 7 EvtChan.zero, half := 0, dcRuns := [], fifo := [], nextSeq := 0, lockPend := [], dcPend := [] }

/-- The auxiliary converter, idle. -/
def Aux.zero : Aux :=
  { waiting := none, running := none, held := none, urgent := none, zeros := [], lastEnd := 0, timerAt := 0 }

/-- An empty mailbox (R392). -/
def Mbox.zero : Mbox := { full := false, mixed := false, stale := false, mseq := 0, writers := [], high := 0 }

/-- The supervisor holding nothing. -/
def Sup.zero : Sup := { held := [], replies := [], notices := [], dropped := [], profStep := none }

/-- No session. -/
def Session.zero : Session := { level := 3, slot := 0, chalT := 0, reqLevel := 0, reqSlot := 0, mask := 0 }

/-- The real-time clock at the epoch (R462). -/
def Rtc.zero : Rtc :=
  { ticks := 0, trimAcc := 0, trimNow := 0, periods := 128, last0 := none, last1 := none, perCount := 0, perDue := false,
    xtPend := false, shadows := [], evfPend := false, tempInForce := none, tempAt := 0, tempPrev := none, vddLow := false, vbatLow := false
    newSec := false, fired := [] }

/-- The Heathline MAC as PD6 PLC powers up. -/
def Plc.zero : Plc :=
  { txRam := [], rxRam := [], rxMsgs := [], nbrs := [], queue := [], seq := 0, sent := none, access := none, cw := 0,
    sackDue := none, holds := [], segs := [], delivered := [], stopping := none, started := false, bandRun := false,
    maskRun := [], air := none, txUntil := 0, edge := 0, hearUntil := 0, floor := 0 }

/-- The panel driver as PD7 PNL powers up, pump at 12.0 V and 4.0 V in units of 0.125 V (R529). -/
def Pnl.zero : Pnl :=
  { wave := [], dial := [], image := none, shown := false, run := none, dialHeld := false, dialRun := none, dialImg := none, v1 := 96,
    v2 := 32, bezPend := false, tempOk := false }

/-- The ring after a reset of PD1 SUP: the link is DOWN (R556). -/
def Chn.zero : Chn :=
  { up := false, lnkOk := false, synced := false, dupId := false, good := 0, bad := 0, rnum := 0, okHist := 0, gotOk := false,
    present := [], slotsRx := [], total := Vector.replicate 4 0, backlog := Vector.replicate 4 0, flight := [], lane0 := none, lane1 := none,
    togglesTx := [], togglesRx := [], lastRound := none }

/-- The fuses and straps of the modelled part: a ZMR8-QPA alone on its board (log entries 2 and 3). -/
def Fuses.factory : Fuses :=
  { build := .q, plc := true, gradeB := false, die := 1, romver := 1, fabver := 1, rtcver := 1, levels := 0xE,
    sliceOfs := List.replicate 18 ⟨0, 0, 0⟩, sliceGrat := List.replicate 18 ⟨0, 0, 0⟩, paceRef := 0, lrcDiv := 0x7D00,
    key0 := 0, key1 := 0, auxCal := [], tcfRef := 25600, tcfTable := [], firmware := 0, romSet := 0, idPin := 0, hselPin := false, id := 0, hsel := false }

/-- The device after the power-on reset and its sequence (R478, R479), before CK2 XTM is verified: PD0 and PD1 on,
PD2-PD7 off, every register at its reset value (the register map holds only what differs from the reset values of the register rows: the fused
divider in RTC_LRCTRIM, R458). -/
def Dev.reset : Dev :=
  { now := 0, instT := 0, fuses := Fuses.factory, inReset := false, resetPin := false, regs := [(0x110038, 0x7D00#32)], act := [], inst := [], staged := [],
    bound := [], shadow := [], halves := [], locks := [], cmPend := [], resp := .none, miso := [], i2cResp := none,
    pwr := none, modCnt := 0, modOn := false, syncDue := 0, frameSeq := 0, cycN := 0, cutoffPassed := false,
    cycMark := false, blkMark := false, secMark := false, swpMark := [], blkCount := 0, escCycN := 0, framesCyc := 0,
    framesPrev := 0, halfMark := false, chans := Vector.replicate 18 offChan, relief := #v[Relief.idle, Relief.idle],
    slots := #v[0, 1, 2, 3, 4, 5, 6, 7, 8, 9, 10, 11, 12, 13, 14, 15], cal := none, calZeros := [],
    rcf := ⟨1, 1⟩, tcfTemp := none, qfreq := none, engines := Vector.replicate 5 Engine.zero, er := EngineRelief.zero,
    roles := #v[0, 1, 2, 3], freeze := none, vBound := 20, outs := Vector.replicate 4 PulseOut.zero, groups := Vector.replicate 4 Group.zero,
    fll := Fll.zero, harm := Vector.replicate 4 Harm.zero, evt := Evt.zero, aux := Aux.zero,
    mbox := Vector.replicate 32 Mbox.zero, sup := Sup.zero, sess := [], rtc := Rtc.zero, plc := Plc.zero, pnl := Pnl.zero,
    chn := Chn.zero, cfgCapture := [], cycHigh := true, txen := false, freeCtr := 0 }

/-- A blank ratchet counter (R431). -/
def Ratchet.blank : Ratchet := { cells := [], slotA := (0, 0), slotB := (0, 0), bad := [] }

/-- A copy never written, every byte zero: its CRC does not match. -/
def Copy.blank {α : Type} (v : α) : Copy α := { seq := 0, crc := 0, bad := false, val := v }

/-- The ferroelectric store of a new part: every byte 0x00, every page closed (R412), counters blank, no record. -/
def Nvm.factory : Nvm :=
  { mem := [], pages := [], errs := [], openPage := none, remapA := Copy.blank [], remapB := Copy.blank [], remapNow := [],
    remapRun := none, scrubbing := false, scrubNext := 0, scrubDirty := [], scrubTally := (0, 0, 0), flight := [], flightAt := 0
    sysStores := 0, counters := Vector.replicate 16 Ratchet.blank,
    cache := Vector.replicate 16 (0, 0, false, 0, false), areas := [], scans := [], keys := [], lockFails := [], locked := [],
    pmapA := Copy.blank [], pmapB := Copy.blank [], sealA := Copy.blank false, sealB := Copy.blank false, log := [],
    journal := [], stressA := Copy.blank [], stressB := Copy.blank [], waves := none, profiles := [], endPend := [] }

/-- The machine right after reset: no command waits, the chip is after its power-on reset (log entries 2 to 5). -/
def State.reset : State := { pending := [], chip := { dev := Dev.reset, nvm := Nvm.factory } }

end Sys2Proof.Machine
end

