-- ==== Sys2Proof/Machine/Bits.lean ====
section
/-! DEFINITION. Bit fields, sign extension, rounding, exact fractions, integer roots and the sparse memory. -/
namespace Sys2Proof.Machine

/-! ## Bit fields (R16, R338) -/

/-- Bits [hi:lo] of a word as a number. -/
def fld (w : Word) (hi lo : Nat) : Nat := (w.toNat >>> lo) % 2 ^ (hi + 1 - lo)

/-- One bit of a word. -/
def bit (w : Word) (i : Nat) : Bool := w.getLsbD i

/-- A word with bits [hi:lo] set to a value, reduced to the field's width. -/
def setFld (w : Word) (hi lo v : Nat) : Word :=
  let m : Word := BitVec.ofNat 32 ((2 ^ (hi + 1 - lo) - 1) <<< lo)
  (w &&& ~~~m) ||| BitVec.ofNat 32 ((v % 2 ^ (hi + 1 - lo)) <<< lo)

/-- A word with one bit set or cleared. -/
def setBit (w : Word) (i : Nat) (b : Bool) : Word := setFld w i i b.toNat

/-- The value of a two's-complement field of n bits. -/
def sextN (n v : Nat) : Int := if v % 2 ^ n < 2 ^ (n - 1) then (v % 2 ^ n : Nat) else (v % 2 ^ n : Nat) - (2 ^ n : Nat)

/-- The two's-complement field of n bits of an integer. -/
def toField (n : Nat) (v : Int) : Nat := (v % (2 ^ n : Nat)).toNat

/-- A value limited to a range. -/
def clampI (lo hi v : Int) : Int := if v < lo then lo else if hi < v then hi else v

/-- A count that saturates at all ones of n bits (R342). -/
def satNat (n v : Nat) : Nat := Nat.min v (2 ^ n - 1)

/-- A signed value saturated to n bits. -/
def satI (n : Nat) (v : Int) : Int := clampI (-(2 ^ (n - 1) : Nat)) ((2 ^ (n - 1) : Nat) - 1) v

def wd (n : Nat) : Word := BitVec.ofNat 32 n

/-! ## Exact fractions and rounding (R106, R232) -/

namespace Q
/-- A fraction in lowest terms. -/
def mk (n : Int) (d : Nat) : Frac := let g := Nat.gcd n.natAbs d; if g ≤ 1 then ⟨n, d⟩ else ⟨n / (g : Int), d / g⟩
def ofInt (n : Int) : Frac := ⟨n, 1⟩
def add (a b : Frac) : Frac := mk (a.num * b.den + b.num * a.den) (a.den * b.den)
def neg (a : Frac) : Frac := ⟨-a.num, a.den⟩
def sub (a b : Frac) : Frac := add a (neg b)
def mul (a b : Frac) : Frac := mk (a.num * b.num) (a.den * b.den)
/-- The inverse; of 0 it is 0, which no rule asks for. -/
def inv (a : Frac) : Frac := if a.num = 0 then ⟨0, 1⟩ else if a.num < 0 then ⟨-(a.den : Int), a.num.natAbs⟩ else ⟨a.den, a.num.natAbs⟩
def div (a b : Frac) : Frac := mul a (inv b)
def lt (a b : Frac) : Bool := a.num * b.den < b.num * a.den
def le (a b : Frac) : Bool := a.num * b.den ≤ b.num * a.den
def abs (a : Frac) : Frac := ⟨a.num.natAbs, a.den⟩
def floor (a : Frac) : Int := a.num / (a.den : Int)
/-- Nearest integer, ties away from zero (R106). -/
def round (a : Frac) : Int :=
  if a.num < 0 then -((2 * (-a.num) + a.den) / (2 * (a.den : Int))) else (2 * a.num + a.den) / (2 * (a.den : Int))
/-- Nearest integer, ties to even (R232). -/
def roundEven (a : Frac) : Int :=
  let f := floor a
  let r := 2 * (a.num - f * a.den)
  if r < a.den then f else if r > a.den then f + 1 else if f % 2 = 0 then f else f + 1
end Q

/-- `n / 2^k` to the nearest integer, ties to even (R232). -/
def shrEven (n : Int) (k : Nat) : Int := Q.roundEven ⟨n, 2 ^ k⟩

/-- `n / 2^k` to the nearest integer, ties away from zero (R106). -/
def shrAway (n : Int) (k : Nat) : Int := Q.round ⟨n, 2 ^ k⟩

/-- The integer square root by Newton steps; `fuel` bounds their number. -/
def isqrtFrom : Nat → Nat → Nat → Nat
  | 0, _, x => x
  | fuel + 1, n, x => let y := (x + n / x) / 2; if y < x then isqrtFrom fuel n y else x

/-- The floor of the square root. -/
def isqrt (n : Nat) : Nat := if n = 0 then 0 else isqrtFrom (n.log2 + 2) n (2 ^ (n.log2 / 2 + 1))

/-- The square root to the nearest integer. -/
def isqrtRound (n : Nat) : Nat := let r := isqrt n; if n > r * r + r then r + 1 else r

/-- The square root of a non-negative fraction to the nearest integer. -/
def Q.sqrtRound (a : Frac) : Nat := (isqrt (4 * a.num.toNat / a.den) + 1) / 2

/-! ## The sparse memory -/

namespace SMap
variable {α : Type}

/-- What a key reads as; an unlisted key reads as the default. -/
def get (d : α) : SMap α → Nat → α
  | [], _ => d
  | (k, v) :: r, a => if a = k then v else get d r a

/-- Insert or replace an entry, keeping the keys rising. -/
def insert (k : Nat) (v : α) : SMap α → SMap α
  | [] => [(k, v)]
  | (k', v') :: r => if k < k' then (k, v) :: (k', v') :: r else if k = k' then (k, v) :: r else (k', v') :: insert k v r

/-- Remove an entry. -/
def erase (k : Nat) (m : SMap α) : SMap α := m.filter fun e => e.1 != k

/-- Write a value: the default removes the entry. -/
def set [DecidableEq α] (d : α) (m : SMap α) (k : Nat) (v : α) : SMap α :=
  if v = d then erase k m else insert k v m

/-- An entry, where one is listed. -/
def find : SMap α → Nat → Option α
  | [], _ => none
  | (k, v) :: r, a => if a = k then some v else find r a

/-- The entries outside a range of keys. -/
def dropRange (lo hi : Nat) (m : SMap α) : SMap α := m.filter fun e => e.1 < lo || hi ≤ e.1

/-- Keys strictly rise, from a lower bound. -/
def rising : Nat → SMap α → Bool
  | _, [] => true
  | lo, (k, _) :: r => decide (lo ≤ k) && rising (k + 1) r

/-- The canonical form: rising keys, no entry equal to the default. -/
def wf [DecidableEq α] (d : α) (m : SMap α) : Bool := rising 0 m && m.all fun e => decide (e.2 ≠ d)
end SMap

/-! ## Lists used as tables -/

/-- Replace the entry at an index by a function of it. -/
def modAt {α : Type} (l : List α) (i : Nat) (f : α → α) : List α := l.modify i f

end Sys2Proof.Machine
end

