-- ==== Sys2Proof/Machine/RegMap.lean ====
section
/-! DEFINITION. The register maps of the spec's chapters as data: addresses by name, and for each block the rows of its
register entries with their types, guards, field masks by type and reset values (R17, R33, R340). A value the table calls
fused or per record is 0 here and supplied by View.lean. -/
namespace Sys2Proof.Machine

/-- The type summary of a register entry (R340). -/
inductive RTyp where
  | rw | bw | ro | sq | ct | cm
deriving DecidableEq, Repr

/-- One register entry, or `count` of them `stride` apart: offset in the block, type, one instance per master (R339),
guards P and S, the masks of the fields by type, and the reset value (R17). -/
structure RegRow where
  off : Nat
  stride : Nat
  count : Nat
  typ : RTyp
  perM : Bool
  gp : Bool
  gs : Bool
  rw : Nat
  bw : Nat
  sq : Nat
  ct : Nat
  cm : Nat
  res : Nat
deriving DecidableEq, Repr

namespace A

/-- CNV_CAP. -/ def cnvCap : Nat := 0x040000
/-- CNV_CTRL. -/ def cnvCtrl : Nat := 0x040004
/-- CNV_HLIM. -/ def cnvHlim : Nat := 0x040008
/-- CNV_RETCMD. -/ def cnvRetcmd : Nat := 0x04000C
/-- CNV_RETIRE_LO. -/ def cnvRetireLo : Nat := 0x040010
/-- CNV_RETIRE_HI. -/ def cnvRetireHi : Nat := 0x040014
/-- CNV_REFCMD. -/ def cnvRefcmd : Nat := 0x040018
/-- CNV_REFSTAT. -/ def cnvRefstat : Nat := 0x04001C
/-- CNV_REFDIFF. -/ def cnvRefdiff : Nat := 0x040020
/-- CNV_CLAMP. -/ def cnvClamp : Nat := 0x040024
/-- CNV_CHk_CFG. -/ def cnvCHkCfg (k : Nat) : Nat := 0x040100 + 0x80 * k
/-- CNV_CHk_STAT. -/ def cnvCHkStat (k : Nat) : Nat := 0x040104 + 0x80 * k
/-- CNV_CHk_SLICE. -/ def cnvCHkSlice (k : Nat) : Nat := 0x040108 + 0x80 * k
/-- CNV_CHk_OFS0. -/ def cnvCHkOfs0 (k : Nat) : Nat := 0x04010C + 0x80 * k
/-- CNV_CHk_OFS1. -/ def cnvCHkOfs1 (k : Nat) : Nat := 0x040110 + 0x80 * k
/-- CNV_CHk_OFS2. -/ def cnvCHkOfs2 (k : Nat) : Nat := 0x040114 + 0x80 * k
/-- CNV_CHk_GRAT0. -/ def cnvCHkGrat0 (k : Nat) : Nat := 0x040118 + 0x80 * k
/-- CNV_CHk_GRAT1. -/ def cnvCHkGrat1 (k : Nat) : Nat := 0x04011C + 0x80 * k
/-- CNV_CHk_GRAT2. -/ def cnvCHkGrat2 (k : Nat) : Nat := 0x040120 + 0x80 * k
/-- CNV_CHk_CYCINT. -/ def cnvCHkCycint (k : Nat) : Nat := 0x040124 + 0x80 * k
/-- CNV_CHk_CYCLEN. -/ def cnvCHkCyclen (k : Nat) : Nat := 0x040128 + 0x80 * k
/-- CNV_CHk_DC. -/ def cnvCHkDc (k : Nat) : Nat := 0x04012C + 0x80 * k
/-- CNV_CHk_OVRCNT. -/ def cnvCHkOvrcnt (k : Nat) : Nat := 0x040130 + 0x80 * k
/-- CNV_CHk_DISTCNT. -/ def cnvCHkDistcnt (k : Nat) : Nat := 0x040134 + 0x80 * k
/-- CNV_CHk_CMD. -/ def cnvCHkCmd (k : Nat) : Nat := 0x040138 + 0x80 * k
/-- FLT_CAP. -/ def fltCap : Nat := 0x050000
/-- FLT_SYNC. -/ def fltSync : Nat := 0x050004
/-- FLT_STAT. -/ def fltStat : Nat := 0x050008
/-- FLT_ERRINFO. -/ def fltErrinfo : Nat := 0x05000C
/-- FLT_QCORR. -/ def fltQcorr : Nat := 0x050010
/-- FLT_FRAME. -/ def fltFrame : Nat := 0x050014
/-- FLT_CHk_CFG. -/ def fltCHkCfg (k : Nat) : Nat := 0x050100 + 0x80 * k
/-- FLT_CHk_STAT. -/ def fltCHkStat (k : Nat) : Nat := 0x050104 + 0x80 * k
/-- FLT_CHk_SAMPLE. -/ def fltCHkSample (k : Nat) : Nat := 0x050108 + 0x80 * k
/-- FLT_CHk_QSAMPLE. -/ def fltCHkQsample (k : Nat) : Nat := 0x05010C + 0x80 * k
/-- FLT_CHk_CALG. -/ def fltCHkCalg (k : Nat) : Nat := 0x050110 + 0x80 * k
/-- FLT_CHk_CALO. -/ def fltCHkCalo (k : Nat) : Nat := 0x050114 + 0x80 * k
/-- FLT_CHk_TH0. -/ def fltCHkTh0 (k : Nat) : Nat := 0x050118 + 0x80 * k
/-- FLT_CHk_TH1. -/ def fltCHkTh1 (k : Nat) : Nat := 0x050120 + 0x80 * k
/-- FLT_CHk_TH0P. -/ def fltCHkTh0p (k : Nat) : Nat := 0x05011C + 0x80 * k
/-- FLT_CHk_TH1P. -/ def fltCHkTh1p (k : Nat) : Nat := 0x050124 + 0x80 * k
/-- FLT_CHk_THCNT. -/ def fltCHkThcnt (k : Nat) : Nat := 0x050128 + 0x80 * k
/-- CNV_RLx_CMD. -/ def cnvRLxCmd (k : Nat) : Nat := 0x040040 + 0x20 * k
/-- CNV_RLx_STAT. -/ def cnvRLxStat (k : Nat) : Nat := 0x040044 + 0x20 * k
/-- CNV_RLx_JOB. -/ def cnvRLxJob (k : Nat) : Nat := 0x040048 + 0x20 * k
/-- CNV_RLx_MGAIN. -/ def cnvRLxMgain (k : Nat) : Nat := 0x04004C + 0x20 * k
/-- CNV_RLx_MOFS. -/ def cnvRLxMofs (k : Nat) : Nat := 0x040050 + 0x20 * k
/-- CNV_RLx_RESID. -/ def cnvRLxResid (k : Nat) : Nat := 0x040054 + 0x20 * k
/-- CNV_RLx_LIM. -/ def cnvRLxLim (k : Nat) : Nat := 0x040058 + 0x20 * k
/-- CNV_RLx_GDEV. -/ def cnvRLxGdev (k : Nat) : Nat := 0x04005C + 0x20 * k
/-- CNV_PTRL_LIST. -/ def cnvPtrlList : Nat := 0x040080
/-- CNV_PTRL_CFG. -/ def cnvPtrlCfg : Nat := 0x040084
/-- CNV_PTRL_CMD. -/ def cnvPtrlCmd : Nat := 0x040088
/-- CNV_PTRL_STAT. -/ def cnvPtrlStat : Nat := 0x04008C
/-- CNV_PTRL_DIS. -/ def cnvPtrlDis : Nat := 0x040090
/-- CNV_PTRL_LASTA. -/ def cnvPtrlLasta : Nat := 0x040094
/-- CNV_PTRL_LASTB. -/ def cnvPtrlLastb : Nat := 0x0400A4
/-- CNV_PTRL_RATIOA. -/ def cnvPtrlRatioa : Nat := 0x040098
/-- CNV_PTRL_RATIOB. -/ def cnvPtrlRatiob : Nat := 0x0400A8
/-- CNV_PTRL_DEVA. -/ def cnvPtrlDeva : Nat := 0x04009C
/-- CNV_PTRL_DEVB. -/ def cnvPtrlDevb : Nat := 0x0400AC
/-- CNV_PTRL_OFSA. -/ def cnvPtrlOfsa : Nat := 0x0400A0
/-- CNV_PTRL_OFSB. -/ def cnvPtrlOfsb : Nat := 0x0400B0
/-- CNV_CALCMD. -/ def cnvCalcmd : Nat := 0x0400C0
/-- CNV_CALTGT. -/ def cnvCaltgt : Nat := 0x0400C4
/-- CNV_CALSTAT. -/ def cnvCalstat : Nat := 0x0400C8
/-- CNV_CALMEAS0. -/ def cnvCalmeas0 : Nat := 0x0400CC
/-- CNV_CALMEAS1. -/ def cnvCalmeas1 : Nat := 0x0400D0
/-- CNV_CALRESG. -/ def cnvCalresg : Nat := 0x0400D4
/-- CNV_CALRESO. -/ def cnvCalreso : Nat := 0x0400D8
/-- CNV_CALINFO. -/ def cnvCalinfo : Nat := 0x0400DC
/-- ESC_CAP. -/ def escCap : Nat := 0x070000
/-- ESC_BOUND. -/ def escBound : Nat := 0x070004
/-- ESC_GRPMAP. -/ def escGrpmap : Nat := 0x070008
/-- ESC_WINSEL. -/ def escWinsel : Nat := 0x07000C
/-- ESC_RLF_CMD. -/ def escRlfCmd : Nat := 0x070010
/-- ESC_RLF_STAT. -/ def escRlfStat : Nat := 0x070014
/-- ESC_RLF_DIVSEQ. -/ def escRlfDivseq : Nat := 0x070018
/-- ESC_Ek_CMD. -/ def escEkCmd (k : Nat) : Nat := 0x070100 + 0x80 * k
/-- ESC_Ek_STAT. -/ def escEkStat (k : Nat) : Nat := 0x070104 + 0x80 * k
/-- ESC_Ek_CFG. -/ def escEkCfg (k : Nat) : Nat := 0x070108 + 0x80 * k
/-- ESC_Ek_W. -/ def escEkW (k : Nat) : Nat := 0x07010C + 0x80 * k
/-- ESC_Ek_WFAULT. -/ def escEkWfault (k : Nat) : Nat := 0x070110 + 0x80 * k
/-- ESC_Ek_FAULT. -/ def escEkFault (k : Nat) : Nat := 0x070114 + 0x80 * k
/-- ESC_Ek_FAULTSEQ. -/ def escEkFaultseq (k : Nat) : Nat := 0x070118 + 0x80 * k
/-- ESC_Ek_HDONE. -/ def escEkHdone (k : Nat) : Nat := 0x07011C + 0x80 * k
/-- ESC_Ek_PACE. -/ def escEkPace (k : Nat) : Nat := 0x070120 + 0x80 * k
/-- ESC_Ek_PACENORM. -/ def escEkPacenorm (k : Nat) : Nat := 0x070124 + 0x80 * k
/-- ESC_Ek_SLACK. -/ def escEkSlack (k : Nat) : Nat := 0x070128 + 0x80 * k
/-- ESC_Ek_SLACKLIM. -/ def escEkSlacklim (k : Nat) : Nat := 0x07012C + 0x80 * k
/-- ESC_Ek_OVRCNT. -/ def escEkOvrcnt (k : Nat) : Nat := 0x070130 + 0x80 * k
/-- ESC_Ek_EVLOST. -/ def escEkEvlost (k : Nat) : Nat := 0x070134 + 0x80 * k
/-- ESC_Ek_FIFO. -/ def escEkFifo (k : Nat) : Nat := 0x070138 + 0x80 * k
/-- ESC_Ek_RESSEQ. -/ def escEkResseq (k : Nat) : Nat := 0x07013C + 0x80 * k
/-- BIM_CAP. -/ def bimCap : Nat := 0x0C0000
/-- BIM_Gg_CFG. -/ def bimGgCfg (k : Nat) : Nat := 0x0C0100 + 0x100 * k
/-- BIM_Gg_TERM0. -/ def bimGgTerm0 (k : Nat) : Nat := 0x0C0104 + 0x100 * k
/-- BIM_Gg_TERM1. -/ def bimGgTerm1 (k : Nat) : Nat := 0x0C0108 + 0x100 * k
/-- BIM_Gg_TERM2. -/ def bimGgTerm2 (k : Nat) : Nat := 0x0C010C + 0x100 * k
/-- BIM_Gg_TERM3. -/ def bimGgTerm3 (k : Nat) : Nat := 0x0C0110 + 0x100 * k
/-- BIM_Gg_BK0_LO. -/ def bimGgBk0Lo (k : Nat) : Nat := 0x0C0120 + 0x100 * k
/-- BIM_Gg_BK0_HI. -/ def bimGgBk0Hi (k : Nat) : Nat := 0x0C0124 + 0x100 * k
/-- BIM_Gg_BK1_LO. -/ def bimGgBk1Lo (k : Nat) : Nat := 0x0C0128 + 0x100 * k
/-- BIM_Gg_BK1_HI. -/ def bimGgBk1Hi (k : Nat) : Nat := 0x0C012C + 0x100 * k
/-- BIM_Gg_BK2_LO. -/ def bimGgBk2Lo (k : Nat) : Nat := 0x0C0130 + 0x100 * k
/-- BIM_Gg_BK2_HI. -/ def bimGgBk2Hi (k : Nat) : Nat := 0x0C0134 + 0x100 * k
/-- BIM_Gg_BK3_LO. -/ def bimGgBk3Lo (k : Nat) : Nat := 0x0C0138 + 0x100 * k
/-- BIM_Gg_BK3_HI. -/ def bimGgBk3Hi (k : Nat) : Nat := 0x0C013C + 0x100 * k
/-- BIM_Gg_CREEP. -/ def bimGgCreep (k : Nat) : Nat := 0x0C0140 + 0x100 * k
/-- BIM_Gg_SRCCMD. -/ def bimGgSrccmd (k : Nat) : Nat := 0x0C0144 + 0x100 * k
/-- BIM_Gg_SRC. -/ def bimGgSrc (k : Nat) : Nat := 0x0C0148 + 0x100 * k
/-- BIM_Gg_STAT. -/ def bimGgStat (k : Nat) : Nat := 0x0C014C + 0x100 * k
/-- BIM_Gg_AGRCFG. -/ def bimGgAgrcfg (k : Nat) : Nat := 0x0C0150 + 0x100 * k
/-- BIM_Gg_AGRABS. -/ def bimGgAgrabs (k : Nat) : Nat := 0x0C0154 + 0x100 * k
/-- BIM_Gg_AGRCNT. -/ def bimGgAgrcnt (k : Nat) : Nat := 0x0C0158 + 0x100 * k
/-- BIM_Gg_SKIPCNT. -/ def bimGgSkipcnt (k : Nat) : Nat := 0x0C015C + 0x100 * k
/-- BIM_Gg_FBSEQ. -/ def bimGgFbseq (k : Nat) : Nat := 0x0C0160 + 0x100 * k
/-- BIM_Gg_AGRDI. -/ def bimGgAgrdi (k : Nat) : Nat := 0x0C0164 + 0x100 * k
/-- BIM_Gg_AGRDE. -/ def bimGgAgrde (k : Nat) : Nat := 0x0C0168 + 0x100 * k
/-- BIM_Gg_IMP_W0. -/ def bimGgImpW0 (k : Nat) : Nat := 0x0C0180 + 0x100 * k
/-- BIM_Gg_IMP_W1. -/ def bimGgImpW1 (k : Nat) : Nat := 0x0C0184 + 0x100 * k
/-- BIM_Gg_IMP_W2. -/ def bimGgImpW2 (k : Nat) : Nat := 0x0C0188 + 0x100 * k
/-- BIM_Gg_EXP_W0. -/ def bimGgExpW0 (k : Nat) : Nat := 0x0C0190 + 0x100 * k
/-- BIM_Gg_EXP_W1. -/ def bimGgExpW1 (k : Nat) : Nat := 0x0C0194 + 0x100 * k
/-- BIM_Gg_EXP_W2. -/ def bimGgExpW2 (k : Nat) : Nat := 0x0C0198 + 0x100 * k
/-- BIM_Gg_NET0_W0. -/ def bimGgNet0W0 (k : Nat) : Nat := 0x0C01A0 + 0x100 * k
/-- BIM_Gg_NET0_W1. -/ def bimGgNet0W1 (k : Nat) : Nat := 0x0C01A4 + 0x100 * k
/-- BIM_Gg_NET0_W2. -/ def bimGgNet0W2 (k : Nat) : Nat := 0x0C01A8 + 0x100 * k
/-- BIM_Gg_NET1_W0. -/ def bimGgNet1W0 (k : Nat) : Nat := 0x0C01B0 + 0x100 * k
/-- BIM_Gg_NET1_W1. -/ def bimGgNet1W1 (k : Nat) : Nat := 0x0C01B4 + 0x100 * k
/-- BIM_Gg_NET1_W2. -/ def bimGgNet1W2 (k : Nat) : Nat := 0x0C01B8 + 0x100 * k
/-- BIM_Gg_NET2_W0. -/ def bimGgNet2W0 (k : Nat) : Nat := 0x0C01C0 + 0x100 * k
/-- BIM_Gg_NET2_W1. -/ def bimGgNet2W1 (k : Nat) : Nat := 0x0C01C4 + 0x100 * k
/-- BIM_Gg_NET2_W2. -/ def bimGgNet2W2 (k : Nat) : Nat := 0x0C01C8 + 0x100 * k
/-- BIM_Gg_NET3_W0. -/ def bimGgNet3W0 (k : Nat) : Nat := 0x0C01D0 + 0x100 * k
/-- BIM_Gg_NET3_W1. -/ def bimGgNet3W1 (k : Nat) : Nat := 0x0C01D4 + 0x100 * k
/-- BIM_Gg_NET3_W2. -/ def bimGgNet3W2 (k : Nat) : Nat := 0x0C01D8 + 0x100 * k
/-- BIM_CFn_CFG. -/ def bimCFnCfg (k : Nat) : Nat := 0x0C0600 + 0x40 * k
/-- BIM_CFn_MC. -/ def bimCFnMc (k : Nat) : Nat := 0x0C0604 + 0x40 * k
/-- BIM_CFn_STAT. -/ def bimCFnStat (k : Nat) : Nat := 0x0C0608 + 0x40 * k
/-- BIM_CFn_COUNT. -/ def bimCFnCount (k : Nat) : Nat := 0x0C060C + 0x40 * k
/-- BIM_CFn_GAP. -/ def bimCFnGap (k : Nat) : Nat := 0x0C0610 + 0x40 * k
/-- BIM_CFn_CREEPCNT. -/ def bimCFnCreepcnt (k : Nat) : Nat := 0x0C0614 + 0x40 * k
/-- BIM_CFn_PEND. -/ def bimCFnPend (k : Nat) : Nat := 0x0C0618 + 0x40 * k
/-- BIM_CFn_RESIDUE. -/ def bimCFnResidue (k : Nat) : Nat := 0x0C061C + 0x40 * k
/-- HRM_CAP. -/ def hrmCap : Nat := 0x0D0000
/-- HRM_CFG. -/ def hrmCfg : Nat := 0x0D0004
/-- HRM_CMD. -/ def hrmCmd : Nat := 0x0D0008
/-- HRM_PAGE. -/ def hrmPage : Nat := 0x0D000C
/-- HRM_MSV. -/ def hrmMsv : Nat := 0x0D0010
/-- HRM_Gg_CFG. -/ def hrmGgCfg (k : Nat) : Nat := 0x0D0100 + 0x40 * k
/-- HRM_Gg_STAT. -/ def hrmGgStat (k : Nat) : Nat := 0x0D0104 + 0x40 * k
/-- HRM_Gg_CSEQ. -/ def hrmGgCseq (k : Nat) : Nat := 0x0D0108 + 0x40 * k
/-- HRM_Gg_BSEQ. -/ def hrmGgBseq (k : Nat) : Nat := 0x0D0114 + 0x40 * k
/-- HRM_Gg_CINFO. -/ def hrmGgCinfo (k : Nat) : Nat := 0x0D010C + 0x40 * k
/-- HRM_Gg_CLEN. -/ def hrmGgClen (k : Nat) : Nat := 0x0D0110 + 0x40 * k
/-- HRM_Gg_BLEN. -/ def hrmGgBlen (k : Nat) : Nat := 0x0D011C + 0x40 * k
/-- HRM_Gg_BINFO. -/ def hrmGgBinfo (k : Nat) : Nat := 0x0D0118 + 0x40 * k
/-- EVT_CFG. -/ def evtCfg : Nat := 0x0E0004
/-- EVT_UREF. -/ def evtUref : Nat := 0x0E0008
/-- EVT_LIM1. -/ def evtLim1 : Nat := 0x0E000C
/-- EVT_LIM2. -/ def evtLim2 : Nat := 0x0E0010
/-- EVT_DCEN. -/ def evtDcen : Nat := 0x0E0014
/-- EVT_DCLIM. -/ def evtDclim : Nat := 0x0E0018
/-- EVT_DCCYC. -/ def evtDccyc : Nat := 0x0E001C
/-- EVT_DSTATE. -/ def evtDstate : Nat := 0x0E0020
/-- EVT_DCSTATE. -/ def evtDcstate : Nat := 0x0E0024
/-- EVT_HRMSm. -/ def evtHRMSm (k : Nat) : Nat := 0x0E0040 + 0x4 * k
/-- EVT_SREFm. -/ def evtSREFm (k : Nat) : Nat := 0x0E0060 + 0x4 * k
/-- EVT_FIFO. -/ def evtFifo : Nat := 0x0E0080
/-- EVT_WMARK. -/ def evtWmark : Nat := 0x0E0084
/-- EVT_RECn. -/ def evtRECn (k : Nat) : Nat := 0x0E0088 + 0x4 * k
/-- EVT_CMD. -/ def evtCmd : Nat := 0x0E0098
/-- EVT_STAT. -/ def evtStat : Nat := 0x0E009C
/-- EVT_LOST. -/ def evtLost : Nat := 0x0E00A0
/-- AUX_CAP. -/ def auxCap : Nat := 0x060000
/-- AUX_CFG. -/ def auxCfg : Nat := 0x060004
/-- AUX_TRGn_CFG. -/ def auxTRGnCfg (k : Nat) : Nat := 0x060010 + 0x4 * k
/-- AUX_TIMER. -/ def auxTimer : Nat := 0x06001C
/-- AUX_PWCFG. -/ def auxPwcfg : Nat := 0x060020
/-- AUX_PWIDTH. -/ def auxPwidth : Nat := 0x060024
/-- AUX_CMD. -/ def auxCmd : Nat := 0x060028
/-- AUX_STAT. -/ def auxStat : Nat := 0x06002C
/-- AUX_TRIGLOST. -/ def auxTriglost : Nat := 0x060030
/-- AUX_LAST. -/ def auxLast : Nat := 0x060034
/-- AUX_RESi. -/ def auxRESi (k : Nat) : Nat := 0x060040 + 0x4 * k
/-- AUX_CALGi. -/ def auxCALGi (k : Nat) : Nat := 0x060080 + 0x8 * k
/-- AUX_CALOi. -/ def auxCALOi (k : Nat) : Nat := 0x060084 + 0x8 * k
/-- AUX_CALCMD. -/ def auxCalcmd : Nat := 0x0600A0
/-- AUX_CALTGT. -/ def auxCaltgt : Nat := 0x0600A4
/-- AUX_CALRESG. -/ def auxCalresg : Nat := 0x0600A8
/-- AUX_CALRESO. -/ def auxCalreso : Nat := 0x0600AC
/-- REG_CAP. -/ def regCap : Nat := 0x020000
/-- REG_UPDATE. -/ def regUpdate : Nat := 0x020004
/-- REG_UGCFG. -/ def regUgcfg : Nat := 0x020008
/-- REG_UPDSTAT. -/ def regUpdstat : Nat := 0x02000C
/-- REG_ERRINFO. -/ def regErrinfo : Nat := 0x020010
/-- REG_ERRCNT. -/ def regErrcnt : Nat := 0x020014
/-- REG_MASTERID. -/ def regMasterid : Nat := 0x020018
/-- REG_CFGCTL. -/ def regCfgctl : Nat := 0x020020
/-- REG_CFGREF. -/ def regCfgref : Nat := 0x020024
/-- REG_CFGSUM. -/ def regCfgsum : Nat := 0x020028
/-- REG_CFGCMD. -/ def regCfgcmd : Nat := 0x02002C
/-- REG_CFGSTAT. -/ def regCfgstat : Nat := 0x020030
/-- REG_PORTSTAT_HS. -/ def regPortstatHs : Nat := 0x020040
/-- REG_PORTSTAT_HI. -/ def regPortstatHi : Nat := 0x020044
/-- REG_CRCERR. -/ def regCrcerr : Nat := 0x020048
/-- REG_LOCKn. -/ def regLOCKn (k : Nat) : Nat := 0x020100 + 0x4 * k
/-- SEC_CAP. -/ def secCap : Nat := 0x010000
/-- SEC_LEVEL. -/ def secLevel : Nat := 0x010004
/-- SEC_SESSCMD. -/ def secSesscmd : Nat := 0x010008
/-- SEC_SESSTAT. -/ def secSesstat : Nat := 0x01000C
/-- SEC_CHALn. -/ def secCHALn (k : Nat) : Nat := 0x010020 + 0x4 * k
/-- SEC_RESPn. -/ def secRESPn (k : Nat) : Nat := 0x010040 + 0x4 * k
/-- SEC_PMAPn. -/ def secPMAPn (k : Nat) : Nat := 0x010080 + 0x4 * k
/-- SEC_SEALCMD. -/ def secSealcmd : Nat := 0x0100A0
/-- SEC_SEALSTAT. -/ def secSealstat : Nat := 0x0100A4
/-- SEC_SEALCNT_LO. -/ def secSealcntLo : Nat := 0x0100A8
/-- SEC_SEALCNT_HI. -/ def secSealcntHi : Nat := 0x0100AC
/-- SEC_GUARD_DENIED. -/ def secGuardDenied : Nat := 0x0100B0
/-- SEC_SEALDENIED. -/ def secSealdenied : Nat := 0x0100B4
/-- SEC_DENYINFO. -/ def secDenyinfo : Nat := 0x0100B8
/-- SEC_KEYCMD. -/ def secKeycmd : Nat := 0x0100C0
/-- MBX_CAP. -/ def mbxCap : Nat := 0x0F0000
/-- MBX_STAT. -/ def mbxStat : Nat := 0x0F0004
/-- MBX_HOSTIE. -/ def mbxHostie : Nat := 0x0F0008
/-- MBX_HOSTFULL. -/ def mbxHostfull : Nat := 0x0F000C
/-- MBX_EPOCHCMD. -/ def mbxEpochcmd : Nat := 0x0F0010
/-- MBX_EPOCHi. -/ def mbxEPOCHi (k : Nat) : Nat := 0x0F0040 + 0x4 * k
/-- MBX_Mn_CFG. -/ def mbxMnCfg (k : Nat) : Nat := 0x0F0100 + 0x10 * k
/-- MBX_Mn_CTRL. -/ def mbxMnCtrl (k : Nat) : Nat := 0x0F0104 + 0x10 * k
/-- MBX_Mn_STAMP. -/ def mbxMnStamp (k : Nat) : Nat := 0x0F0108 + 0x10 * k
/-- MBX_Mn_DATAw. -/ def mbxMnDATAw (k : Nat) : Nat := 0x0F0400 + 0x4 * k
/-- NVM_CAP. -/ def nvmCap : Nat := 0x100000
/-- NVM_CFG. -/ def nvmCfg : Nat := 0x100004
/-- NVM_CMD. -/ def nvmCmd : Nat := 0x100008
/-- NVM_STAT. -/ def nvmStat : Nat := 0x10000C
/-- NVM_PAGESEL. -/ def nvmPagesel : Nat := 0x100010
/-- NVM_PAGEINFO. -/ def nvmPageinfo : Nat := 0x100014
/-- NVM_CWVALID. -/ def nvmCwvalid : Nat := 0x100018
/-- NVM_FAILADDR. -/ def nvmFailaddr : Nat := 0x10001C
/-- NVM_WPn. -/ def nvmWPn (k : Nat) : Nat := 0x100020 + 0x4 * k
/-- NVM_ECCINNER. -/ def nvmEccinner : Nat := 0x100030
/-- NVM_ECCOUTER. -/ def nvmEccouter : Nat := 0x100034
/-- NVM_TORNCNT. -/ def nvmTorncnt : Nat := 0x100038
/-- NVM_UNCORRCNT. -/ def nvmUncorrcnt : Nat := 0x10003C
/-- NVM_SPARE. -/ def nvmSpare : Nat := 0x100040
/-- NVM_SCRUBSTAT. -/ def nvmScrubstat : Nat := 0x100044
/-- NVM_RCCMD. -/ def nvmRccmd : Nat := 0x100080
/-- NVM_RCSTAT. -/ def nvmRcstat : Nat := 0x100084
/-- NVM_RCn_LO. -/ def nvmRCnLo (k : Nat) : Nat := 0x100100 + 0x8 * k
/-- NVM_RCn_HI. -/ def nvmRCnHi (k : Nat) : Nat := 0x100104 + 0x8 * k
/-- NVM_RCINFOn. -/ def nvmRCINFOn (k : Nat) : Nat := 0x100180 + 0x4 * k
/-- RTC_CAP. -/ def rtcCap : Nat := 0x110000
/-- RTC_CTRL. -/ def rtcCtrl : Nat := 0x110004
/-- RTC_STAT. -/ def rtcStat : Nat := 0x110008
/-- RTC_CMD. -/ def rtcCmd : Nat := 0x11000C
/-- RTC_SUBSEC. -/ def rtcSubsec : Nat := 0x110010
/-- RTC_TIME. -/ def rtcTime : Nat := 0x110014
/-- RTC_DATE. -/ def rtcDate : Nat := 0x110018
/-- RTC_YEAR. -/ def rtcYear : Nat := 0x11001C
/-- RTC_STIME. -/ def rtcStime : Nat := 0x110020
/-- RTC_SDATE. -/ def rtcSdate : Nat := 0x110024
/-- RTC_HALTTICKS. -/ def rtcHaltticks : Nat := 0x110028
/-- RTC_TRIM. -/ def rtcTrim : Nat := 0x11002C
/-- RTC_PER. -/ def rtcPer : Nat := 0x110030
/-- RTC_EVFSEQ. -/ def rtcEvfseq : Nat := 0x110034
/-- RTC_LRCTRIM. -/ def rtcLrctrim : Nat := 0x110038
/-- RTC_ALMn_TIME. -/ def rtcALMnTime (k : Nat) : Nat := 0x110040 + 0x10 * k
/-- RTC_ALMn_DATE. -/ def rtcALMnDate (k : Nat) : Nat := 0x110044 + 0x10 * k
/-- RTC_FSW_TIME. -/ def rtcFswTime : Nat := 0x110060
/-- RTC_FSW_DATE. -/ def rtcFswDate : Nat := 0x110064
/-- RTC_SWPEND. -/ def rtcSwpend : Nat := 0x110068
/-- SYS_ID. -/ def sysId : Nat := 0x000000
/-- SYS_FUSE. -/ def sysFuse : Nat := 0x000004
/-- PWR_CMD. -/ def pwrCmd : Nat := 0x000010
/-- PWR_STAT. -/ def pwrStat : Nat := 0x000014
/-- PWR_DOM. -/ def pwrDom : Nat := 0x000018
/-- PWR_VCORE. -/ def pwrVcore : Nat := 0x00001C
/-- SYS_RSTCAUSE. -/ def sysRstcause : Nat := 0x000020
/-- SYS_RSTCMD. -/ def sysRstcmd : Nat := 0x000024
/-- SYS_WDTCNT. -/ def sysWdtcnt : Nat := 0x000028
/-- SYS_SUPSTAT. -/ def sysSupstat : Nat := 0x00002C
/-- SYS_IRQROUTE0. -/ def sysIrqroute0 : Nat := 0x000030
/-- SYS_IRQROUTE1. -/ def sysIrqroute1 : Nat := 0x000034
/-- SYS_IRQPEND. -/ def sysIrqpend : Nat := 0x000038
/-- SYS_IRQCFG. -/ def sysIrqcfg : Nat := 0x00003C
/-- CLK_CYCCFG. -/ def clkCyccfg : Nat := 0x030004
/-- CLK_CYCSTAT. -/ def clkCycstat : Nat := 0x030008
/-- CLK_CYCLEN. -/ def clkCyclen : Nat := 0x03000C
/-- CLK_CYCFREQ. -/ def clkCycfreq : Nat := 0x030010
/-- CLK_CYCCNT. -/ def clkCyccnt : Nat := 0x030014
/-- CLK_CYCSUM_LO. -/ def clkCycsumLo : Nat := 0x030018
/-- CLK_CYCSUM_HI. -/ def clkCycsumHi : Nat := 0x03001C
/-- CLK_ZXCFG. -/ def clkZxcfg : Nat := 0x030020
/-- CLK_STAT. -/ def clkStat : Nat := 0x030024
/-- PLC_CAP. -/ def plcCap : Nat := 0x120000
/-- PLC_CFG. -/ def plcCfg : Nat := 0x120004
/-- PLC_TXCFG. -/ def plcTxcfg : Nat := 0x120008
/-- PLC_RXCFG. -/ def plcRxcfg : Nat := 0x12000C
/-- PLC_MACCFG. -/ def plcMaccfg : Nat := 0x120010
/-- PLC_CMASKn. -/ def plcCMASKn (k : Nat) : Nat := 0x120020 + 0x4 * k
/-- PLC_STAT. -/ def plcStat : Nat := 0x120040
/-- PLC_LASTRX. -/ def plcLastrx : Nat := 0x120044
/-- PLC_TXFRAMES. -/ def plcTxframes : Nat := 0x120050
/-- PLC_RXHDR. -/ def plcRxhdr : Nat := 0x120054
/-- PLC_HDRFAIL. -/ def plcHdrfail : Nat := 0x120058
/-- PLC_BLKFAIL. -/ def plcBlkfail : Nat := 0x12005C
/-- PLC_PAGE. -/ def plcPage : Nat := 0x120070
/-- PNL_CAP. -/ def pnlCap : Nat := 0x130000
/-- PNL_CFG. -/ def pnlCfg : Nat := 0x130004
/-- PNL_STAT. -/ def pnlStat : Nat := 0x130008
/-- PNL_JOURNAL. -/ def pnlJournal : Nat := 0x13000C
/-- PNL_AGEn. -/ def pnlAGEn (k : Nat) : Nat := 0x130020 + 0x4 * k
/-- PNL_AGEMULT. -/ def pnlAgemult : Nat := 0x130040
/-- PNL_DIALIMG0. -/ def pnlDialimg0 : Nat := 0x130050
/-- PNL_DIALIMG1. -/ def pnlDialimg1 : Nat := 0x130054
/-- PNL_DIALCMD. -/ def pnlDialcmd : Nat := 0x130058
/-- PNL_BEZCMD. -/ def pnlBezcmd : Nat := 0x13005C
/-- PNL_UPDCNT. -/ def pnlUpdcnt : Nat := 0x130060
/-- PNL_DIALCNT. -/ def pnlDialcnt : Nat := 0x130064
/-- CHN_CAP. -/ def chnCap : Nat := 0x140000
/-- CHN_CFG. -/ def chnCfg : Nat := 0x140004
/-- CHN_STAT. -/ def chnStat : Nat := 0x140008
/-- CHN_MEMBERS. -/ def chnMembers : Nat := 0x14000C
/-- CHN_ROUND. -/ def chnRound : Nat := 0x140010
/-- CHN_BADRND. -/ def chnBadrnd : Nat := 0x140014
/-- CHN_SYNCGLITCH. -/ def chnSyncglitch : Nat := 0x140018
/-- CHN_MSGFAIL. -/ def chnMsgfail : Nat := 0x14001C
/-- CHN_ROUTEn. -/ def chnROUTEn (k : Nat) : Nat := 0x140020 + 0x4 * k
/-- CHN_AGGa_CFG. -/ def chnAGGaCfg (k : Nat) : Nat := 0x140080 + 0x20 * k
/-- CHN_AGGa_TOTLO. -/ def chnAGGaTotlo (k : Nat) : Nat := 0x140084 + 0x20 * k
/-- CHN_AGGa_TOTHI. -/ def chnAGGaTothi (k : Nat) : Nat := 0x140088 + 0x20 * k
/-- CHN_AGGa_UNRES. -/ def chnAGGaUnres (k : Nat) : Nat := 0x14008C + 0x20 * k
/-- RTC_TAMPER. -/ def rtcTamper : Nat := 0x11006C

end A

/-- The register entries of the SYS block. -/
def rowsSys : List RegRow := [
  ⟨0x0, 0x4, 1, .ro, false, false, false, 0x0, 0x0, 0x0, 0x0, 0x0, 0x5A080000⟩,
  ⟨0x4, 0x4, 1, .ro, false, false, false, 0x0, 0x0, 0x0, 0x0, 0x0, 0x0⟩,
  ⟨0x10, 0x4, 1, .cm, false, true, false, 0x701F00FF, 0x0, 0x0, 0x0, 0x80000000, 0x140000⟩,
  ⟨0x14, 0x4, 1, .sq, false, false, false, 0x0, 0x0, 0x3, 0x0, 0x0, 0x0⟩,
  ⟨0x18, 0x4, 1, .ro, false, false, false, 0x0, 0x0, 0x0, 0x0, 0x0, 0x3⟩,
  ⟨0x1C, 0x4, 1, .ro, false, false, false, 0x0, 0x0, 0x0, 0x0, 0x0, 0x114⟩,
  ⟨0x20, 0x4, 1, .sq, false, false, false, 0x0, 0x0, 0x3F, 0x0, 0x0, 0x1⟩,
  ⟨0x24, 0x4, 1, .cm, false, true, true, 0x0, 0x0, 0x0, 0x0, 0x800000FC, 0x0⟩,
  ⟨0x28, 0x4, 1, .ct, false, false, false, 0x0, 0x0, 0x0, 0xFFFFFFFF, 0x0, 0x0⟩,
  ⟨0x2C, 0x4, 1, .sq, false, false, false, 0x0, 0x0, 0x1, 0x0, 0x0, 0x0⟩,
  ⟨0x30, 0x4, 1, .rw, false, true, false, 0xFFFFFFFF, 0x0, 0x0, 0x0, 0x0, 0x0⟩,
  ⟨0x34, 0x4, 1, .rw, false, true, false, 0x3F, 0x0, 0x0, 0x0, 0x0, 0x0⟩,
  ⟨0x38, 0x4, 1, .ro, false, false, false, 0x0, 0x0, 0x0, 0x0, 0x0, 0x0⟩,
  ⟨0x3C, 0x4, 1, .rw, false, true, false, 0x3, 0x0, 0x0, 0x0, 0x0, 0x0⟩]

/-- The register entries of the SEC block. -/
def rowsSec : List RegRow := [
  ⟨0x0, 0x4, 1, .ro, false, false, false, 0x0, 0x0, 0x0, 0x0, 0x0, 0x0⟩,
  ⟨0x4, 0x4, 1, .ro, false, false, false, 0x0, 0x0, 0x0, 0x0, 0x0, 0x3F⟩,
  ⟨0x8, 0x4, 1, .cm, true, false, false, 0x730F0000, 0x0, 0x0, 0x0, 0x80000000, 0x3000000⟩,
  ⟨0xC, 0x4, 1, .sq, true, false, false, 0x0, 0x0, 0x7, 0x0, 0x0, 0x0⟩,
  ⟨0x20, 0x4, 8, .ro, true, false, false, 0x0, 0x0, 0x0, 0x0, 0x0, 0x0⟩,
  ⟨0x40, 0x4, 8, .rw, true, false, false, 0xFFFFFFFF, 0x0, 0x0, 0x0, 0x0, 0x0⟩,
  ⟨0x80, 0x4, 6, .rw, false, true, false, 0xFFFFFFFF, 0x0, 0x0, 0x0, 0x0, 0xBBBBBBBB⟩,
  ⟨0xA0, 0x4, 1, .cm, false, true, false, 0x0, 0x0, 0x0, 0x0, 0x3, 0x0⟩,
  ⟨0xA4, 0x4, 1, .ro, false, false, false, 0x0, 0x0, 0x0, 0x0, 0x0, 0x0⟩,
  ⟨0xA8, 0x4, 1, .ro, false, false, false, 0x0, 0x0, 0x0, 0x0, 0x0, 0x0⟩,
  ⟨0xAC, 0x4, 1, .ro, false, false, false, 0x0, 0x0, 0x0, 0x0, 0x0, 0x0⟩,
  ⟨0xB0, 0x4, 1, .ct, false, false, false, 0x0, 0x0, 0x0, 0xFFFFFFFF, 0x0, 0x0⟩,
  ⟨0xB4, 0x4, 1, .ct, false, false, false, 0x0, 0x0, 0x0, 0xFFFFFFFF, 0x0, 0x0⟩,
  ⟨0xB8, 0x4, 1, .ro, false, false, false, 0x0, 0x0, 0x0, 0x0, 0x0, 0x0⟩,
  ⟨0xC0, 0x4, 1, .cm, false, true, false, 0xF0000, 0x0, 0x0, 0x0, 0x80000000, 0x0⟩]

/-- The register entries of the REG block. -/
def rowsReg : List RegRow := [
  ⟨0x0, 0x4, 1, .ro, false, false, false, 0x0, 0x0, 0x0, 0x0, 0x0, 0x1080⟩,
  ⟨0x4, 0x4, 1, .cm, false, true, false, 0x0, 0x0, 0x0, 0x0, 0xFF, 0x0⟩,
  ⟨0x8, 0x4, 1, .rw, false, true, true, 0xFFFF, 0x0, 0x0, 0x0, 0x0, 0xAAAA⟩,
  ⟨0xC, 0x4, 1, .sq, false, false, false, 0x0, 0x0, 0xFF03, 0x0, 0x0, 0x0⟩,
  ⟨0x10, 0x4, 1, .ro, true, false, false, 0x0, 0x0, 0x0, 0x0, 0x0, 0x0⟩,
  ⟨0x14, 0x4, 1, .ct, false, false, false, 0x0, 0x0, 0x0, 0xFFFFFFFF, 0x0, 0x0⟩,
  ⟨0x18, 0x4, 1, .ro, true, false, false, 0x0, 0x0, 0x0, 0x0, 0x0, 0x0⟩,
  ⟨0x20, 0x4, 1, .rw, false, true, true, 0x103, 0x0, 0x0, 0x0, 0x0, 0x0⟩,
  ⟨0x24, 0x4, 1, .rw, false, true, true, 0xFFFFFFFF, 0x0, 0x0, 0x0, 0x0, 0x0⟩,
  ⟨0x28, 0x4, 1, .ro, false, false, false, 0x0, 0x0, 0x0, 0x0, 0x0, 0x0⟩,
  ⟨0x2C, 0x4, 1, .cm, false, true, true, 0x0, 0x0, 0x0, 0x0, 0x1, 0x0⟩,
  ⟨0x30, 0x4, 1, .sq, false, false, false, 0x0, 0x0, 0x7, 0x0, 0x0, 0x0⟩,
  ⟨0x40, 0x4, 1, .ro, false, false, false, 0x0, 0x0, 0x0, 0x0, 0x0, 0x0⟩,
  ⟨0x44, 0x4, 1, .ro, false, false, false, 0x0, 0x0, 0x0, 0x0, 0x0, 0x0⟩,
  ⟨0x48, 0x4, 1, .ct, false, false, false, 0x0, 0x0, 0x0, 0xFFFFFFFF, 0x0, 0x0⟩,
  ⟨0x100, 0x4, 16, .rw, false, false, false, 0x8000000F, 0x0, 0x0, 0x0, 0x0, 0x0⟩]

/-- The register entries of the CLK block. -/
def rowsClk : List RegRow := [
  ⟨0x4, 0x4, 1, .bw, false, true, false, 0x70000000, 0xFF13, 0x0, 0x0, 0x0, 0x6D00⟩,
  ⟨0x8, 0x4, 1, .sq, false, false, false, 0x0, 0x0, 0x3, 0x0, 0x0, 0x0⟩,
  ⟨0xC, 0x4, 1, .ro, false, false, false, 0x0, 0x0, 0x0, 0x0, 0x0, 0x0⟩,
  ⟨0x10, 0x4, 1, .ro, false, false, false, 0x0, 0x0, 0x0, 0x0, 0x0, 0x0⟩,
  ⟨0x14, 0x4, 1, .ro, false, false, false, 0x0, 0x0, 0x0, 0x0, 0x0, 0x0⟩,
  ⟨0x18, 0x4, 1, .ro, false, false, false, 0x0, 0x0, 0x0, 0x0, 0x0, 0x0⟩,
  ⟨0x1C, 0x4, 1, .ro, false, false, false, 0x0, 0x0, 0x0, 0x0, 0x0, 0x0⟩,
  ⟨0x20, 0x4, 1, .rw, false, true, false, 0x3333, 0x0, 0x0, 0x0, 0x0, 0x0⟩,
  ⟨0x24, 0x4, 1, .sq, false, false, false, 0x0, 0x0, 0x1, 0x0, 0x0, 0x0⟩]

/-- The register entries of the CNV block, part 0. -/
def rowsCnv0 : List RegRow := [
  ⟨0x0, 0x4, 1, .ro, false, false, false, 0x0, 0x0, 0x0, 0x0, 0x0, 0x0⟩,
  ⟨0x4, 0x4, 1, .bw, false, true, false, 0x0, 0xC0, 0x0, 0x0, 0x0, 0xC0⟩,
  ⟨0x8, 0x4, 1, .bw, false, true, true, 0x0, 0xFFFFFFFF, 0x0, 0x0, 0x0, 0x1F40100⟩,
  ⟨0xC, 0x4, 1, .cm, false, true, true, 0xFF, 0x0, 0x0, 0x0, 0x100, 0x0⟩,
  ⟨0x10, 0x4, 1, .ro, false, false, false, 0x0, 0x0, 0x0, 0x0, 0x0, 0x0⟩,
  ⟨0x14, 0x4, 1, .ro, false, false, false, 0x0, 0x0, 0x0, 0x0, 0x0, 0x0⟩,
  ⟨0x18, 0x4, 1, .cm, false, true, false, 0x0, 0x0, 0x0, 0x0, 0x3, 0x0⟩,
  ⟨0x1C, 0x4, 1, .sq, false, false, false, 0x0, 0x0, 0x7, 0x0, 0x0, 0x0⟩,
  ⟨0x20, 0x4, 1, .ro, false, false, false, 0x0, 0x0, 0x0, 0x0, 0x0, 0x0⟩,
  ⟨0x24, 0x4, 1, .ro, false, false, false, 0x0, 0x0, 0x0, 0x0, 0x0, 0x0⟩,
  ⟨0x100, 0x80, 18, .bw, false, true, true, 0x0, 0x207, 0x0, 0x0, 0x0, 0x0⟩,
  ⟨0x104, 0x80, 18, .sq, false, false, false, 0x0, 0x0, 0x7F, 0x0, 0x0, 0x0⟩,
  ⟨0x108, 0x80, 18, .ro, false, false, false, 0x0, 0x0, 0x0, 0x0, 0x0, 0x0⟩,
  ⟨0x10C, 0x80, 18, .ro, false, false, false, 0x0, 0x0, 0x0, 0x0, 0x0, 0x0⟩,
  ⟨0x110, 0x80, 18, .ro, false, false, false, 0x0, 0x0, 0x0, 0x0, 0x0, 0x0⟩,
  ⟨0x114, 0x80, 18, .ro, false, false, false, 0x0, 0x0, 0x0, 0x0, 0x0, 0x0⟩,
  ⟨0x118, 0x80, 18, .ro, false, false, false, 0x0, 0x0, 0x0, 0x0, 0x0, 0x0⟩,
  ⟨0x11C, 0x80, 18, .ro, false, false, false, 0x0, 0x0, 0x0, 0x0, 0x0, 0x0⟩,
  ⟨0x120, 0x80, 18, .ro, false, false, false, 0x0, 0x0, 0x0, 0x0, 0x0, 0x0⟩,
  ⟨0x124, 0x80, 18, .ro, false, false, false, 0x0, 0x0, 0x0, 0x0, 0x0, 0x0⟩,
  ⟨0x128, 0x80, 18, .ro, false, false, false, 0x0, 0x0, 0x0, 0x0, 0x0, 0x0⟩,
  ⟨0x12C, 0x80, 18, .ro, false, false, false, 0x0, 0x0, 0x0, 0x0, 0x0, 0x0⟩,
  ⟨0x130, 0x80, 18, .ct, false, false, false, 0x0, 0x0, 0x0, 0xFFFFFFFF, 0x0, 0x0⟩,
  ⟨0x134, 0x80, 18, .ct, false, false, false, 0x0, 0x0, 0x0, 0xFFFFFFFF, 0x0, 0x0⟩,
  ⟨0x138, 0x80, 18, .cm, false, true, false, 0x0, 0x0, 0x0, 0x0, 0x1, 0x0⟩,
  ⟨0x40, 0x20, 2, .cm, false, true, true, 0x7C1FFF00, 0x0, 0x0, 0x0, 0x80000000, 0x8001000⟩,
  ⟨0x44, 0x20, 2, .sq, false, false, false, 0x0, 0x0, 0xF, 0x0, 0x0, 0x0⟩,
  ⟨0x48, 0x20, 2, .ro, false, false, false, 0x0, 0x0, 0x0, 0x0, 0x0, 0x0⟩,
  ⟨0x4C, 0x20, 2, .ro, false, false, false, 0x0, 0x0, 0x0, 0x0, 0x0, 0x400000⟩,
  ⟨0x50, 0x20, 2, .ro, false, false, false, 0x0, 0x0, 0x0, 0x0, 0x0, 0x0⟩,
  ⟨0x54, 0x20, 2, .ro, false, false, false, 0x0, 0x0, 0x0, 0x0, 0x0, 0x0⟩,
  ⟨0x58, 0x20, 2, .bw, false, true, true, 0x0, 0xFFFFFFFF, 0x0, 0x0, 0x0, 0x1F40040⟩,
  ⟨0x5C, 0x20, 2, .ro, false, false, false, 0x0, 0x0, 0x0, 0x0, 0x0, 0x0⟩,
  ⟨0x80, 0x4, 1, .bw, false, true, false, 0x0, 0xFFFFFFFF, 0x0, 0x0, 0x0, 0x0⟩,
  ⟨0x84, 0x4, 1, .bw, false, true, false, 0x0, 0xFFFFFF00, 0x0, 0x0, 0x0, 0xC84000⟩,
  ⟨0x88, 0x4, 1, .cm, false, true, false, 0x0, 0x0, 0x0, 0x0, 0x3, 0x0⟩,
  ⟨0x8C, 0x4, 1, .sq, false, false, false, 0x0, 0x0, 0x3, 0x0, 0x0, 0x0⟩,
  ⟨0x90, 0x4, 1, .sq, false, false, false, 0x0, 0x0, 0xFFFF, 0x0, 0x0, 0x0⟩,
  ⟨0x94, 0x4, 1, .ro, false, false, false, 0x0, 0x0, 0x0, 0x0, 0x0, 0x0⟩,
  ⟨0xA4, 0x4, 1, .ro, false, false, false, 0x0, 0x0, 0x0, 0x0, 0x0, 0x0⟩]

/-- The register entries of the CNV block, part 1. -/
def rowsCnv1 : List RegRow := [
  ⟨0x98, 0x4, 1, .ro, false, false, false, 0x0, 0x0, 0x0, 0x0, 0x0, 0x0⟩,
  ⟨0xA8, 0x4, 1, .ro, false, false, false, 0x0, 0x0, 0x0, 0x0, 0x0, 0x0⟩,
  ⟨0x9C, 0x4, 1, .ro, false, false, false, 0x0, 0x0, 0x0, 0x0, 0x0, 0x0⟩,
  ⟨0xAC, 0x4, 1, .ro, false, false, false, 0x0, 0x0, 0x0, 0x0, 0x0, 0x0⟩,
  ⟨0xA0, 0x4, 1, .ro, false, false, false, 0x0, 0x0, 0x0, 0x0, 0x0, 0x0⟩,
  ⟨0xB0, 0x4, 1, .ro, false, false, false, 0x0, 0x0, 0x0, 0x0, 0x0, 0x0⟩,
  ⟨0xC0, 0x4, 1, .cm, false, true, true, 0x7C1FFF00, 0x0, 0x0, 0x0, 0x80000000, 0x3200⟩,
  ⟨0xC4, 0x4, 1, .rw, false, true, true, 0xFFFFFF, 0x0, 0x0, 0x0, 0x0, 0x0⟩,
  ⟨0xC8, 0x4, 1, .sq, false, false, false, 0x0, 0x0, 0x7, 0x0, 0x0, 0x0⟩,
  ⟨0xCC, 0x4, 1, .ro, false, false, false, 0x0, 0x0, 0x0, 0x0, 0x0, 0x0⟩,
  ⟨0xD0, 0x4, 1, .ro, false, false, false, 0x0, 0x0, 0x0, 0x0, 0x0, 0x0⟩,
  ⟨0xD4, 0x4, 1, .ro, false, false, false, 0x0, 0x0, 0x0, 0x0, 0x0, 0x0⟩,
  ⟨0xD8, 0x4, 1, .ro, false, false, false, 0x0, 0x0, 0x0, 0x0, 0x0, 0x0⟩,
  ⟨0xDC, 0x4, 1, .ro, false, false, false, 0x0, 0x0, 0x0, 0x0, 0x0, 0x0⟩]

/-- The register entries of the CNV block. -/
def rowsCnv : List RegRow := rowsCnv0 ++ rowsCnv1

/-- The register entries of the FLT block. -/
def rowsFlt : List RegRow := [
  ⟨0x0, 0x4, 1, .ro, false, false, false, 0x0, 0x0, 0x0, 0x0, 0x0, 0x0⟩,
  ⟨0x4, 0x4, 1, .cm, false, true, false, 0x0, 0x0, 0x0, 0x0, 0x1, 0x0⟩,
  ⟨0x8, 0x4, 1, .sq, false, false, false, 0x0, 0x0, 0x7, 0x0, 0x0, 0x0⟩,
  ⟨0xC, 0x4, 1, .ro, false, false, false, 0x0, 0x0, 0x0, 0x0, 0x0, 0x0⟩,
  ⟨0x10, 0x4, 1, .ro, false, false, false, 0x0, 0x0, 0x0, 0x0, 0x0, 0x400000⟩,
  ⟨0x14, 0x4, 1, .ro, false, false, false, 0x0, 0x0, 0x0, 0x0, 0x0, 0x1⟩,
  ⟨0x100, 0x80, 18, .bw, false, true, true, 0x70000000, 0xF333, 0x0, 0x0, 0x0, 0x2000⟩,
  ⟨0x104, 0x80, 18, .sq, false, false, false, 0x0, 0x0, 0x1F, 0x0, 0x0, 0x80⟩,
  ⟨0x108, 0x80, 18, .ro, false, false, false, 0x0, 0x0, 0x0, 0x0, 0x0, 0x40000000⟩,
  ⟨0x10C, 0x80, 18, .ro, false, false, false, 0x0, 0x0, 0x0, 0x0, 0x0, 0x40000000⟩,
  ⟨0x110, 0x80, 18, .bw, false, true, true, 0x0, 0xFFFFFF, 0x0, 0x0, 0x0, 0x400000⟩,
  ⟨0x114, 0x80, 18, .bw, false, true, true, 0x0, 0xFFFFFF, 0x0, 0x0, 0x0, 0x0⟩,
  ⟨0x118, 0x80, 18, .bw, false, true, false, 0x0, 0xC0FFFFFF, 0x0, 0x0, 0x0, 0x7FFFFF⟩,
  ⟨0x120, 0x80, 18, .bw, false, true, false, 0x0, 0xC0FFFFFF, 0x0, 0x0, 0x0, 0x7FFFFF⟩,
  ⟨0x11C, 0x80, 18, .bw, false, true, false, 0x0, 0xFFFFFFFF, 0x0, 0x0, 0x0, 0x100001⟩,
  ⟨0x124, 0x80, 18, .bw, false, true, false, 0x0, 0xFFFFFFFF, 0x0, 0x0, 0x0, 0x100001⟩,
  ⟨0x128, 0x80, 18, .ct, false, false, false, 0x0, 0x0, 0x0, 0xFFFFFFFF, 0x0, 0x0⟩]

/-- The register entries of the AUX block. -/
def rowsAux : List RegRow := [
  ⟨0x0, 0x4, 1, .ro, false, false, false, 0x0, 0x0, 0x0, 0x0, 0x0, 0x0⟩,
  ⟨0x4, 0x4, 1, .bw, false, true, false, 0x70000000, 0x3, 0x0, 0x0, 0x0, 0x0⟩,
  ⟨0x10, 0x4, 3, .bw, false, true, false, 0x0, 0x8F00FFFF, 0x0, 0x0, 0x0, 0x4000000⟩,
  ⟨0x1C, 0x4, 1, .bw, false, true, false, 0x0, 0xFFFF, 0x0, 0x0, 0x0, 0x3E8⟩,
  ⟨0x20, 0x4, 1, .bw, false, true, false, 0x0, 0x17, 0x0, 0x0, 0x0, 0x10⟩,
  ⟨0x24, 0x4, 1, .ro, false, false, false, 0x0, 0x0, 0x0, 0x0, 0x0, 0x0⟩,
  ⟨0x28, 0x4, 1, .cm, false, true, false, 0xF000000, 0x0, 0x0, 0x0, 0x80000000, 0x4000000⟩,
  ⟨0x2C, 0x4, 1, .sq, false, false, false, 0x0, 0x0, 0x1F, 0x0, 0x0, 0x0⟩,
  ⟨0x30, 0x4, 1, .ct, false, false, false, 0x0, 0x0, 0x0, 0xFFFFFF, 0x0, 0x0⟩,
  ⟨0x34, 0x4, 1, .ro, false, false, false, 0x0, 0x0, 0x0, 0x0, 0x0, 0x0⟩,
  ⟨0x40, 0x4, 10, .ro, false, false, false, 0x0, 0x0, 0x0, 0x0, 0x0, 0x0⟩,
  ⟨0x80, 0x8, 4, .bw, false, true, false, 0x0, 0xFFFFFF, 0x0, 0x0, 0x0, 0x400000⟩,
  ⟨0x84, 0x8, 4, .bw, false, true, false, 0x0, 0xFFFFFF, 0x0, 0x0, 0x0, 0x0⟩,
  ⟨0xA0, 0x4, 1, .cm, false, true, false, 0x73000000, 0x0, 0x0, 0x0, 0x80000000, 0x0⟩,
  ⟨0xA4, 0x4, 1, .rw, false, true, false, 0xFFFFF, 0x0, 0x0, 0x0, 0x0, 0x0⟩,
  ⟨0xA8, 0x4, 1, .ro, false, false, false, 0x0, 0x0, 0x0, 0x0, 0x0, 0x0⟩,
  ⟨0xAC, 0x4, 1, .ro, false, false, false, 0x0, 0x0, 0x0, 0x0, 0x0, 0x0⟩]

/-- The register entries of the ESC block. -/
def rowsEsc : List RegRow := [
  ⟨0x0, 0x4, 1, .ro, false, false, false, 0x0, 0x0, 0x0, 0x0, 0x0, 0x0⟩,
  ⟨0x4, 0x4, 1, .ro, false, false, false, 0x0, 0x0, 0x0, 0x0, 0x0, 0x0⟩,
  ⟨0x8, 0x4, 1, .ro, false, false, false, 0x0, 0x0, 0x0, 0x0, 0x0, 0x3210⟩,
  ⟨0xC, 0x4, 1, .rw, true, false, false, 0x1, 0x0, 0x0, 0x0, 0x0, 0x0⟩,
  ⟨0x10, 0x4, 1, .cm, false, true, true, 0x7E030000, 0x0, 0x0, 0x0, 0x80000000, 0x0⟩,
  ⟨0x14, 0x4, 1, .sq, false, false, false, 0x0, 0x0, 0x1F, 0x0, 0x0, 0x0⟩,
  ⟨0x18, 0x4, 1, .ro, false, false, false, 0x0, 0x0, 0x0, 0x0, 0x0, 0x0⟩,
  ⟨0x100, 0x80, 5, .cm, false, true, true, 0x70000000, 0x0, 0x0, 0x0, 0x80000003, 0x0⟩,
  ⟨0x104, 0x80, 5, .sq, false, false, false, 0x0, 0x0, 0xFF, 0x0, 0x0, 0x100000⟩,
  ⟨0x108, 0x80, 5, .bw, false, true, true, 0x70000000, 0x1F, 0x0, 0x0, 0x0, 0x0⟩,
  ⟨0x10C, 0x80, 5, .rw, false, true, true, 0xFFFFFFFF, 0x0, 0x0, 0x0, 0x0, 0x0⟩,
  ⟨0x110, 0x80, 5, .rw, false, true, true, 0xFFFF, 0x0, 0x0, 0x0, 0x0, 0x0⟩,
  ⟨0x114, 0x80, 5, .ro, false, false, false, 0x0, 0x0, 0x0, 0x0, 0x0, 0x0⟩,
  ⟨0x118, 0x80, 5, .ro, false, false, false, 0x0, 0x0, 0x0, 0x0, 0x0, 0x0⟩,
  ⟨0x11C, 0x80, 5, .ro, false, false, false, 0x0, 0x0, 0x0, 0x0, 0x0, 0x0⟩,
  ⟨0x120, 0x80, 5, .ro, false, false, false, 0x0, 0x0, 0x0, 0x0, 0x0, 0x0⟩,
  ⟨0x124, 0x80, 5, .ro, false, false, false, 0x0, 0x0, 0x0, 0x0, 0x0, 0x0⟩,
  ⟨0x128, 0x80, 5, .ro, false, false, false, 0x0, 0x0, 0x0, 0x0, 0x0, 0x7FFF⟩,
  ⟨0x12C, 0x80, 5, .rw, false, true, false, 0xFFFF, 0x0, 0x0, 0x0, 0x0, 0x0⟩,
  ⟨0x130, 0x80, 5, .ct, false, false, false, 0x0, 0x0, 0x0, 0xFFFFFFFF, 0x0, 0x0⟩,
  ⟨0x134, 0x80, 5, .ct, false, false, false, 0x0, 0x0, 0x0, 0xFFFFFF, 0x0, 0x0⟩,
  ⟨0x138, 0x80, 5, .ro, false, false, false, 0x0, 0x0, 0x0, 0x0, 0x0, 0x0⟩,
  ⟨0x13C, 0x80, 5, .ro, false, false, false, 0x0, 0x0, 0x0, 0x0, 0x0, 0x0⟩]

/-- The register entries of the BIM block, part 0. -/
def rowsBim0 : List RegRow := [
  ⟨0x0, 0x4, 1, .ro, false, false, false, 0x0, 0x0, 0x0, 0x0, 0x0, 0x0⟩,
  ⟨0x100, 0x100, 4, .bw, false, true, true, 0x70000000, 0x10F, 0x0, 0x0, 0x0, 0x0⟩,
  ⟨0x104, 0x100, 4, .bw, false, true, true, 0x0, 0xFFFF0033, 0x0, 0x0, 0x0, 0x0⟩,
  ⟨0x108, 0x100, 4, .bw, false, true, true, 0x0, 0xFFFF0033, 0x0, 0x0, 0x0, 0x11⟩,
  ⟨0x10C, 0x100, 4, .bw, false, true, true, 0x0, 0xFFFF0033, 0x0, 0x0, 0x0, 0x22⟩,
  ⟨0x110, 0x100, 4, .bw, false, true, true, 0x0, 0xFFFF0033, 0x0, 0x0, 0x0, 0x33⟩,
  ⟨0x120, 0x100, 4, .bw, false, true, true, 0x0, 0xFFFFFFFF, 0x0, 0x0, 0x0, 0x0⟩,
  ⟨0x124, 0x100, 4, .bw, false, true, true, 0x0, 0xFFFFFFFF, 0x0, 0x0, 0x0, 0x0⟩,
  ⟨0x128, 0x100, 4, .bw, false, true, true, 0x0, 0xFFFFFFFF, 0x0, 0x0, 0x0, 0x0⟩,
  ⟨0x12C, 0x100, 4, .bw, false, true, true, 0x0, 0xFFFFFFFF, 0x0, 0x0, 0x0, 0x0⟩,
  ⟨0x130, 0x100, 4, .bw, false, true, true, 0x0, 0xFFFFFFFF, 0x0, 0x0, 0x0, 0x0⟩,
  ⟨0x134, 0x100, 4, .bw, false, true, true, 0x0, 0xFFFFFFFF, 0x0, 0x0, 0x0, 0x0⟩,
  ⟨0x138, 0x100, 4, .bw, false, true, true, 0x0, 0xFFFFFFFF, 0x0, 0x0, 0x0, 0x0⟩,
  ⟨0x13C, 0x100, 4, .bw, false, true, true, 0x0, 0xFFFFFFFF, 0x0, 0x0, 0x0, 0x0⟩,
  ⟨0x140, 0x100, 4, .bw, false, true, true, 0x0, 0xFFFFFFFF, 0x0, 0x0, 0x0, 0x0⟩,
  ⟨0x144, 0x100, 4, .cm, false, true, true, 0x60000000, 0x0, 0x0, 0x0, 0x80000000, 0x0⟩,
  ⟨0x148, 0x100, 4, .ro, false, false, false, 0x0, 0x0, 0x0, 0x0, 0x0, 0x80000000⟩,
  ⟨0x14C, 0x100, 4, .sq, false, false, false, 0x0, 0x0, 0x1F, 0x0, 0x0, 0x0⟩,
  ⟨0x150, 0x100, 4, .bw, false, true, true, 0x0, 0xFFFF3F3F, 0x0, 0x0, 0x0, 0x3E80200⟩,
  ⟨0x154, 0x100, 4, .bw, false, true, true, 0x0, 0xFFFFFFFF, 0x0, 0x0, 0x0, 0x10000⟩,
  ⟨0x158, 0x100, 4, .ct, false, false, false, 0x0, 0x0, 0x0, 0xFFFFFFFF, 0x0, 0x0⟩,
  ⟨0x15C, 0x100, 4, .ct, false, false, false, 0x0, 0x0, 0x0, 0xFFFFFFFF, 0x0, 0x0⟩,
  ⟨0x160, 0x100, 4, .ro, false, false, false, 0x0, 0x0, 0x0, 0x0, 0x0, 0x0⟩,
  ⟨0x164, 0x100, 4, .ro, false, false, false, 0x0, 0x0, 0x0, 0x0, 0x0, 0x0⟩,
  ⟨0x168, 0x100, 4, .ro, false, false, false, 0x0, 0x0, 0x0, 0x0, 0x0, 0x0⟩,
  ⟨0x180, 0x100, 4, .ro, false, false, false, 0x0, 0x0, 0x0, 0x0, 0x0, 0x0⟩,
  ⟨0x184, 0x100, 4, .ro, false, false, false, 0x0, 0x0, 0x0, 0x0, 0x0, 0x0⟩,
  ⟨0x188, 0x100, 4, .ro, false, false, false, 0x0, 0x0, 0x0, 0x0, 0x0, 0x0⟩,
  ⟨0x190, 0x100, 4, .ro, false, false, false, 0x0, 0x0, 0x0, 0x0, 0x0, 0x0⟩,
  ⟨0x194, 0x100, 4, .ro, false, false, false, 0x0, 0x0, 0x0, 0x0, 0x0, 0x0⟩,
  ⟨0x198, 0x100, 4, .ro, false, false, false, 0x0, 0x0, 0x0, 0x0, 0x0, 0x0⟩,
  ⟨0x1A0, 0x100, 4, .ro, false, false, false, 0x0, 0x0, 0x0, 0x0, 0x0, 0x0⟩,
  ⟨0x1A4, 0x100, 4, .ro, false, false, false, 0x0, 0x0, 0x0, 0x0, 0x0, 0x0⟩,
  ⟨0x1A8, 0x100, 4, .ro, false, false, false, 0x0, 0x0, 0x0, 0x0, 0x0, 0x0⟩,
  ⟨0x1B0, 0x100, 4, .ro, false, false, false, 0x0, 0x0, 0x0, 0x0, 0x0, 0x0⟩,
  ⟨0x1B4, 0x100, 4, .ro, false, false, false, 0x0, 0x0, 0x0, 0x0, 0x0, 0x0⟩,
  ⟨0x1B8, 0x100, 4, .ro, false, false, false, 0x0, 0x0, 0x0, 0x0, 0x0, 0x0⟩,
  ⟨0x1C0, 0x100, 4, .ro, false, false, false, 0x0, 0x0, 0x0, 0x0, 0x0, 0x0⟩,
  ⟨0x1C4, 0x100, 4, .ro, false, false, false, 0x0, 0x0, 0x0, 0x0, 0x0, 0x0⟩,
  ⟨0x1C8, 0x100, 4, .ro, false, false, false, 0x0, 0x0, 0x0, 0x0, 0x0, 0x0⟩]

/-- The register entries of the BIM block, part 1. -/
def rowsBim1 : List RegRow := [
  ⟨0x1D0, 0x100, 4, .ro, false, false, false, 0x0, 0x0, 0x0, 0x0, 0x0, 0x0⟩,
  ⟨0x1D4, 0x100, 4, .ro, false, false, false, 0x0, 0x0, 0x0, 0x0, 0x0, 0x0⟩,
  ⟨0x1D8, 0x100, 4, .ro, false, false, false, 0x0, 0x0, 0x0, 0x0, 0x0, 0x0⟩,
  ⟨0x600, 0x40, 4, .bw, false, true, true, 0x70000000, 0x3F0FE7, 0x0, 0x0, 0x0, 0x120004⟩,
  ⟨0x604, 0x40, 4, .bw, false, true, true, 0x0, 0xFFFFF, 0x0, 0x0, 0x0, 0x2710⟩,
  ⟨0x608, 0x40, 4, .sq, false, false, false, 0x0, 0x0, 0x27, 0x0, 0x0, 0x0⟩,
  ⟨0x60C, 0x40, 4, .ct, false, false, false, 0x0, 0x0, 0x0, 0xFFFFFFFF, 0x0, 0x0⟩,
  ⟨0x610, 0x40, 4, .ct, false, false, false, 0x0, 0x0, 0x0, 0xFFFFFFFF, 0x0, 0x0⟩,
  ⟨0x614, 0x40, 4, .ct, false, false, false, 0x0, 0x0, 0x0, 0xFFFFFFFF, 0x0, 0x0⟩,
  ⟨0x618, 0x40, 4, .ro, false, false, false, 0x0, 0x0, 0x0, 0x0, 0x0, 0x0⟩,
  ⟨0x61C, 0x40, 4, .ro, false, false, false, 0x0, 0x0, 0x0, 0x0, 0x0, 0x0⟩]

/-- The register entries of the BIM block. -/
def rowsBim : List RegRow := rowsBim0 ++ rowsBim1

/-- The register entries of the HRM block. -/
def rowsHrm : List RegRow := [
  ⟨0x0, 0x4, 1, .ro, false, false, false, 0x0, 0x0, 0x0, 0x0, 0x0, 0x0⟩,
  ⟨0x4, 0x4, 1, .bw, false, true, false, 0x70000000, 0x1FF, 0x0, 0x0, 0x0, 0x28⟩,
  ⟨0x8, 0x4, 1, .cm, false, true, false, 0x0, 0x0, 0x0, 0x0, 0x1, 0x0⟩,
  ⟨0xC, 0x4, 1, .rw, true, false, false, 0x73, 0x0, 0x0, 0x0, 0x0, 0x0⟩,
  ⟨0x10, 0x4, 1, .bw, false, true, false, 0x0, 0xFFF, 0x0, 0x0, 0x0, 0x0⟩,
  ⟨0x100, 0x40, 4, .bw, false, true, false, 0x0, 0x103, 0x0, 0x0, 0x0, 0x100⟩,
  ⟨0x104, 0x40, 4, .sq, false, false, false, 0x0, 0x0, 0x7, 0x0, 0x0, 0x0⟩,
  ⟨0x108, 0x40, 4, .ro, false, false, false, 0x0, 0x0, 0x0, 0x0, 0x0, 0x0⟩,
  ⟨0x114, 0x40, 4, .ro, false, false, false, 0x0, 0x0, 0x0, 0x0, 0x0, 0x0⟩,
  ⟨0x10C, 0x40, 4, .ro, false, false, false, 0x0, 0x0, 0x0, 0x0, 0x0, 0x0⟩,
  ⟨0x110, 0x40, 4, .ro, false, false, false, 0x0, 0x0, 0x0, 0x0, 0x0, 0x0⟩,
  ⟨0x11C, 0x40, 4, .ro, false, false, false, 0x0, 0x0, 0x0, 0x0, 0x0, 0x0⟩,
  ⟨0x118, 0x40, 4, .ro, false, false, false, 0x0, 0x0, 0x0, 0x0, 0x0, 0x0⟩]

/-- The register entries of the EVT block. -/
def rowsEvt : List RegRow := [
  ⟨0x4, 0x4, 1, .bw, false, true, false, 0x0, 0x37F, 0x0, 0x0, 0x0, 0x0⟩,
  ⟨0x8, 0x4, 1, .bw, false, true, false, 0x0, 0x1FFFFFF, 0x0, 0x0, 0x0, 0x0⟩,
  ⟨0xC, 0x4, 1, .bw, false, true, false, 0x0, 0xFFFFFFFF, 0x0, 0x0, 0x0, 0x8CCD7333⟩,
  ⟨0x10, 0x4, 1, .bw, false, true, false, 0x0, 0xFFFFFFFF, 0x0, 0x0, 0x0, 0x28F0666⟩,
  ⟨0x14, 0x4, 1, .bw, false, true, false, 0x0, 0xFFFF, 0x0, 0x0, 0x0, 0x0⟩,
  ⟨0x18, 0x4, 1, .bw, false, true, false, 0x0, 0xFFFFFFFF, 0x0, 0x0, 0x0, 0x1000100⟩,
  ⟨0x1C, 0x4, 1, .bw, false, true, false, 0x0, 0xFF, 0x0, 0x0, 0x0, 0x5⟩,
  ⟨0x20, 0x4, 1, .ro, false, false, false, 0x0, 0x0, 0x0, 0x0, 0x0, 0x0⟩,
  ⟨0x24, 0x4, 1, .ro, false, false, false, 0x0, 0x0, 0x0, 0x0, 0x0, 0x0⟩,
  ⟨0x40, 0x4, 7, .ro, false, false, false, 0x0, 0x0, 0x0, 0x0, 0x0, 0x0⟩,
  ⟨0x60, 0x4, 7, .ro, false, false, false, 0x0, 0x0, 0x0, 0x0, 0x0, 0x0⟩,
  ⟨0x80, 0x4, 1, .ro, false, false, false, 0x0, 0x0, 0x0, 0x0, 0x0, 0x0⟩,
  ⟨0x84, 0x4, 1, .rw, false, true, false, 0x7F, 0x0, 0x0, 0x0, 0x0, 0x1⟩,
  ⟨0x88, 0x4, 4, .ro, false, false, false, 0x0, 0x0, 0x0, 0x0, 0x0, 0x0⟩,
  ⟨0x98, 0x4, 1, .cm, false, true, false, 0x0, 0x0, 0x0, 0x0, 0x3, 0x0⟩,
  ⟨0x9C, 0x4, 1, .sq, false, false, false, 0x0, 0x0, 0x7, 0x0, 0x0, 0x0⟩,
  ⟨0xA0, 0x4, 1, .ct, false, false, false, 0x0, 0x0, 0x0, 0xFFFFFFFF, 0x0, 0x0⟩]

/-- The register entries of the MBX block. -/
def rowsMbx : List RegRow := [
  ⟨0x0, 0x4, 1, .ro, false, false, false, 0x0, 0x0, 0x0, 0x0, 0x0, 0x20⟩,
  ⟨0x4, 0x4, 1, .sq, false, false, false, 0x0, 0x0, 0xF, 0x0, 0x0, 0x0⟩,
  ⟨0x8, 0x4, 1, .rw, false, true, false, 0xFFFFFFFF, 0x0, 0x0, 0x0, 0x0, 0x6⟩,
  ⟨0xC, 0x4, 1, .ro, false, false, false, 0x0, 0x0, 0x0, 0x0, 0x0, 0x0⟩,
  ⟨0x10, 0x4, 1, .cm, true, false, false, 0x0, 0x0, 0x0, 0x0, 0x1, 0x0⟩,
  ⟨0x40, 0x4, 9, .ro, false, false, false, 0x0, 0x0, 0x0, 0x0, 0x0, 0x0⟩,
  ⟨0x100, 0x10, 32, .rw, false, true, false, 0x7FF010F, 0x0, 0x0, 0x0, 0x0, 0x100⟩,
  ⟨0x104, 0x10, 32, .cm, false, true, false, 0x0, 0x0, 0x0, 0x0, 0xC0000000, 0x0⟩,
  ⟨0x108, 0x10, 32, .ro, false, false, false, 0x0, 0x0, 0x0, 0x0, 0x0, 0x0⟩,
  ⟨0x400, 0x4, 512, .rw, false, true, false, 0xFFFFFFFF, 0x0, 0x0, 0x0, 0x0, 0x0⟩]

/-- The register entries of the NVM block. -/
def rowsNvm : List RegRow := [
  ⟨0x0, 0x4, 1, .ro, false, false, false, 0x0, 0x0, 0x0, 0x0, 0x0, 0x10200400⟩,
  ⟨0x4, 0x4, 1, .rw, false, true, false, 0xF, 0x0, 0x0, 0x0, 0x0, 0x3⟩,
  ⟨0x8, 0x4, 1, .cm, false, true, false, 0x0, 0x0, 0x0, 0x0, 0x7, 0x0⟩,
  ⟨0xC, 0x4, 1, .sq, false, false, false, 0x0, 0x0, 0xFF, 0x0, 0x0, 0x0⟩,
  ⟨0x10, 0x4, 1, .rw, true, false, false, 0x3FF, 0x0, 0x0, 0x0, 0x0, 0x0⟩,
  ⟨0x14, 0x4, 1, .ro, true, false, false, 0x0, 0x0, 0x0, 0x0, 0x0, 0x0⟩,
  ⟨0x18, 0x4, 1, .ro, true, false, false, 0x0, 0x0, 0x0, 0x0, 0x0, 0x0⟩,
  ⟨0x1C, 0x4, 1, .ro, true, false, false, 0x0, 0x0, 0x0, 0x0, 0x0, 0x0⟩,
  ⟨0x20, 0x4, 4, .rw, false, true, true, 0x83FF03FF, 0x0, 0x0, 0x0, 0x0, 0x0⟩,
  ⟨0x30, 0x4, 1, .ct, false, false, false, 0x0, 0x0, 0x0, 0xFFFFFFFF, 0x0, 0x0⟩,
  ⟨0x34, 0x4, 1, .ct, false, false, false, 0x0, 0x0, 0x0, 0xFFFFFFFF, 0x0, 0x0⟩,
  ⟨0x38, 0x4, 1, .ct, false, false, false, 0x0, 0x0, 0x0, 0xFFFFFFFF, 0x0, 0x0⟩,
  ⟨0x3C, 0x4, 1, .ct, false, false, false, 0x0, 0x0, 0x0, 0xFFFFFFFF, 0x0, 0x0⟩,
  ⟨0x40, 0x4, 1, .ro, false, false, false, 0x0, 0x0, 0x0, 0x0, 0x0, 0x0⟩,
  ⟨0x44, 0x4, 1, .ro, false, false, false, 0x0, 0x0, 0x0, 0x0, 0x0, 0x0⟩,
  ⟨0x80, 0x4, 1, .cm, false, true, false, 0xF, 0x0, 0x0, 0x0, 0x80000000, 0x0⟩,
  ⟨0x84, 0x4, 1, .sq, false, false, false, 0x0, 0x0, 0x7, 0x0, 0x0, 0x0⟩,
  ⟨0x100, 0x8, 16, .ro, false, false, false, 0x0, 0x0, 0x0, 0x0, 0x0, 0x0⟩,
  ⟨0x104, 0x8, 16, .ro, false, false, false, 0x0, 0x0, 0x0, 0x0, 0x0, 0x0⟩,
  ⟨0x180, 0x4, 16, .ro, false, false, false, 0x0, 0x0, 0x0, 0x0, 0x0, 0x0⟩]

/-- The register entries of the RTC block. -/
def rowsRtc : List RegRow := [
  ⟨0x0, 0x4, 1, .ro, false, false, false, 0x0, 0x0, 0x0, 0x0, 0x0, 0x8⟩,
  ⟨0x4, 0x4, 1, .rw, false, true, false, 0x7, 0x0, 0x0, 0x0, 0x0, 0x0⟩,
  ⟨0x8, 0x4, 1, .sq, false, false, false, 0x0, 0x0, 0xFF, 0x0, 0x0, 0x8000⟩,
  ⟨0xC, 0x4, 1, .cm, false, true, false, 0x0, 0x0, 0x0, 0x0, 0x6F, 0x0⟩,
  ⟨0x10, 0x4, 1, .ro, false, false, false, 0x0, 0x0, 0x0, 0x0, 0x0, 0x0⟩,
  ⟨0x14, 0x4, 1, .ro, false, false, false, 0x0, 0x0, 0x0, 0x0, 0x0, 0x0⟩,
  ⟨0x18, 0x4, 1, .ro, false, false, false, 0x0, 0x0, 0x0, 0x0, 0x0, 0x50101⟩,
  ⟨0x1C, 0x4, 1, .ro, false, false, false, 0x0, 0x0, 0x0, 0x0, 0x0, 0x80000000⟩,
  ⟨0x20, 0x4, 1, .rw, false, true, false, 0xFF1F3F3F, 0x0, 0x0, 0x0, 0x0, 0x0⟩,
  ⟨0x24, 0x4, 1, .rw, false, true, false, 0xFF0F1F, 0x0, 0x0, 0x0, 0x0, 0x101⟩,
  ⟨0x28, 0x4, 1, .ro, false, false, false, 0x0, 0x0, 0x0, 0x0, 0x0, 0x0⟩,
  ⟨0x2C, 0x4, 1, .rw, false, true, true, 0xFFFF, 0x0, 0x0, 0x0, 0x0, 0x0⟩,
  ⟨0x30, 0x4, 1, .rw, false, true, false, 0xC0FFFFFF, 0x0, 0x0, 0x0, 0x0, 0x100⟩,
  ⟨0x34, 0x4, 1, .ro, false, false, false, 0x0, 0x0, 0x0, 0x0, 0x0, 0x0⟩,
  ⟨0x38, 0x4, 1, .ro, false, false, false, 0x0, 0x0, 0x0, 0x0, 0x0, 0x0⟩,
  ⟨0x40, 0x10, 2, .rw, false, true, false, 0xE01F3F3F, 0x0, 0x0, 0x0, 0x0, 0x0⟩,
  ⟨0x44, 0x10, 2, .rw, false, true, false, 0xF0070F1F, 0x0, 0x0, 0x0, 0x0, 0x101⟩,
  ⟨0x60, 0x4, 1, .ro, false, false, false, 0x0, 0x0, 0x0, 0x0, 0x0, 0x0⟩,
  ⟨0x64, 0x4, 1, .ro, false, false, false, 0x0, 0x0, 0x0, 0x0, 0x0, 0x80000000⟩,
  ⟨0x68, 0x4, 1, .ro, false, false, false, 0x0, 0x0, 0x0, 0x0, 0x0, 0x0⟩,
  ⟨0x6C, 0x4, 1, .sq, false, false, false, 0x0, 0x0, 0x3, 0x0, 0x0, 0x300⟩]

/-- The register entries of the PLC block. -/
def rowsPlc : List RegRow := [
  ⟨0x0, 0x4, 1, .ro, false, false, false, 0x0, 0x0, 0x0, 0x0, 0x0, 0x20030000⟩,
  ⟨0x4, 0x4, 1, .rw, false, true, false, 0xFFFFF001, 0x0, 0x0, 0x0, 0x0, 0x0⟩,
  ⟨0x8, 0x4, 1, .rw, false, true, false, 0x8000001F, 0x0, 0x0, 0x0, 0x0, 0x0⟩,
  ⟨0xC, 0x4, 1, .rw, false, true, false, 0xFF, 0x0, 0x0, 0x0, 0x0, 0xC⟩,
  ⟨0x10, 0x4, 1, .rw, false, true, false, 0xF0F0F, 0x0, 0x0, 0x0, 0x0, 0x60304⟩,
  ⟨0x20, 0x4, 8, .rw, false, true, true, 0xFFFFFFFF, 0x0, 0x0, 0x0, 0x0, 0xFFFFFFFF⟩,
  ⟨0x40, 0x4, 1, .sq, false, false, false, 0x0, 0x0, 0xF, 0x0, 0x0, 0x0⟩,
  ⟨0x44, 0x4, 1, .ro, false, false, false, 0x0, 0x0, 0x0, 0x0, 0x0, 0x0⟩,
  ⟨0x50, 0x4, 1, .ct, false, false, false, 0x0, 0x0, 0x0, 0xFFFFFFFF, 0x0, 0x0⟩,
  ⟨0x54, 0x4, 1, .ct, false, false, false, 0x0, 0x0, 0x0, 0xFFFFFFFF, 0x0, 0x0⟩,
  ⟨0x58, 0x4, 1, .ct, false, false, false, 0x0, 0x0, 0x0, 0xFFFFFFFF, 0x0, 0x0⟩,
  ⟨0x5C, 0x4, 1, .ct, false, false, false, 0x0, 0x0, 0x0, 0xFFFFFFFF, 0x0, 0x0⟩,
  ⟨0x70, 0x4, 1, .rw, true, false, false, 0x31F, 0x0, 0x0, 0x0, 0x0, 0x0⟩]

/-- The register entries of the PNL block. -/
def rowsPnl : List RegRow := [
  ⟨0x0, 0x4, 1, .ro, false, false, false, 0x0, 0x0, 0x0, 0x0, 0x0, 0x0⟩,
  ⟨0x4, 0x4, 1, .rw, false, true, false, 0xFFFF0003, 0x0, 0x0, 0x0, 0x0, 0x640000⟩,
  ⟨0x8, 0x4, 1, .sq, false, false, false, 0x0, 0x0, 0x3F, 0x0, 0x0, 0x8000⟩,
  ⟨0xC, 0x4, 1, .ro, false, false, false, 0x0, 0x0, 0x0, 0x0, 0x0, 0x0⟩,
  ⟨0x20, 0x4, 8, .rw, false, true, false, 0xFFFFFFFF, 0x0, 0x0, 0x0, 0x0, 0x0⟩,
  ⟨0x40, 0x4, 1, .ro, false, false, false, 0x0, 0x0, 0x0, 0x0, 0x0, 0x80⟩,
  ⟨0x50, 0x4, 1, .rw, false, true, false, 0xFFFFFFFF, 0x0, 0x0, 0x0, 0x0, 0x0⟩,
  ⟨0x54, 0x4, 1, .rw, false, true, false, 0xFFFFFFFF, 0x0, 0x0, 0x0, 0x0, 0x0⟩,
  ⟨0x58, 0x4, 1, .cm, false, true, false, 0x0, 0x0, 0x0, 0x0, 0x1, 0x0⟩,
  ⟨0x5C, 0x4, 1, .cm, false, true, false, 0x0, 0x0, 0x0, 0x0, 0x1, 0x0⟩,
  ⟨0x60, 0x4, 1, .ct, false, false, false, 0x0, 0x0, 0x0, 0xFFFFFFFF, 0x0, 0x0⟩,
  ⟨0x64, 0x4, 1, .ct, false, false, false, 0x0, 0x0, 0x0, 0xFFFFFFFF, 0x0, 0x0⟩]

/-- The register entries of the CHN block. -/
def rowsChn : List RegRow := [
  ⟨0x0, 0x4, 1, .ro, false, false, false, 0x0, 0x0, 0x0, 0x0, 0x0, 0x0⟩,
  ⟨0x4, 0x4, 1, .rw, false, true, false, 0x1, 0x0, 0x0, 0x0, 0x0, 0x1⟩,
  ⟨0x8, 0x4, 1, .sq, false, false, false, 0x0, 0x0, 0x1F, 0x0, 0x0, 0x0⟩,
  ⟨0xC, 0x4, 1, .ro, false, false, false, 0x0, 0x0, 0x0, 0x0, 0x0, 0x0⟩,
  ⟨0x10, 0x4, 1, .ro, false, false, false, 0x0, 0x0, 0x0, 0x0, 0x0, 0x0⟩,
  ⟨0x14, 0x4, 1, .ct, false, false, false, 0x0, 0x0, 0x0, 0xFFFFFFFF, 0x0, 0x0⟩,
  ⟨0x18, 0x4, 1, .ct, false, false, false, 0x0, 0x0, 0x0, 0xFFFFFFFF, 0x0, 0x0⟩,
  ⟨0x1C, 0x4, 1, .ro, false, false, false, 0x0, 0x0, 0x0, 0x0, 0x0, 0x0⟩,
  ⟨0x20, 0x4, 8, .rw, false, true, false, 0xFFFFFFFF, 0x0, 0x0, 0x0, 0x0, 0x0⟩,
  ⟨0x80, 0x20, 4, .rw, false, true, true, 0x8000003F, 0x0, 0x0, 0x0, 0x0, 0x0⟩,
  ⟨0x84, 0x20, 4, .ro, false, false, false, 0x0, 0x0, 0x0, 0x0, 0x0, 0x0⟩,
  ⟨0x88, 0x20, 4, .ro, false, false, false, 0x0, 0x0, 0x0, 0x0, 0x0, 0x0⟩,
  ⟨0x8C, 0x20, 4, .ro, false, false, false, 0x0, 0x0, 0x0, 0x0, 0x0, 0x0⟩]

/-- The register entries of a block, by address bits [23:16] (R33). -/
def blockRows : Nat → List RegRow
  | 0x0 => rowsSys
  | 0x1 => rowsSec
  | 0x2 => rowsReg
  | 0x3 => rowsClk
  | 0x4 => rowsCnv
  | 0x5 => rowsFlt
  | 0x6 => rowsAux
  | 0x7 => rowsEsc
  | 0xC => rowsBim
  | 0xD => rowsHrm
  | 0xE => rowsEvt
  | 0xF => rowsMbx
  | 0x10 => rowsNvm
  | 0x11 => rowsRtc
  | 0x12 => rowsPlc
  | 0x13 => rowsPnl
  | 0x14 => rowsChn
  | _ => []

/-- Whether an offset is that of a register of the entry. -/
def RegRow.holds (r : RegRow) (o : Nat) : Bool :=
  decide (r.off ≤ o) && decide ((o - r.off) % r.stride = 0) && decide ((o - r.off) / r.stride < r.count)

/-- The entry of the register at an address, where one is there (R337). -/
def rowAt (a : Nat) : Option RegRow := (blockRows (a / 0x10000)).find? fun r => r.holds (a % 0x10000)

/-- The reset value of the register at an address: the table's, and what the table gives by position: RX of mailbox 0
(R387), KIND of RA and RB (R55). -/
def resetVal (a : Nat) : Word :=
  if a = 0x0F0100 then 0x102#32
  else if a = 0x0F0110 || a = 0x0F0120 then 0x100#32
  else if a = 0x040900 || a = 0x040980 then 0x200#32
  else match rowAt a with
    | some r => wd r.res
    | none => 0#32

end Sys2Proof.Machine
end

