-- ==== Sys2Proof/Machine/Regs.lean ====
section
/-! DEFINITION. Reading and writing the register file from inside the device, sticky bits and counts (R340-R342), what a
variant has (R2, R8-R13), the power domains (R33-R35), the apply point of a request (R40) and free values. -/
namespace Sys2Proof

/-- The ID code of a master (R335). -/
def Master.id : Master → Nat
  | .hs => 0
  | .hi => 1
  | .sv => 2
  | .eng k => 3 + k.val
  | .cl => 8

/-- One of three values by slice. -/
def Tri.get (t : Tri) : Fin 3 → Int
  | 0 => t.s0
  | 1 => t.s1
  | 2 => t.s2

end Sys2Proof

namespace Sys2Proof.Machine

/-! ## The register file -/

/-- The value of the register at an address, normal view (R340). -/
def Dev.reg (d : Dev) (a : Nat) : Word := SMap.get (resetVal a) d.regs a

/-- Load a register from inside the device. -/
def Dev.setReg (d : Dev) (a : Nat) (w : Word) : Dev := { d with regs := SMap.set (resetVal a) d.regs a w }

/-- Bits [hi:lo] of a register. -/
def Dev.rf (d : Dev) (a hi lo : Nat) : Nat := fld (d.reg a) hi lo

/-- One bit of a register. -/
def Dev.rb (d : Dev) (a i : Nat) : Bool := bit (d.reg a) i

/-- Load bits [hi:lo] of a register from inside the device. -/
def Dev.putFld (d : Dev) (a hi lo v : Nat) : Dev := d.setReg a (setFld (d.reg a) hi lo v)

/-- Load one bit of a register from inside the device. -/
def Dev.putBit (d : Dev) (a i : Nat) (b : Bool) : Dev := d.putFld a i i b.toNat

/-- The active value of the buffered fields of a register (R340, R348). -/
def Dev.active (d : Dev) (a : Nat) : Word := SMap.get (resetVal a) d.act a

/-- Load an active value, as an apply does (R373). -/
def Dev.setActive (d : Dev) (a : Nat) (w : Word) : Dev := { d with act := SMap.set (resetVal a) d.act a w }

/-- Bits [hi:lo] of an active value. -/
def Dev.af (d : Dev) (a hi lo : Nat) : Nat := fld (d.active a) hi lo

/-- One bit of an active value. -/
def Dev.ab (d : Dev) (a i : Nat) : Bool := bit (d.active a) i

/-- One hardware event that sets the given sticky bits of an SQ register: SEQ advances once (R341). -/
def Dev.raiseSq (d : Dev) (a : Nat) (bits : Nat) : Dev :=
  let w := d.reg a ||| wd bits
  d.setReg a (setFld w 31 24 (fld w 31 24 + 1))

/-- Raise when a condition holds. -/
def Dev.raiseIf (d : Dev) (c : Bool) (a : Nat) (bits : Nat) : Dev := if c then d.raiseSq a bits else d

/-- Add to a saturating count field [hi:lo] (R342). -/
def Dev.count (d : Dev) (a hi lo n : Nat) : Dev := d.putFld a hi lo (satNat (hi + 1 - lo) (d.rf a hi lo + n))

/-- Add to a count field [hi:lo] that wraps (R342). -/
def Dev.countMod (d : Dev) (a hi lo n : Nat) : Dev := d.putFld a hi lo (d.rf a hi lo + n)

/-- Return every register of an address range to its reset values, pending and active alike (R17, R377). -/
def Dev.resetRange (d : Dev) (lo hi : Nat) : Dev :=
  { d with regs := SMap.dropRange lo hi d.regs, act := SMap.dropRange lo hi d.act }

/-! ## Masters and per-master instances (R335, R339) -/

/-- The key of a register instance of a master. -/
def instKey (m a : Nat) : Nat := m * 0x1000000 + a

/-- The instance of a per-master register (R339). -/
def Dev.ireg (d : Dev) (m : Nat) (a : Nat) : Word := SMap.get (resetVal a) d.inst (instKey m a)

def Dev.setIreg (d : Dev) (m : Nat) (a : Nat) (w : Word) : Dev :=
  { d with inst := SMap.set (resetVal a) d.inst (instKey m a) w }

def Dev.putIfld (d : Dev) (m a hi lo v : Nat) : Dev := d.setIreg m a (setFld (d.ireg m a) hi lo v)

/-- A hardware event on a per-master SQ register (R341). -/
def Dev.raiseIsq (d : Dev) (m a bits : Nat) : Dev :=
  let w := d.ireg m a ||| wd bits
  d.setIreg m a (setFld w 31 24 (fld w 31 24 + 1))

/-- An error response to a master: its REG_ERRINFO and the count (R355). -/
def Dev.errTo (d : Dev) (m cause a : Nat) : Dev :=
  (d.setIreg m A.regErrinfo (wd (cause * 2 ^ 28 + a % 2 ^ 24))).count A.regErrcnt 31 0 1

/-- The scan of CFGSUM begins anew, since something it covers has changed or a domain has turned on or off (R382): a CAPTURE that
waited for the end of the scan in progress takes this one (R384). -/
def Dev.restartScan (d : Dev) : Dev := { d with cfgCapture := d.cfgCapture.map fun _ => false }

/-! ## Free values (log entry 7) -/

/-- The next free value, and the device with the counter advanced. -/
def Dev.free (d : Dev) : Nat × Dev := (Config.freeValue d.freeCtr, { d with freeCtr := d.freeCtr + 1 })

/-- A free deviation of at most one unit, for a result stated only to an accuracy (log entry 9). -/
def Dev.freeDev (d : Dev) : Int × Dev := (((Config.freeValue d.freeCtr % 3 : Nat) : Int) - 1, { d with freeCtr := d.freeCtr + 1 })

/-! ## What the variant has (R2-R4, R19, R34) -/

/-- Whether a channel index is present (R2). -/
def Fuses.chan (f : Fuses) (k : Nat) : Bool :=
  match f.build with
  | .q => decide (k < 18)
  | .t => decide (k < 10) || k == 16
  | .s => decide (k < 8) || k == 16

/-- Whether an engine is present (R2). -/
def Fuses.engine (f : Fuses) (k : Nat) : Bool :=
  match f.build with
  | .q => decide (k < 5)
  | .t => decide (k < 2) || k == 4
  | .s => k == 0 || k == 4

/-- How many groups are present (R2). -/
def Fuses.groups (f : Fuses) : Nat := match f.build with | .q => 4 | .t => 2 | .s => 1

/-- How many calibration-pulse outputs are present (R2). -/
def Fuses.cfs (f : Fuses) : Nat := match f.build with | .s => 2 | _ => 4

/-- Whether a power domain is present (R4, R11). -/
def Fuses.dom (f : Fuses) (n : Nat) : Bool :=
  if n = 4 then f.build == .q else if n = 6 then f.plc else if n = 7 then f.build != .s else decide (n < 8)

/-- Whether an AUX input is present (R319). -/
def Fuses.auxIn (f : Fuses) (i : Nat) : Bool :=
  match f.build with
  | .s => decide (i < 2) || (decide (4 ≤ i) && decide (i < 8))
  | _ => decide (i < 10)

/-- Commons and segment lines of the panel (R526). -/
def Fuses.coms (f : Fuses) : Nat := match f.build with | .q => 8 | .t => 4 | .s => 0
def Fuses.segs (f : Fuses) : Nat := match f.build with | .q => 40 | .t => 16 | .s => 0

/-- The code of the build (R6). -/
def Fuses.buildCode (f : Fuses) : Nat := match f.build with | .q => 0 | .t => 1 | .s => 2

/-- The variant index (R6). -/
def Fuses.variant (f : Fuses) : Nat := 4 * f.buildCode + 2 * (1 - f.plc.toNat) + f.gradeB.toNat

/-- The power domain of a channel's bank (R34). -/
def bankDom (k : Nat) : Nat := if k < 4 || 16 ≤ k then 2 else if k < 10 then 3 else 4

/-- Whether a power domain is on (PWR_DOM.ON). -/
def Dev.on (d : Dev) (n : Nat) : Bool := d.rb A.pwrDom n

/-- Whether a channel is present with its bank on. -/
def Dev.chanOn (d : Dev) (k : Nat) : Bool := d.fuses.chan k && d.on (bankDom k)

/-- The grouped channels of the variant, in ascending index (R22). -/
def Fuses.grouped (f : Fuses) : List Nat := (List.range 16).filter f.chan

/-- The current channels of a group, in ascending order (R3). -/
def Fuses.groupCur (f : Fuses) (g : Nat) : List Nat :=
  match f.build with
  | .s => if g = 0 then [4, 5, 6, 7] else []
  | _ => if g < f.groups then [4 + 3 * g, 5 + 3 * g, 6 + 3 * g] else []

/-- Whether the device is the chain master (R547). -/
def Dev.isMaster (d : Dev) : Bool := d.fuses.id == 0#3

/-- CK2 XTM verified (R484). -/
def Dev.xtmOk (d : Dev) : Bool := d.rb A.clkStat 8

/-- Whether an accepted power command is still to switch a domain off (R472, R489). -/
def Dev.goesOff (d : Dev) (n : Nat) : Bool :=
  match d.pwr with
  | some s => s.steps.any fun (e : Fin 8 × Bool) => e.1.val == n && !e.2
  | none => false

/-- PD1 SUP is held in reset, by the brown-out monitor or the RESETN pin (R478). -/
def Dev.held (d : Dev) : Bool := d.inReset || d.resetPin

/-- CYC locked now (R43). -/
def Dev.locked (d : Dev) : Bool := d.rb A.clkCycstat 3

/-! ## Parts of the state by number -/

def Dev.chan (d : Dev) (k : Nat) : Chan := d.chans.getD k offChan
def Dev.setChan (d : Dev) (k : Nat) (c : Chan) : Dev := { d with chans := d.chans.setIfInBounds k c }
def Dev.modChan (d : Dev) (k : Nat) (f : Chan → Chan) : Dev := d.setChan k (f (d.chan k))

def Chan.slice (c : Chan) : Fin 3 → Slice
  | 0 => c.s0
  | 1 => c.s1
  | 2 => c.s2

def Chan.setSlice (c : Chan) (i : Fin 3) (s : Slice) : Chan :=
  match i with
  | 0 => { c with s0 := s }
  | 1 => { c with s1 := s }
  | 2 => { c with s2 := s }

def slicesAll : List (Fin 3) := [0, 1, 2]

/-! ## Binding to a boundary (R40) -/

/-- The number of the cycle boundary that a request completing now binds to: the next one, or the one after it once the
cut-off has passed (R40). -/
def Dev.nextBoundary (d : Dev) : Nat := if d.cutoffPassed then d.cycN + 2 else d.cycN + 1

/-- Bind a request to its boundary (R40). -/
def Dev.bind (d : Dev) (b : Bind) : Dev := { d with bound := d.bound ++ [(d.nextBoundary, b)] }

/-- Drop the requests that meet a condition among those bound to the boundary that one completing now binds to. -/
def Dev.unbindHere (d : Dev) (p : Bind → Bool) : Dev :=
  { d with bound := d.bound.filter fun e => !(e.1 == d.nextBoundary && p e.2) }

/-- Drop the bound requests that meet a condition. -/
def Dev.unbind (d : Dev) (p : Bind → Bool) : Dev := { d with bound := d.bound.filter fun e => !p e.2 }

/-! ## The presets (R101, R112) -/

def presetN : Nat → Nat | 0 => 5 | 1 => 4 | 2 => 4 | _ => 3
def presetD : Nat → Nat | 0 => 1024 | 1 => 512 | 2 => 256 | _ => 128
def presetW : Nat → Nat | 0 => 56 | 1 => 40 | 2 => 36 | _ => 25
def presetM : Nat → Nat | 0 => 32 | 1 => 64 | 2 => 128 | _ => 256
/-- The output period in XTM periods. -/
def presetP (p : Nat) : Nat := 4 * presetD p
/-- The rank length of a RANK code (R107). -/
def rankL : Nat → Nat | 1 => 3 | 2 => 5 | _ => 0

/-- The frame preset and the frame rank code (R628). -/
def Dev.framePreset (d : Dev) : Nat := d.rf A.fltFrame 1 0
def Dev.frameRank (d : Dev) : Nat := d.rf A.fltFrame 9 8

end Sys2Proof.Machine
end

