-- ==== Sys2Proof/Machine/Converter.lean ====
section
/-! DEFINITION. Converter channels: combiner, rotation, cycle integrals, health and retirement, over-range, clamp monitors and
the two bandgaps (02). -/
namespace Sys2Proof.Machine

/-! ## The crossfade and the combiner (R59, R64) -/

/-- The ROM of crossfade weights (R64), first half. -/
def xfadeLo : List Nat :=
  [10, 89, 246, 482, 796, 1187, 1654, 2196, 2811, 3499, 4257, 5084, 5977, 6935, 7956, 9036,
   10173, 11365, 12608, 13900, 15237, 16617, 18035, 19489, 20975, 22489, 24028, 25588, 27166, 28757, 30357, 31964]

/-- The weight xfade[k]; the second half mirrors the first (R64). After the crossfade it is unity. -/
def xfadeRom (k : Nat) : Nat :=
  if k < 32 then xfadeLo.getD k 0 else if k < 64 then 65536 - xfadeLo.getD (63 - k) 0 else 65536

/-- The slices in a role. -/
def Chan.inRole (c : Chan) (r : Role) : List (Fin 3) := slicesAll.filter fun i => (c.slice i).role == r

/-- The slices that are not retired. -/
def Chan.live (c : Chan) : List (Fin 3) := slicesAll.filter fun i => (c.slice i).role != .retired

/-- The mode: 0 three-slice, 1 two-slice, 2 one-slice (CNV_CHk_SLICE.MODE). -/
def Chan.mode (c : Chan) : Nat := match c.live.length with | 3 => 0 | 2 => 1 | _ => 2

/-- 1 / (1 + grat) of a slice (R59). -/
def Slice.gcorr (s : Slice) : Frac := ⟨2 ^ 24, ((2 : Int) ^ 24 + s.grat).toNat⟩

/-- A packet corrected for its slice's offset and relative gain (R59). -/
def Slice.corrected (s : Slice) (p : Int) : Frac := Q.mul (Q.mk (p * 2 ^ 20 - s.ofs) (2 ^ 20)) s.gcorr

/-- The mean of a quantity over some slices. -/
def meanOver (l : List (Fin 3)) (f : Fin 3 → Frac) : Frac :=
  let t := l.foldl (fun a i => Q.add a (f i)) ⟨0, 1⟩
  Q.mk t.num (t.den * Nat.max l.length 1)

/-- The combiner's average for one MOD clock: the new weighting crossfaded from the old one (R59, R78). -/
def Chan.average (c : Chan) (p : Tri) : Frac :=
  let v := fun i => (c.slice i).corrected (p.get i)
  let new := meanOver (c.inRole .serving) v
  match c.xfade with
  | none => new
  | some x =>
    let w := xfadeRom x.k
    Q.add (Q.mul ⟨w, 65536⟩ new) (Q.mul ⟨(65536 - w : Nat), 65536⟩ (meanOver x.old v))

/-- The requantised packet that enters the CIC, and the error terms (R59). -/
def Chan.combine (c : Chan) (p : Tri) : Int × Chan :=
  let t := Q.sub (Q.add (c.average p) (Q.mul ⟨2, 1⟩ c.e1)) c.e2
  let q := Q.round t
  (q, { c with e2 := c.e1, e1 := Q.sub t (Q.ofInt q) })

/-! ## Over-range (R82, R83) -/

/-- Whether the last 16 packets of a slice exceed ±3.6 in the mean (R82). -/
def Slice.isOver (s : Slice) : Bool :=
  decide (s.window.length = 16) &&
  (let t := s.window.foldl (· + ·) 0; decide (10 * t > 576) || decide (10 * t < -576))

/-- One packet into a slice's over-range window, in service its sums, and at rest the offset window of the MOD clocks 320 to
33 087 after m0 (R63 step 8, R68, R70, R82). The rectified sum takes the magnitude of each corrected packet (log entry 11). -/
def Slice.packet (s : Slice) (p : Int) : Slice :=
  { s with window := (p :: s.window).take 16
           pktSum := if s.role == .serving || s.role == .standby then s.pktSum + p else s.pktSum
           rectSum := if s.role == .serving then s.rectSum + ((p * 2 ^ 20 - s.ofs).natAbs : Int) else s.rectSum
           rest := s.rest.map fun e => (e.1 + 1, if 320 ≤ e.1 && e.1 < 33088 then e.2 + p else e.2) }

/-- The slices that take part in the combiner. -/
def Chan.active (c : Chan) : List (Fin 3) :=
  c.inRole .serving ++ (match c.xfade with | none => [] | some x => if x.k < 64 then x.old else [])

/-- The packets of one MOD clock into the slices, and the age of the last over-range (R82, R83). -/
def Chan.packets (c : Chan) (p : Tri) : Chan :=
  let c := slicesAll.foldl (fun c i => c.setSlice i ((c.slice i).packet (p.get i))) c
  { c with
    ovrAge := if c.active.any fun i => (c.slice i).isOver then some 0 else c.ovrAge.map (· + 1)
    clks := c.clks + 1
    xfade := c.xfade.map fun x => { x with k := x.k + 1 } }

/-! ## Registers that show the slices -/

/-- The code of a role (CNV_CHk_SLICE). -/
def Role.code : Role → Nat
  | .resting => 0 | .serving => 1 | .standby => 2 | .retired => 3

/-- CNV_CHk_SLICE as it reads. -/
def Chan.sliceWord (c : Chan) : Word :=
  let b := fun (f : Slice → Bool) => (f c.s0).toNat + 2 * (f c.s1).toNat + 4 * (f c.s2).toNat
  wd (c.s0.role.code + 4 * c.s1.role.code + 16 * c.s2.role.code + 64 * b (fun s => s.role == .retired)
    + 512 * b (fun s => s.ofsValid) + 4096 * c.xfade.isSome.toNat + 0x4000 * c.mode + 0x10000 * c.rotCnt)

/-- Bit 3k + i of the retirement record (R80). -/
def Dev.retired (d : Dev) (k : Nat) (i : Fin 3) : Bool :=
  if k < 10 then d.rb A.cnvRetireLo (3 * k + i.val) else d.rb A.cnvRetireHi (3 * (k - 10) + i.val)

def Dev.setRetired (d : Dev) (k : Nat) (i : Fin 3) (b : Bool) : Dev :=
  if k < 10 then d.putBit A.cnvRetireLo (3 * k + i.val) b else d.putBit A.cnvRetireHi (3 * (k - 10) + i.val) b

/-! ## Retirement, restore and offset measurement (R78, R79, R81) -/

/-- Of some slices, the one that entered most recently; at one boundary the lower number has served longer (R62). -/
def Chan.latest (c : Chan) (l : List (Fin 3)) : Option (Fin 3) :=
  l.foldl (fun a i => match a with
    | none => some i
    | some j => if (c.slice j).entered ≤ (c.slice i).entered then some i else a) none

/-- A slice that enters service from reset at boundary n (R65). -/
def Slice.enter (s : Slice) (n : Nat) : Slice := { s with role := .serving, entered := n, pktSum := 0, u1Start := 0 }

/-- A slice on standby, reset at the boundary (R78). -/
def Slice.stand (s : Slice) : Slice := { s with role := .standby, pktSum := 0, u1Start := 0 }

def Chan.modSlice (c : Chan) (i : Fin 3) (f : Slice → Slice) : Chan := c.setSlice i (f (c.slice i))

/-- The relative gains of the slices that are not retired, taken relative to their mean: they sum to zero, the lowest slice
taking what the rounding of the mean leaves (R68, log entry 11). -/
def Chan.recentre (c : Chan) : Chan :=
  let l := c.live
  let t := l.foldl (fun (a : Int) i => a + (c.slice i).grat) 0
  let m := Q.round (Q.mk t (Nat.max 1 l.length))
  let c := l.foldl (fun c i => c.modSlice i fun s => { s with grat := satI 24 (s.grat - m) }) c
  match l with
  | i :: _ => c.modSlice i fun s => { s with grat := satI 24 (s.grat - (t - m * l.length)) }
  | [] => c

/-- Retire a slice at boundary n; refused for the last slice and for one already retired (R78). -/
def Chan.retire (c : Chan) (i : Fin 3) (n : Nat) : Option Chan :=
  let others := c.live.filter (· != i)
  if (c.slice i).role == .retired || others.isEmpty then none
  else
    let c := (c.modSlice i fun s => { s with role := .retired, ofsFails := 0, gainFails := 0, due := false }).recentre
    match others with
    | [j] => some { (if (c.slice j).role == .serving then c else c.modSlice j (·.enter n)) with measPhase := 0 }
    | _ =>
      let keep := c.latest (others.filter fun j => (c.slice j).role == .serving)
      some (others.foldl (fun c j => if some j = keep then c else c.modSlice j Slice.stand) c)

/-- Restore a retired slice to the resting role at boundary n (R81): with three live slices again, the standby slice
enters service. -/
def Chan.restore (c : Chan) (i : Fin 3) (n : Nat) : Option Chan :=
  if (c.slice i).role != .retired then none
  else
    let c := (c.modSlice i fun s => { s with role := .resting, ofsValid := false }).recentre
    some (if c.mode = 0 then
      slicesAll.foldl (fun c j => if j != i && (c.slice j).role != .serving then c.modSlice j (·.enter n) else c)
        { c with measPhase := 0 }
    else c)

/-- The exchange of a MEASOFS at boundary n: the standby slice enters, the serving slice rests (R79). -/
def Chan.exchange (c : Chan) (n : Nat) : Option Chan :=
  if c.mode = 1 then
    match c.inRole .standby, c.inRole .serving with
    | [j], [i] => some { (c.modSlice i fun s => { s with role := .resting }).modSlice j (·.enter n) with measPhase := 1 }
    | _, _ => none
  else none

/-- In two-slice mode, a slice that has rested one cycle becomes standby (R79); whether a MEASOFS ended. The spec does not say
when a slice restored from one-slice mode leaves the resting role (R81): the same boundary, whether or not its offset was measured,
is the model's choice (log entry 13). -/
def Chan.endRest (c : Chan) : Bool × Chan :=
  if c.mode = 1 then
    match c.inRole .resting with
    | i :: _ => (c.measPhase == 1, { c.modSlice i Slice.stand with measPhase := 0 })
    | [] => (false, c)
  else (false, c)

/-- A rotation at boundary n: the resting slice enters, the one that has served longer rests (R62). -/
def Chan.rotate (c : Chan) (n : Nat) : Chan :=
  let serving := c.inRole .serving
  match c.inRole .resting with
  | [e] =>
    let keep := c.latest serving
    let c := serving.foldl (fun c j => if some j = keep then c else c.modSlice j fun s => { s with role := .resting }) c
    { c.modSlice e (·.enter n) with rotCnt := (c.rotCnt + 1) % 65535 }
  | _ => c

/-! ## Cycle integrals and gains at m0 (R68, R70, R71) -/

/-- The corrected cycle integral of a slice, in units of 2^-20 packet (R70). -/
def Slice.integral (s : Slice) (u1 : Int) (len : Nat) : Frac :=
  Q.mul (Q.mk (16 * (65536 * s.pktSum + (u1 - s.u1Start)) - s.ofs * len) (2 ^ 20)) s.gcorr

/-- The step of the relative-gain estimates of two serving slices from their rectified sums (R68; log entry 11). -/
def gratStep (a b ga gb : Int) : Int :=
  if a + b ≤ 0 then 0
  else Q.round (Q.mul ⟨1, 128⟩ (Q.sub ⟨2 * (a - b) * 2 ^ 24, (a + b).toNat⟩ (Q.ofInt (ga - gb))))

/-- Update the relative gains when the rectified mean exceeds 5 % of full scale, 0.15 packet (R68). -/
def Chan.updateGrat (c : Chan) : Chan :=
  match c.inRole .serving with
  | [i, j] =>
    let a := (c.slice i).rectSum
    let b := (c.slice j).rectSum
    if 100 * (a + b) > 30 * 2 ^ 20 * (c.clks : Int) then
      let st := gratStep a b (c.slice i).grat (c.slice j).grat
      (c.modSlice i fun s => { s with grat := satI 24 (s.grat + st) }).modSlice j fun s =>
        { s with grat := satI 24 (s.grat - st) }
    else c
  | _ => c

/-- Start the next cycle of the slices that serve on or stand by (R70). -/
def Chan.restartSums (c : Chan) (u1 : Tri) : Chan :=
  slicesAll.foldl (fun c i => c.modSlice i fun s => { s with pktSum := 0, rectSum := 0, u1Start := u1.get i }) { c with clks := 0 }

/-- The slices that rest from m0 on start their offset window (R63, R67). -/
def Chan.startRests (c : Chan) : Chan :=
  slicesAll.foldl (fun c i => c.modSlice i fun s => { s with rest := if s.role == .resting then some (0, 0) else none }) c

/-- Whether a gain health check fails (R75). -/
def Slice.gainBad (s : Slice) (lim : Nat) : Bool := decide (s.grat.natAbs * 1000000 > lim * 2 ^ 24)

/-- Whether an offset health check fails (R74): the limit is in 2^-16 packet. -/
def Slice.ofsBad (s : Slice) (lim : Nat) : Bool := decide (s.ofs.natAbs > 16 * lim)

/-- The slices of a channel that fail the gain check a third time in a row, and the counts (R75, R76). A boundary at which R68
updates no estimate counts as an evaluation of the estimate as it stands, which the spec leaves open (log entry 11). -/
def Chan.gainHealth (c : Chan) (lim : Nat) : List (Fin 3) × Chan :=
  c.live.foldl (fun (due, c) i =>
    let s := c.slice i
    let n := if s.gainBad lim then s.gainFails + 1 else 0
    (if n = 3 then due ++ [i] else due, c.modSlice i fun s => { s with gainFails := n })) ([], c)

/-- A slice is due for retirement, until it is retired or its retirement is refused: RETIRE_DUE (R76). -/
def Dev.markDue (d : Dev) (k : Fin 18) (i : Fin 3) : Dev :=
  (d.raiseSq (A.cnvCHkStat k.val) 0x8).modChan k.val fun c => c.modSlice i fun s => { s with due := true }

/-- The automatic retirements at a boundary: with AUTORETIRE in force, every slice due before it (R76). -/
def Dev.autoRetires (d : Dev) (k : Fin 18) : List Bind :=
  if d.ab A.cnvCtrl 7 then ((d.chan k.val).live.filter fun i => ((d.chan k.val).slice i).due).map fun i => .autoRetire k i else []

/-! ## The channel at a boundary -/

/-- Latch the cycle just ended of one channel (R70-R73, R77). `locked`: CYC was locked throughout. A boundary with no MOD
clock since the last one ends no cycle of the converter, and the first one after the bank's power-up covers the clocks since then
(log entry 12); a mean beyond the 24 bits of DC wraps, since no rule names a limit (log entry 12). -/
def Dev.latchCycle (d : Dev) (k : Nat) (u1 : Tri) (locked : Bool) : Dev :=
  let c := d.chan k
  let len := c.clks
  if len = 0 then d
  else
    let f := fun i => (c.slice i).integral (u1.get i) len
    let ci := meanOver (c.inRole .serving) f
    let d := d.setReg (A.cnvCHkCycint k) (wd (toField 32 (Q.round (Q.mul ⟨256, 1⟩ ci))))
    let d := d.setReg (A.cnvCHkCyclen k) (wd ((locked && c.whole).toNat * 2 ^ 31 + len % 2 ^ 17))
    let d := d.setReg (A.cnvCHkDc k) (wd (toField 24 (Q.round (Q.mul ci ⟨6990506, 3 * len⟩))))
    let d := d.raiseSq (A.cnvCHkStat k) 0x4
    match c.inRole .serving, c.inRole .standby with
    | [i], [j] =>
      d.raiseIf (Q.lt ⟨4 * d.af A.cnvHlim 15 0 * len, 65536⟩ (Q.abs (Q.sub (f i) (f j)))) (A.cnvCHkStat k) 0x8
    | _, _ => d

/-- The bound actions on a channel, in the order of R98: a MEASOFS last. -/
def chanActs (k : Fin 18) (acts : List Bind) : List Bind :=
  (acts.filter fun b => match b with | .retire ch _ => ch == k | .restore ch _ => ch == k | _ => false) ++
  (acts.filter fun b => match b with | .measofs ch => ch == k | _ => false)

/-- A refused or discarded action: CMDERR (R78). -/
def Dev.cmdErr (d : Dev) (k : Nat) : Dev := d.raiseSq (A.cnvCHkStat k) 0x40

/-- One bound action on a channel with its bank on at boundary n. -/
def Dev.chanAct (d : Dev) (k : Fin 18) (n : Nat) (acts : List Bind) (b : Bind) : Dev :=
  let c := d.chan k.val
  let retire := fun (i : Fin 3) => match c.retire i n with
    | some c => ((d.setChan k.val c).setRetired k.val i true).raiseSq (A.cnvCHkStat k.val) 0x10
    | none => (d.cmdErr k.val).modChan k.val fun c => c.modSlice i fun s => { s with due := false }
  match b with
  | .autoRetire _ i => retire i
  | .retire _ i => retire i
  | .restore _ i =>
    if acts.contains (.autoRetire k i) then d.cmdErr k.val
    else match c.restore i n with
      | some c => (d.setChan k.val c).setRetired k.val i false
      | none => d.cmdErr k.val
  | .measofs _ => match c.exchange n with
    | some c => d.setChan k.val c
    | none => d.cmdErr k.val
  | _ => d

/-- One bound action on a channel whose bank is off: the record alone changes, never for the last slice (log entry 13). -/
def Dev.recordAct (d : Dev) (k : Nat) (b : Bind) : Dev :=
  let retire := fun (i : Fin 3) =>
    if slicesAll.all fun j => j == i || d.retired k j then d else d.setRetired k i true
  match b with
  | .autoRetire _ i => retire i
  | .retire _ i => retire i
  | .restore _ i => d.setRetired k i false
  | _ => d

/-- A channel at boundary n, m0 (R61-R81). -/
def Dev.chanBoundary (d : Dev) (k : Fin 18) (b : Boundary) (n : Nat) (locked : Bool) (acts : List Bind) : Dev :=
  if d.chanOn k.val then
    let mine := d.autoRetires k ++ chanActs k acts
    let u1 := b.u1.getD k.val ⟨0, 0, 0⟩
    let before := d.chan k.val
    let d := d.latchCycle k.val u1 locked
    let c := (d.chan k.val).updateGrat
    let (due, c) := c.gainHealth (d.af A.cnvHlim 31 16)
    let (ofsDone, c) := (c.restartSums u1).endRest
    let d := due.foldl (fun d i => d.markDue k i) (d.setChan k.val { c with whole := true })
    let d := d.raiseIf ofsDone (A.cnvCHkStat k.val) 0x20
    let d := mine.foldl (fun d a => d.chanAct k n mine a) d
    let c := d.chan k.val
    let c := if before.mode = 0 && c.mode = 0 && d.ab A.cnvCtrl 6 then c.rotate n else c
    let old := before.inRole .serving
    (d.setChan k.val { c with xfade := if c.inRole .serving = old then c.xfade else some { old := old, k := 0 } }).modChan k.val
      Chan.startRests
  else (chanActs k acts).foldl (fun d a => d.recordAct k.val a) d

/-- The end of a crossfade, 64 MOD clocks after m0: the leaving slice is out of the combiner and XFADE clears (R63 step 5). -/
def Dev.crossfadeEnd (d : Dev) : Dev :=
  { d with chans := d.chans.mapIdx fun _ c => { c with xfade := c.xfade.filter fun x => decide (x.k < 64) } }

/-- A slice of a channel whose offset window is complete, with the sum of its 32 768 packets (R63 step 8). -/
def Chan.rested (c : Chan) : Option (Fin 3 × Int) :=
  (c.inRole .resting).findSome? fun i => match (c.slice i).rest with
    | some (k, t) => if 33088 ≤ k then some (i, t) else none
    | none => none

/-- The offset window of a channel's resting slice has ended: its offset and its offset health, once in a rest (R63 step 9, R74). -/
def Dev.offsetMeasured (d : Dev) (k : Fin 18) : Dev :=
  let c := d.chan k.val
  match c.rested with
  | some (i, sum) =>
    if d.chanOn k.val then
      let s := { c.slice i with ofs := satI 24 (sum * 32), ofsValid := true, rest := none }
      let n : Nat := if s.ofsBad (d.af A.cnvHlim 15 0) then s.ofsFails + 1 else 0
      let d := d.setChan k.val (c.setSlice i { s with ofsFails := n })
      if n = 3 then d.markDue k i else d
    else d
  | none => d

/-! ## Commands of the CNV block -/

/-- CNV_RETCMD with GO for a present channel (R76, R80, R81): SLICE code 3 is ignored with CMDERR; with the bank off only
the record changes. -/
def Dev.retcmd (d : Dev) (restore : Bool) (k : Fin 18) (sl : Nat) : Dev :=
  match sl with
  | 3 => if d.chanOn k.val then d.cmdErr k.val else d
  | sl =>
    let i : Fin 3 := Fin.ofNat 3 sl
    let b : Bind := if restore then .restore k i else .retire k i
    if d.chanOn k.val then d.bind b else d.recordAct k.val b

/-- CNV_CHk_CMD.MEASOFS (R79). -/
def Dev.measofs (d : Dev) (k : Fin 18) : Dev :=
  if (d.chan k.val).mode = 1 then d.bind (.measofs k) else d.cmdErr k.val

/-- CNV_REFCMD.COMPARE (R92); one already running runs on. -/
def Dev.compare (d : Dev) : Dev := d.putBit A.cnvRefstat 4 true

/-- A comparison completes with its difference in units of 0.1 ppm (R92). -/
def Dev.compareDone (d : Dev) (diff : Int) : Dev :=
  if d.rb A.cnvRefstat 4 then
    ((d.putBit A.cnvRefstat 4 false).setReg A.cnvRefdiff (wd (2 ^ 31 + toField 24 (satI 24 diff)))).raiseSq A.cnvRefstat 0x1
  else d

/-- CNV_REFCMD.SWAP: bound, or refused with REJECT (R93). Whether two that bind to the same boundary are one exchange or two is
not stated; that they are one is the model's choice (log entry 13). -/
def Dev.bgSwapCmd (d : Dev) : Dev :=
  if !d.rb A.cnvRefdiff 31 || d.rb A.cnvRefstat 4 then d.raiseSq A.cnvRefstat 0x2
  else if d.bound.contains (d.nextBoundary, .bgSwap) then d else d.bind .bgSwap

/-- The bandgaps exchange at a boundary and every gain absorbs the last difference (R93). -/
def Dev.bgSwap (d : Dev) : Dev :=
  let d := d.putBit A.cnvRefstat 8 (!d.rb A.cnvRefstat 8)
  let f : Frac := ⟨10000000 + sextN 24 (d.rf A.cnvRefdiff 23 0), 10000000⟩
  ({ d with rcf := Q.mul d.rcf f } : Dev).raiseSq A.cnvRefstat 0x4

/-- VALID clears 60 s after the latest COMPARE (R93). -/
def Dev.refdiffExpire (d : Dev) : Dev := d.putBit A.cnvRefdiff 31 false

/-! ## Clamp monitors (R88, R89) -/

/-- The bank (0 A, 1 B, 2 C) of a channel. -/
def bankOf (k : Nat) : Nat := bankDom k - 2

/-- The channel whose tap feeds a relief channel's connected input (R134, R135). -/
def Dev.tapped (d : Dev) (k : Nat) : Option Nat :=
  if 16 ≤ k && d.rf (A.cnvCHkCfg k) 11 10 == 1 then some (d.rf (A.cnvRLxJob (k - 16)) 20 16) else none

/-- Whether a clamp current flows that DISTURBs a channel now (R88, R89). -/
def Dev.clamped (d : Dev) (k : Nat) : Bool :=
  d.rb A.cnvClamp (bankOf k) || (match d.tapped k with | some j => d.rb A.cnvClamp (bankOf j) | none => false)

/-- A clamp current starts in a bank that is on. -/
def Dev.clampDetect (d : Dev) (b : Fin 3) : Dev := if d.on (b.val + 2) then d.putBit A.cnvClamp b.val true else d

/-- A clamp current stops: the next 2 output samples of the channels it disturbed still carry DISTURB (R88). -/
def Dev.clampStops (d : Dev) (b : Fin 3) : Dev :=
  if d.rb A.cnvClamp b.val then
    let hit := fun k => bankOf k == b.val || (match d.tapped k with | some j => bankOf j == b.val | none => false)
    ({ d with chans := d.chans.mapIdx fun k c => if hit k then { c with distTail := 2 } else c } : Dev).putBit A.cnvClamp b.val false
  else d

/-! ## Power-up (R69, R80) -/

/-- A slice of a channel as its bank powers up, from the fused factory values. -/
def Fuses.slice (f : Fuses) (k : Nat) (i : Fin 3) : Slice :=
  { emptySlice with ofs := (f.sliceOfs.getD k ⟨0, 0, 0⟩).get i, grat := (f.sliceGrat.getD k ⟨0, 0, 0⟩).get i }

/-- The slices of a channel as its bank powers up, in the mode its retirement record implies (R69, R80). -/
def Dev.powerSlices (d : Dev) (k : Nat) : Chan :=
  let c := { offChan with
    s0 := { d.fuses.slice k 0 with role := .serving }
    s1 := { d.fuses.slice k 1 with role := .serving }
    s2 := d.fuses.slice k 2 }
  slicesAll.foldl (fun c i => if d.retired k i then (c.retire i 0).getD c else c) c

end Sys2Proof.Machine
end

