-- ==== Sys2Proof/Machine/Filter.lean ====
section
/-! DEFINITION. The filter chain: decimation, scaling, rank filter, companion, Rogowski integrator, calibration, clamp,
threshold detectors, synchronising reset and settling (03). -/
namespace Sys2Proof.Machine

/-! ## What a channel runs with -/

/-- The settings of a channel's chain. -/
structure ChCfg where
  preset : Nat
  rank : Nat
  resp : Nat
  gain : Nat
  kind : Nat
deriving DecidableEq, Repr

/-- The state code of a relief unit (CNV_RLx_STAT.STATE, R139). -/
def Dev.rlState (d : Dev) (u : Nat) : Nat := d.rf (A.cnvRLxStat u) 23 20

/-- Whether a relief unit carries or shadows a job (CNV_RLx_JOB.VALID). -/
def Dev.rlJob (d : Dev) (u : Nat) : Bool := d.rb (A.cnvRLxJob u) 31

/-- A channel's own active settings. -/
def Dev.ownCfg (d : Dev) (k : Nat) : ChCfg :=
  let f := d.active (A.fltCHkCfg k)
  let c := d.active (A.cnvCHkCfg k)
  { preset := fld f 1 0, rank := fld f 9 8, resp := fld f 15 12, gain := fld c 2 0, kind := if k < 4 then 0 else if k < 16 then 1 else fld c 9 9 }

/-- The settings a channel runs with: a relief channel with a job runs with the job's (R137). -/
def Dev.chCfg (d : Dev) (k : Nat) : ChCfg :=
  if 16 ≤ k && d.rlJob (k - 16) then
    let j := d.reg (A.cnvRLxJob (k - 16))
    { preset := fld j 5 4, rank := fld j 9 8, resp := fld j 15 12, gain := fld j 2 0, kind := fld j 3 3 }
  else d.ownCfg k

/-- The offset and gain (units of 2^-22) of stage 5 (R118, R139). -/
def Dev.coefs (d : Dev) (k : Nat) : Int × Nat :=
  let own := (sextN 24 (d.af (A.fltCHkCalo k) 23 0), d.af (A.fltCHkCalg k) 23 0)
  if 16 ≤ k then
    let u := k - 16
    let st := d.rlState u
    if st = 0 || !d.rlJob u then own
    else if 3 ≤ st && st ≤ 7 then (sextN 24 (d.rf (A.cnvRLxMofs u) 23 0), d.rf (A.cnvRLxMgain u) 23 0)
    else (0, 2 ^ 22)
  else own

/-- The length of a settling interval in output samples (R53). -/
def ChCfg.settle (c : ChCfg) : Nat := presetN c.preset + rankL c.rank

/-- Whether a response has a companion (R112). -/
def hasComp (resp : Nat) : Bool := (4 ≤ resp && resp ≤ 6) || (10 ≤ resp && resp ≤ 12)

/-- Whether a response integrates (R115). -/
def hasInt (resp : Nat) : Bool := 7 ≤ resp && resp ≤ 12

/-- The response whose in-phase kernel a response uses (R110). -/
def kernelOf : Nat → Nat
  | 4 | 7 | 10 => 1
  | 5 | 8 | 11 => 2
  | 6 | 9 | 12 => 3
  | r => r

/-- The compensation factor of a channel at a temperature: exactly 1 at the reference temperature on both grades; a fixed slope
from there on grade B; on grade A the fused factor at a trimmed temperature, and between those what the part makes of its table
(R94, R95, log entry 8). -/
def Fuses.tcf (f : Fuses) (k : Nat) (t : Int) : Frac :=
  if t = f.tcfRef then ⟨1, 1⟩
  else if f.gradeB then Q.add ⟨1, 1⟩ (Q.mul (Q.ofInt (t - f.tcfRef)) Config.tcfSlope)
  else match f.tcfTable.find? fun e => e.1 == t with
    | some e => e.2.getD k ⟨1, 1⟩
    | none => Config.tcf f.tcfTable k t

/-- The gain temperature compensation of a channel: exactly 1 before any reading (R94, R95). -/
def Dev.tcf (d : Dev) (k : Nat) : Frac := match d.tcfTemp with | none => ⟨1, 1⟩ | some t => d.fuses.tcf k t

/-- The companion correction of a preset in force, in units of 2^-22: exactly 1 at a nominal frequency (R113). -/
def Dev.qcorrOf (d : Dev) (preset : Nat) : Nat :=
  match d.qfreq with
  | none => 0x400000
  | some f => if f = 400 || f = 480 then 0x400000 else 0x3FD000 + Config.qcorr preset f % 0x6001

/-! ## Flags -/

def Flags.or (a b : Flags) : Flags := ⟨a.off || b.off, a.settling || b.settling, a.disturb || b.disturb, a.ovr || b.ovr⟩
def Flags.none : Flags := ⟨false, false, false, false⟩
/-- Flags as they stand in a frame or a sample register: OFF, SETTLING, DISTURB, OVR from the top (R183). -/
def Flags.code (f : Flags) : Nat := 8 * f.off.toNat + 4 * f.settling.toNat + 2 * f.disturb.toNat + f.ovr.toNat
/-- A sample that sums ignore (R26). -/
def Flags.skip (f : Flags) : Bool := f.off || f.settling

/-- The saturation of stages 2 to 5 (R100). -/
def sat32 (v : Int) : Int := clampI (-0x7FFFFFFF) 0x7FFFFFFF v

/-! ## The decimator (R101-R105) -/

/-- The integrators take one packet, modulo 2^W. -/
def integrate (w : Nat) : List Nat → Int → List Nat
  | [], _ => []
  | i :: r, x => let v := toField w ((i : Int) + x); v :: integrate w r v

/-- The combs take one value; the output and the new registers. -/
def combStep (w : Nat) : List Nat → Nat → Nat × List Nat
  | [], x => (x, [])
  | c :: r, x => let (o, l) := combStep w r (toField w ((x : Int) - c)); (o, x :: l)

/-- A register list of the CIC order; a cleared one is all zero. -/
def padN (n : Nat) (l : List Nat) : List Nat := if l.length = n then l else List.replicate n 0

/-- The kernel sum of a response over its span (R105, R110). -/
def kernelSum (preset resp : Nat) (span : List Int) (comb : Int) : Frac :=
  match kernelOf resp with
  | 0 => Q.ofInt comb
  | 14 => Q.mk ((presetD preset : Int) ^ (presetN preset - 1) * span.foldl (· + ·) 0) (presetN preset)
  | 15 => ⟨0, 1⟩
  | r => Q.ofInt (comb + Config.respKernel r preset span)

/-- The CIC and the rank and companion windows cleared (R126, R129). -/
def Chan.clearChain (c : Chan) : Chan :=
  { c with integ := [], combs := [], span := [], comb := 0, latched := [], rankWin := [], compWin := [] }

/-- A decimation instant: the combs run and their output is latched with the span and the over-range flag (R83, R103). -/
def Chan.decimate (c : Chan) (preset : Nat) : Chan :=
  let n := presetN preset
  let w := presetW preset
  let (o, combs) := combStep w (padN n c.combs) ((padN n c.integ).getLastD 0)
  { c with
    combs := combs
    comb := sextN w o
    latched := c.span
    sigmaOvr := match c.ovrAge with | none => false | some a => decide (a < n * presetD preset) }

/-- One MOD clock of a channel; `m` is the counter after it (R59, R101). After a preset change the chain clears at the decimation
instant of the boundary frame (R129). -/
def Chan.clock (c : Chan) (p : Tri) (m preset : Nat) : Chan :=
  let n := presetN preset
  let (q, c) := c.combine p
  let c := c.packets p
  let c := { c with
    integ := integrate (presetW preset) (padN n c.integ) q
    span := (q :: c.span).take (n * presetD preset) }
  if m % presetD preset = 0 then
    let c := c.decimate preset
    if c.clearAt then { c.clearChain with clearAt := false } else c
  else c

/-- The MOD clocks of an event, on every channel whose bank is on (R103); none runs while MOD is stopped (R484). -/
def Dev.feed (d : Dev) (clks : List ModClock) : Dev :=
  if d.modOn then
    let cfg := (List.range 18).map fun k => (d.chanOn k, (d.chCfg k).preset)
    let (m, cs) := clks.foldl (fun (m, cs) ck =>
      let m := m + 1
      (m, cs.mapIdx fun k c => match cfg.getD k (false, 0) with
        | (true, p) => c.clock (ck.getD k ⟨0, 0, 0⟩) m p
        | _ => c)) (d.modCnt, d.chans)
    { d with modCnt := m, chans := cs }
  else d

/-! ## Stages 2 to 6 (R106-R119) -/

/-- Stage 2 (R106). -/
def scale (preset : Nat) (sigma : Frac) : Int :=
  let e : Int := 23 - (presetN preset * (presetD preset).log2 : Nat) - 24
  let f : Frac := if 0 ≤ e then ⟨0x471C71 * 2 ^ e.toNat, 1⟩ else ⟨0x471C71, 2 ^ (-e).toNat⟩
  sat32 (Q.round (Q.mul sigma f))

/-- A window of n values, newest first; the missing ones of a cleared window are 0 with no flag. -/
def window (n : Nat) (l : List (Int × Flags)) : List (Int × Flags) :=
  (l ++ List.replicate (n - l.length) (0, Flags.none)).take n

/-- Insertion into a sorted list. -/
def insertSorted (x : Int) : List Int → List Int
  | [] => [x]
  | y :: r => if x ≤ y then x :: y :: r else y :: insertSorted x r

/-- The median of an odd number of values. -/
def median (l : List Int) : Int := (l.foldr insertSorted []).getD (l.length / 2) 0

def orFlags (l : List (Int × Flags)) : Flags := l.foldl (fun f e => f.or e.2) Flags.none

/-- The companion sum over a window of 2M + 1 values, newest first, by the antisymmetry of the taps (R112). -/
def hilbert (preset : Nat) (l : List (Int × Flags)) : Int :=
  let m := presetM preset
  (List.range m).foldl (fun a j =>
    a + Config.hilbertTap preset j * ((l.getD j (0, Flags.none)).1 - (l.getD (2 * m - j) (0, Flags.none)).1)) 0

/-- Stage 5 of a value (R118). -/
def stage5 (x : Int) (calg : Nat) (tcf rcf : Frac) : Int :=
  sat32 (Q.round (Q.mul (Q.mul (Q.mk (x * calg) (2 ^ 22)) tcf) rcf))

/-- Stage 6 (R86). -/
def clamp24 (v : Int) : Int := satI 24 v

/-- The parameters of a sample that come from outside the channel's own state. -/
structure SampleEnv where
  cfg : ChCfg
  calo : Int
  calg : Nat
  tcf : Frac
  rcf : Frac
  qcorr : Nat
  intGain : Int
  disturb : Bool
  dev : Int

/-- Stages 2 and 3: the value and its flags (R106, R107, R83, R88), with SETTLING while it is due (R53, R127). -/
def Chan.stage3 (c : Chan) (e : SampleEnv) : Int × Flags × List (Int × Flags) :=
  let v := scale e.cfg.preset (kernelSum e.cfg.preset e.cfg.resp c.latched c.comb)
  let f : Flags := ⟨false, false, e.disturb, c.sigmaOvr⟩
  let settling := decide (0 < c.zeroLeft) || decide (0 < c.flagLeft)
  let l := rankL e.cfg.rank
  if l = 0 then (v, { f with settling := settling }, [])
  else
    let w := window l ((v, f) :: c.rankWin)
    let g := orFlags w
    (median (w.map Prod.fst), { g with settling := g.settling || settling }, w.take (l - 1))

/-- Stage 4: the Rogowski integrator, which skips flagged samples (R115, R116; deviation: log entry 9). Whether the saturation of
R100 holds for the state s too is not stated: s is left unbounded, and the output saturates (log entry 9). -/
def Chan.stage4 (c : Chan) (e : SampleEnv) (x : Int) (f : Flags) : Int × Chan :=
  if hasInt e.cfg.resp then
    let c := if f.skip then c else
      let k := 16 + e.cfg.preset
      { c with intS := Q.round (Q.add (Q.mk (c.intS * (2 ^ k - 1)) (2 ^ k)) (Q.mk (x + c.intPrev) 2)) + e.dev, intPrev := x }
    (sat32 (Q.round (Q.mk (e.intGain * c.intS) (2 ^ 30))), c)
  else (x, c)

/-- One output sample of a channel (R100). -/
def Chan.sample (c : Chan) (e : SampleEnv) : Chan :=
  let (x3, f, rw) := c.stage3 e
  let (x4, c) := c.stage4 e x3 f
  let y := if 0 < c.zeroLeft then 0 else stage5 (x4 - e.calo) e.calg e.tcf e.rcf
  let m := presetM e.cfg.preset
  let cw := window (2 * m + 1) ((x4, f) :: c.compWin)
  let g := orFlags cw
  let comp := hasComp e.cfg.resp
  let xq := if comp && !g.skip then sat32 (Q.round (Q.mk (hilbert e.cfg.preset cw * e.qcorr) (2 ^ 44))) else 0
  let yq := stage5 xq e.calg e.tcf e.rcf
  { c with
    rankWin := rw
    compWin := if comp then cw.take (2 * m) else []
    x4 := x4
    xq4 := xq
    y := clamp24 y
    yq := clamp24 yq
    flags := { f with ovr := f.ovr || clamp24 y != y }
    qflags := if comp then { g with ovr := g.ovr || clamp24 yq != yq } else Flags.none
    zeroLeft := c.zeroLeft - 1
    flagLeft := c.flagLeft - 1
    distTail := c.distTail - 1 }

/-- What a channel's sample takes from the device. -/
def Dev.sampleEnv (d : Dev) (k : Nat) (dev : Int) : SampleEnv :=
  let cfg := d.chCfg k
  let (calo, calg) := d.coefs k
  { cfg := cfg, calo := calo, calg := calg, tcf := d.tcf k, rcf := d.rcf, qcorr := d.qcorrOf cfg.preset
    intGain := Config.integGain cfg.preset (if d.ab A.clkCyccfg 4 then 60 else 50)
    disturb := d.clamped k || decide (0 < (d.chan k).distTail), dev := dev }

/-! ## Threshold detectors (R121-R124) -/

/-- A transition of a detector: channel, detector, whether it rose, and the code of the deciding sample. -/
structure ThEvent where
  ch : Nat
  det : Nat
  rise : Bool
  code : Int
deriving DecidableEq, Repr

/-- Whether the active or the release condition holds (R121). -/
def thCond (mode : Nat) (level hyst y : Int) (isActive : Bool) : Bool :=
  match mode, isActive with
  | 0, false => decide (y.natAbs ≥ level)
  | 0, true => decide (y.natAbs < level - hyst)
  | 1, false => decide (y ≥ level)
  | 1, true => decide (y < level - hyst)
  | 2, false => decide (y ≤ -level)
  | 2, true => decide (y > -level + hyst)
  | _, false => decide (y.natAbs < level)
  | _, true => decide (y.natAbs ≥ level + hyst)

def thReg (k i : Nat) : Nat := if i = 0 then A.fltCHkTh0 k else A.fltCHkTh1 k
def thPReg (k i : Nat) : Nat := if i = 0 then A.fltCHkTh0p k else A.fltCHkTh1p k

/-- One detector of a channel takes the latest sample (R122-R124). -/
def Dev.detector (d : Dev) (k i : Nat) : Dev × List ThEvent :=
  let c := d.chan k
  let setRun := fun (d : Dev) n => d.modChan k fun c => if i = 0 then { c with run0 := n } else { c with run1 := n }
  if !d.ab (A.fltCHkCfg k) (4 + i) then (setRun (d.putBit (A.fltCHkStat k) (8 + i) false) 0, [])
  else if c.flags.skip then (d, [])
  else
    let isActive := d.rb (A.fltCHkStat k) (8 + i)
    let run := if i = 0 then c.run0 else c.run1
    if thCond (d.af (thReg k i) 31 30) (d.af (thReg k i) 23 0) (d.af (thPReg k i) 31 16 * 128 : Nat) c.y isActive then
      if Nat.max 1 (d.af (thPReg k i) 15 0) ≤ run + 1 then
        let d := (setRun d 0).putBit (A.fltCHkStat k) (8 + i) (!isActive)
        let d := if isActive then d.raiseSq (A.fltCHkStat k) (2 ^ (2 * i + 2))
          else (d.raiseSq (A.fltCHkStat k) (2 ^ (2 * i + 1))).count (A.fltCHkThcnt k) (16 * i + 15) (16 * i) 1
        (d, [⟨k, i, !isActive, c.y⟩])
      else (setRun d (run + 1), [])
    else (setRun d 0, [])

/-! ## The sample of every channel at an output instant -/

/-- The registers that show a channel's latest sample, its counts and sticky bits (R84, R88, R119). `clampedNow`: the
in-phase value was clamped. -/
def Dev.showSample (d : Dev) (k : Nat) (clampedNow : Bool) : Dev :=
  let c := d.chan k
  let d := d.setReg (A.fltCHkSample k) (wd (c.flags.code * 2 ^ 28 + toField 24 c.y))
  let d := d.setReg (A.fltCHkQsample k) (wd (c.qflags.code * 2 ^ 28 + toField 24 c.yq))
  let d := d.putBit (A.fltCHkStat k) 7 c.flags.settling
  let d := d.raiseIf clampedNow (A.fltCHkStat k) 0x1
  let bits := (if c.flags.ovr then 0x1 else 0) + (if c.flags.disturb then 0x2 else 0)
  let d := d.raiseIf (bits != 0) (A.cnvCHkStat k) bits
  let d := if c.flags.ovr then d.count (A.cnvCHkOvrcnt k) 31 0 1 else d
  if c.flags.disturb then d.count (A.cnvCHkDistcnt k) 31 0 1 else d

/-- Whether stage 6 clamps this sample. -/
def Chan.clamps (c : Chan) (e : SampleEnv) : Bool :=
  let (x3, f, _) := c.stage3 e
  let y := stage5 ((c.stage4 e x3 f).1 - e.calo) e.calg e.tcf e.rcf
  decide (c.zeroLeft = 0) && clamp24 y != y

/-- The sample of one channel whose bank is on. -/
def Dev.sampleChan (d : Dev) (k : Nat) : Dev × List ThEvent :=
  let (dv, d) := if hasInt (d.chCfg k).resp then d.freeDev else (0, d)
  let e := d.sampleEnv k dv
  let c := d.chan k
  let d := (d.setChan k (c.sample e)).showSample k (c.clamps e)
  let (d, a) := d.detector k 0
  let (d, b) := d.detector k 1
  (d, a ++ b)

/-- Whether the MOD-clock counter stands at an output instant of a preset: 32 clocks after a decimation instant, none of which
lies at the counter's own start (R103, R104, R126). -/
def instantAt (preset m : Nat) : Bool := decide (presetD preset + 32 ≤ m) && (m - 32) % presetD preset == 0

/-- Whether a channel delivers a sample now: at the output instants of its own preset (R23, R104). -/
def Dev.delivers (d : Dev) (k : Nat) : Bool := d.chanOn k && instantAt (d.chCfg k).preset d.modCnt

/-- The samples of an output instant (R23), with the detectors' transitions in ascending channel index. -/
def Dev.sampleAll (d : Dev) : Dev × List ThEvent :=
  (List.range 18).foldl (fun (d, ev) k =>
    if d.delivers k then let (d, e) := d.sampleChan k; (d, ev ++ e) else (d, ev)) (d, [])

/-! ## Synchronising reset and settling (R125-R129) -/

/-- The CIC and the rank and companion windows cleared, with N + L settling samples of code 0 to come (R126-R128). -/
def Chan.restart (c : Chan) (settle : Nat) : Chan :=
  { c.clearChain with clearAt := false, sigmaOvr := false, zeroLeft := settle, flagLeft := 0 }

/-- A channel restarts its decimator with its present settings. -/
def Dev.restartChan (d : Dev) (k : Nat) : Dev := d.modChan k (·.restart (d.chCfg k).settle)

/-- A preset change of a channel at tick 0, with the counter at m: N + L settling samples from the boundary frame on, and the chain
clears at that frame's decimation instant (R129). That instant may lie in the 32 clocks before tick 0: then the chain starts from the
packets since, and its over-range flag is taken from those up to now (log entry 14). -/
def Chan.moveGrid (c : Chan) (cfg : ChCfg) (m : Nat) : Chan :=
  let d := presetD cfg.preset
  let c := { c with zeroLeft := cfg.settle, flagLeft := 0 }
  if d ≤ m && m % d < 32 then
    let since := (c.span.take (m % d)).reverse
    let ovr := match c.ovrAge with | none => false | some a => decide (a < presetN cfg.preset * d + m % d)
    since.foldl (fun c q =>
      { c with integ := integrate (presetW cfg.preset) (padN (presetN cfg.preset) c.integ) q, span := q :: c.span })
      { c.clearChain with clearAt := false, sigmaOvr := ovr }
  else { c with clearAt := true }

/-- The sync instant s (R126). A sum decimated in the 32 clocks before s has no output instant, since the counter starts again at s
and the output instants of R126 begin at s + D + 32; that its sample is not delivered is the model's reading (log entry 14). -/
def Dev.syncReset (d : Dev) : Dev :=
  let d := (List.range 18).foldl (fun d k =>
    if d.chanOn k then (d.restartChan k).modChan k fun c => { c with whole := false } else d) d
  ({ d with modCnt := 0, syncDue := d.syncDue - 1 } : Dev).raiseSq A.fltStat 0x2

/-- CK3 MOD runs again: a GO that was held reads 0 from then on, and its s follows (R125). -/
def Dev.goReleased (d : Dev) : Dev := { d with cmPend := d.cmPend.filter (· != A.fltSync) }

/-- FLT_SYNC.GO (R125, R549): refused on a member; each GO has its own s (R568); held, reading 1, while MOD is stopped. -/
def Dev.syncGo (d : Dev) : Dev :=
  if !d.isMaster then d.raiseSq A.fltStat 0x4
  else if d.modOn then { d with syncDue := d.syncDue + 1 }
  else if d.cmPend.contains A.fltSync then d
  else { d with syncDue := d.syncDue + 1, cmPend := A.fltSync :: d.cmPend }

/-- A gain change: SETTLING for the next N + L output samples (R53). -/
def Dev.settleGain (d : Dev) (k : Nat) : Dev := d.modChan k fun c => { c with flagLeft := (d.chCfg k).settle }

/-- A change of RESP or RANK at its apply point (R117). -/
def Dev.settleResp (d : Dev) (k : Nat) : Dev :=
  d.modChan k fun c => { c with flagLeft := (d.chCfg k).settle, rankWin := [], compWin := [], intS := 0, intPrev := 0 }

/-- A channel as its bank domain powers up (R69, R128, R628): window registers at reset values, the frame preset and rank
on a grouped channel, the current input stage on RA and RB. -/
def Dev.powerChan (d : Dev) (k : Nat) : Dev :=
  let d := (d.resetRange (A.cnvCHkCfg k) (A.cnvCHkCfg k + 0x80)).resetRange (A.fltCHkCfg k) (A.fltCHkCfg k + 0x80)
  let both := fun (d : Dev) a w => (d.setReg a w).setActive a w
  let d := if k < 16 then
      both d (A.fltCHkCfg k) (setFld (setFld (resetVal (A.fltCHkCfg k)) 1 0 d.framePreset) 9 8 d.frameRank)
    else both (both d (A.cnvCHkCfg k) 0x200) (A.fltCHkCfg k) (setFld (resetVal (A.fltCHkCfg k)) 1 0 1)
  let d := d.setChan k { d.powerSlices k with flags := ⟨false, true, false, false⟩, qflags := ⟨false, true, false, false⟩ }
  d.restartChan k

/-- A channel as its bank domain powers down (R26). -/
def Dev.downChan (d : Dev) (k : Nat) : Dev :=
  ((d.setChan k offChan).resetRange (A.cnvCHkCfg k) (A.cnvCHkCfg k + 0x80)).resetRange (A.fltCHkCfg k) (A.fltCHkCfg k + 0x80)

end Sys2Proof.Machine
end

