-- ==== Sys2Proof/Machine/Operands.lean ====
section
/-! DEFINITION. The instruction words of an engine: formats, fields, opcodes and pace costs (R236-R250). -/
namespace Sys2Proof.Machine

/-- The instructions of an engine (R239-R250). -/
inductive Op where
  | add | sub | neg | abs | min | max | shl | shr | shrr | sat | mov | movFromX | movToX | addi | movi | movhi
  | mul | mac | msu | sqa | aclr | aadd | amov | sqrt | div | cordVector | cordRotate
  | inPort | inq | tld | tst | xld | xadd | res | resa
  | br | brc | loop | call | ret | yield | trap
  | pulse | post | evt | flagClrs | flagGetf | flagPutf | pace | cyc
deriving DecidableEq, Repr

/-! ## Fields (R236) -/

/-- R and I formats. -/
def fRd (w : Word) : Nat := fld w 25 21
def fRs (w : Word) : Nat := fld w 20 16
def fRt (w : Word) : Nat := fld w 15 11
def fK (w : Word) : Nat := fld w 10 5
def fImm16 (w : Word) : Nat := fld w 15 0
/-- A format. -/
def fAi (w : Word) : Nat := fld w 25 23
def fARs (w : Word) : Nat := fld w 22 18
def fARt (w : Word) : Nat := fld w 17 13
def fAK (w : Word) : Nat := fld w 12 7
/-- M format. -/
def fMXi (w : Word) : Nat := fld w 20 18
def fMP (w : Word) : Bool := bit w 17
def fDisp (w : Word) : Nat := fld w 10 0
/-- X format. -/
def fXXi (w : Word) : Nat := fld w 25 23
def fXM (w : Word) : Nat := fld w 19 16
def fImm12 (w : Word) : Nat := fld w 11 0
/-- B format. -/
def fC (w : Word) : Nat := fld w 25 23
def fBRs (w : Word) : Nat := fld w 22 18
def fB (w : Word) : Nat := fld w 17 12
def fTgt (w : Word) : Nat := fld w 11 0
/-- S format. -/
def fR (w : Word) : Nat := fld w 25 21
def fSel (w : Word) : Nat := fld w 20 15
def fArg (w : Word) : Nat := fld w 14 0

/-! ## Opcodes (R237, R238) -/

/-- One encoding: the instruction, its major opcode, the bits that are its used fields, and the fixed bits below the major
opcode. Every other bit is reserved and must be 0 (R237). -/
structure OpRow where
  op : Op
  major : Nat
  used : Nat
  fixed : Nat

/-- The encodings of the arithmetic, multiply and special instructions (R239-R241). -/
def opRowsArith : List OpRow := [
  ⟨.add, 0x01, 0x03FFF800, 0x00⟩,
  ⟨.sub, 0x01, 0x03FFF800, 0x01⟩,
  ⟨.neg, 0x01, 0x03FF0000, 0x02⟩,
  ⟨.abs, 0x01, 0x03FF0000, 0x03⟩,
  ⟨.min, 0x01, 0x03FFF800, 0x04⟩,
  ⟨.max, 0x01, 0x03FFF800, 0x05⟩,
  ⟨.shl, 0x01, 0x03FF07E0, 0x06⟩,
  ⟨.shr, 0x01, 0x03FF07E0, 0x07⟩,
  ⟨.shrr, 0x01, 0x03FF07E0, 0x08⟩,
  ⟨.sat, 0x01, 0x03FF07E0, 0x09⟩,
  ⟨.mov, 0x01, 0x03FF0000, 0x0A⟩,
  ⟨.movFromX, 0x01, 0x03E70000, 0x0B⟩,
  ⟨.movToX, 0x01, 0x00FF0000, 0x0C⟩,
  ⟨.addi, 0x02, 0x03FFFFFF, 0⟩,
  ⟨.movi, 0x03, 0x03E0FFFF, 0⟩,
  ⟨.movhi, 0x04, 0x03E0FFFF, 0x00010000⟩,
  ⟨.movhi, 0x04, 0x03E0FFFF, 0x00020000⟩,
  ⟨.mac, 0x08, 0x03FFE000, 0⟩,
  ⟨.msu, 0x08, 0x03FFE000, 1⟩,
  ⟨.sqa, 0x08, 0x03FC0000, 2⟩,
  ⟨.aclr, 0x08, 0x03800000, 3⟩,
  ⟨.aadd, 0x08, 0x03FC0000, 4⟩,
  ⟨.amov, 0x08, 0x03FC1F80, 5⟩,
  ⟨.mul, 0x09, 0x03FFF800, 0⟩,
  ⟨.sqrt, 0x0C, 0x03FF0000, 0⟩,
  ⟨.div, 0x0C, 0x03FFF800, 1⟩,
  ⟨.cordVector, 0x0C, 0x03FFF800, 2⟩,
  ⟨.cordRotate, 0x0C, 0x03FF0000, 0x22⟩]

/-- The encodings of the data movement, control and system instructions (R242-R250). -/
def opRowsOther : List OpRow := [
  ⟨.inPort, 0x10, 0x03FF8000, 0⟩,
  ⟨.inq, 0x11, 0x03FF8000, 0⟩,
  ⟨.tld, 0x12, 0x03FE07FF, 0⟩,
  ⟨.tst, 0x13, 0x03FE07FF, 0⟩,
  ⟨.xld, 0x14, 0x03800FFF, 0⟩,
  ⟨.xadd, 0x15, 0x038F0FFF, 0⟩,
  ⟨.res, 0x16, 0x03FF8000, 0⟩,
  ⟨.resa, 0x17, 0x00FF8000, 0⟩,
  ⟨.br, 0x20, 0x00000FFF, 0⟩,
  ⟨.brc, 0x21, 0x00000FFF, 0⟩,
  ⟨.brc, 0x21, 0x00000FFF, 0x00800000⟩,
  ⟨.brc, 0x21, 0x00000FFF, 0x01000000⟩,
  ⟨.brc, 0x21, 0x00000FFF, 0x01800000⟩,
  ⟨.brc, 0x21, 0x00000FFF, 0x02000000⟩,
  ⟨.brc, 0x21, 0x007FFFFF, 0x02800000⟩,
  ⟨.loop, 0x22, 0x03800FFF, 0⟩,
  ⟨.call, 0x23, 0x00000FFF, 0⟩,
  ⟨.ret, 0x24, 0, 0⟩,
  ⟨.yield, 0x25, 0, 0⟩,
  ⟨.trap, 0x26, 0x00000FFF, 0⟩,
  ⟨.pulse, 0x30, 0x03FF8000, 0⟩,
  ⟨.post, 0x31, 0x03FFFC00, 0⟩,
  ⟨.evt, 0x32, 0x03E07F80, 0⟩,
  ⟨.flagClrs, 0x33, 0, 0⟩,
  ⟨.flagGetf, 0x33, 0x03E00000, 0x00008000⟩,
  ⟨.flagPutf, 0x33, 0x03E00000, 0x00010000⟩,
  ⟨.pace, 0x34, 0x03FF8000, 0⟩,
  ⟨.cyc, 0x35, 0x03FF8000, 0⟩]

/-- Whether a word is one of a row's encodings. -/
def OpRow.holds (r : OpRow) (w : Word) : Bool :=
  (w &&& BitVec.ofNat 32 (0xFFFFFFFF - r.used)) == BitVec.ofNat 32 (r.major * 2 ^ 26 + r.fixed)

/-- The codes of a used field that an entry does not list (R242, R250). -/
def Op.codeOk (o : Op) (w : Word) : Bool :=
  match o with
  | .xadd => decide (fXM w < 12)
  | .pace | .cyc => decide (fSel w < 5)
  | _ => true

/-- The instruction of a word; none raises OPCODE (R237). -/
def decodeOp (w : Word) : Option Op :=
  match (opRowsArith ++ opRowsOther).find? (·.holds w) with
  | some r => if r.op.codeOk w then some r.op else none
  | none => none

/-- The pace cost of an instruction (R239-R250). -/
def Op.paces : Op → Nat
  | .mul | .mac | .msu | .sqa | .amov => 2
  | .sqrt => 24
  | .div => 26
  | .cordVector | .cordRotate => 30
  | .inPort | .inq | .tld | .tst | .res => 2
  | .resa => 3
  | .br | .brc | .loop => 2
  | .call | .ret => 3
  | .pulse => 3
  | .post | .evt => 4
  | .pace | .cyc => 2
  | _ => 1

end Sys2Proof.Machine
end

