-- ==== Sys2Proof/Machine/Flags.lean ====
section
/-! DEFINITION. Register reads and writes of an engine, saturation and wrap, and the flags Z, N, V, C and S
(R223, R229-R235). -/
namespace Sys2Proof.Machine

/-! ## Registers -/

/-- A d register as its two's-complement integer (R224). -/
def Engine.dv (e : Engine) (i : Nat) : Int := (SMap.get 0 e.d i).toInt
def Engine.du (e : Engine) (i : Nat) : Nat := (SMap.get 0 e.d i).toNat
def Engine.setD (e : Engine) (i : Nat) (v : Int) : Engine := { e with d := SMap.set 0 e.d i (BitVec.ofInt 48 v) }
/-- An accumulator as its two's-complement integer (R225). -/
def Engine.av (e : Engine) (i : Nat) : Int := (SMap.get 0 e.a i).toInt
def Engine.setA (e : Engine) (i : Nat) (v : Int) : Engine := { e with a := SMap.set 0 e.a i (BitVec.ofInt 96 v) }
/-- An index register (R235: modulo 4096). -/
def Engine.xv (e : Engine) (i : Nat) : Nat := (SMap.get 0 e.x i).toNat
def Engine.setX (e : Engine) (i : Nat) (v : Int) : Engine := { e with x := SMap.set 0 e.x i (BitVec.ofInt 12 v) }

/-! ## Saturation and wrap (R233, R234) -/

/-- A d result saturated. -/
def sat48 (v : Int) : Int := satI 48 v
/-- An accumulator result reduced modulo 2^96. -/
def wrap96 (v : Int) : Int := sextN 96 (toField 96 v)

/-! ## Flags (R229) -/

/-- Z and N of the value written. -/
def Engine.zn (e : Engine) (v : Int) : Engine := { e with z := decide (v = 0), n := decide (v < 0) }
/-- V written, and S with it. -/
def Engine.putV (e : Engine) (v : Bool) : Engine := { e with v := v, s := e.s || v }
def Engine.putC (e : Engine) (c : Bool) : Engine := { e with c := c }

/-- A saturating d result with Z, N and V (R233). -/
def Engine.resultSat (e : Engine) (rd : Nat) (v : Int) : Engine :=
  ((e.setD rd (sat48 v)).zn (sat48 v)).putV (sat48 v != v)

/-- A wrapping accumulator result with Z, N and V (R234). -/
def Engine.resultAcc (e : Engine) (ai : Nat) (v : Int) : Engine :=
  ((e.setA ai (wrap96 v)).zn (wrap96 v)).putV (wrap96 v != v)

/-- An x result with Z and N; N is 0 (R229). -/
def Engine.resultX (e : Engine) (xi : Nat) (v : Int) : Engine :=
  let e := e.setX xi v
  { e with z := decide (e.xv xi = 0), n := false }

/-- The carry out of bit 47 of the unsigned sum of two words as stored (R229). -/
def carry48 (a b : Nat) : Bool := decide (2 ^ 48 ≤ a % 2 ^ 48 + b % 2 ^ 48)

/-- The borrow of a subtraction as unsigned words (R229). -/
def borrow48 (a b : Nat) : Bool := decide (a % 2 ^ 48 < b % 2 ^ 48)

/-- The last bit shifted out to the left by k, and 0 for a shift of 0 (R229). -/
def shlOut (a k : Nat) : Bool := k != 0 && Nat.testBit a (48 - k)

/-- The last bit shifted out to the right by k, and 0 for a shift of 0 (R229). -/
def shrOut (a k : Nat) : Bool := k != 0 && Nat.testBit a (k - 1)

/-- The flags as FLAG GETF reads them: S, Z, N, V, C from bit 4 (R250). -/
def Engine.flagBits (e : Engine) : Nat :=
  16 * e.s.toNat + 8 * e.z.toNat + 4 * e.n.toNat + 2 * e.v.toNat + e.c.toNat

/-- Whether a condition code other than SET holds (R247). -/
def Engine.cond (e : Engine) : Nat → Bool
  | 0 => e.z
  | 1 => !e.z
  | 2 => e.n
  | 3 => !e.n
  | _ => e.v

end Sys2Proof.Machine
end

