-- ==== Sys2Proof/Machine/Trig.lean ====
section
/-! DEFINITION. The values CORD approximates, by integer arithmetic well inside its stated accuracy (R241). -/
namespace Sys2Proof.Machine

/-- 2π in units of 2^-64. -/
def twoPi64 : Int := 115904311329233965478

/-- The terms of a power series in x^2: each from the last by -x^2 / ((k+1)(k+2)); values in units of 2^-64. -/
def series : Nat → Int → Int → Int → Int
  | 0, _, _, _ => 0
  | fuel + 1, x2, t, k => t + series fuel x2 (-(t * x2 / 2 ^ 64) / ((k + 1) * (k + 2))) (k + 2)

/-- cos and sin of an angle below a quarter turn, in units of 2^-46 turn, to units of 2^-64. -/
def cosSinQuarter (r : Int) : Int × Int :=
  let x := r * twoPi64 / 2 ^ 46
  let x2 := x * x / 2 ^ 64
  (series 20 x2 (2 ^ 64) 0, series 20 x2 x 1)

/-- cos and sin of an angle in units of 2^-46 turn, modulo one turn, to units of 2^-46. -/
def cosSin (a : Int) : Int × Int :=
  let t := a % 2 ^ 46
  let (c, s) := cosSinQuarter (t % 2 ^ 44)
  let c := shrAway c 18
  let s := shrAway s 18
  match (t / 2 ^ 44).toNat with
  | 0 => (c, s)
  | 1 => (-s, c)
  | 2 => (-c, -s)
  | _ => (s, -c)

/-- arctan 2^-i in units of 2^-60 turn, first half. -/
def atanRom0 : List Int :=
  [144115188075855872, 85076163258429574, 44951908161305065, 22818290470345122, 11453424468330927, 5732295643252264,
   2866847280169571, 1433511120421931, 716766496754739, 358384615492275, 179192478636968, 89596260679883, 44798133010118,
   22399066838831, 11199533461137, 5599766735784, 2799883368544, 1399941684353]

/-- arctan 2^-i in units of 2^-60 turn, second half. -/
def atanRom1 : List Int :=
  [699970842187, 349985421095, 174992710548, 87496355274, 43748177637, 21874088818, 10937044409, 5468522205, 2734261102,
   1367130551, 683565276, 341782638, 170891319, 85445659, 42722830, 21361415, 10680707, 5340354, 2670177, 1335088, 667544,
   333772, 166886, 83443, 41722, 20861, 10430, 5215, 2608, 1304, 652, 326, 163, 81, 41, 20, 10, 5]

/-- The vectoring iteration: the angle of (x, y) with x > 0, in units of 2^-60 turn. -/
def vector : List Int → Nat → Int → Int → Int → Int
  | [], _, _, _, z => z
  | t :: r, i, x, y, z =>
    if 0 ≤ y then vector r (i + 1) (x + y / 2 ^ i) (y - x / 2 ^ i) (z + t)
    else vector r (i + 1) (x - y / 2 ^ i) (y + x / 2 ^ i) (z - t)

/-- atan2(y, x) in units of 2^-46 turn, in [-2^45, 2^45). -/
def atan2 (y x : Int) : Int :=
  if x = 0 && y = 0 then 0
  else
    let at0 := fun (y x : Int) => vector (atanRom0 ++ atanRom1) 0 (x * 2 ^ 80) (y * 2 ^ 80) 0
    let a := if 0 < x then at0 y x
      else if x = 0 then (if 0 < y then 2 ^ 58 else -(2 ^ 58))
      else at0 (-y) (-x) + (if 0 < y then 2 ^ 59 else -(2 ^ 59))
    clampI (-(2 ^ 45)) (2 ^ 45 - 1) (shrAway a 14)

/-- A CORD output: the value with a deviation inside the stated accuracy, which the ROM does not fix (R241; log entry 9). -/
def cordOut (which : Nat) (a b v : Int) : Int := v + (Config.cordError which a b % 127 - 63)

end Sys2Proof.Machine
end

