-- ==== Sys2Proof/Machine/Ops.lean ====
section
/-! DEFINITION. The data path of an engine: what each instruction word does to the engine, its faults and their order
(R239-R257). -/
namespace Sys2Proof.Machine

/-- What an instruction takes from outside the engine: the cycle figures it may read (R255), the latest pace, the bound B,
the declared figure of the running handler (R200), TSPLIT (R207) and a parity error on its table read (R212). -/
structure OpEnv where
  figs : CycFigs
  paceNow : Nat
  bound : Nat
  limit : Nat
  tsplit : Nat
  tpe : Bool

/-- CYCLE, BLOCK, SECOND and MAIL run in the background (R191). -/
def HKind.background : HKind → Bool
  | .cycle | .block | .second | .mail => true
  | _ => false

/-- The call depth of the running handler (R190). -/
def Engine.depth (e : Engine) (h : Handler) : Nat := e.stack.length - h.base

/-- The address of a TLD or TST (R244). -/
def Engine.tAddr (e : Engine) (w : Word) : Nat := e.xv (fMXi w) + fDisp w

/-- Whether a BRC is taken (R247). -/
def Engine.brTaken (e : Engine) (w : Word) : Bool :=
  if fC w = 5 then fB w < 48 && Nat.testBit (e.du (fBRs w)) (fB w) else e.cond (fC w)

/-- Whether a LOOP is taken (R246). -/
def Engine.loopTaken (e : Engine) (w : Word) : Bool := decide (2 ≤ e.xv (fC w))

/-! ## Faults (R212, R257) -/

/-- The faults of an instruction's own entry, the first in the order of R257. -/
def Op.ownFault (o : Op) (e : Engine) (env : OpEnv) (w : Word) (h : Handler) : Option Nat :=
  let when_ := fun (c : Bool) (n : Nat) => if c then some n else none
  match o with
  | .inPort => if 11 ≤ fSel w then some 9 else when_ h.frame.isNone 8
  | .inq => if 8 ≤ fSel w then some 9 else when_ h.frame.isNone 8
  | .tld => when_ (decide (2047 < e.tAddr w)) 3
  | .tst => if 2047 < e.tAddr w then some 3 else when_ (decide (e.tAddr w < 64 * env.tsplit)) 4
  | .br => when_ (decide (fTgt w < 8)) 2
  | .brc => if e.brTaken w && decide (fTgt w < 8) then some 2 else when_ (fC w == 5 && decide (48 ≤ fB w)) 8
  | .loop => when_ (e.loopTaken w && decide (fTgt w < 8)) 2
  | .call => if fTgt w < 8 then some 2 else when_ (decide (8 ≤ e.stack.length)) 5
  | .ret => when_ (decide (0 < e.depth h) && decide (e.stack.headD 8 < 8)) 2
  | .evt => when_ (decide (8 ≤ h.stage.evts.length)) 10
  | .shl | .shr | .shrr => when_ (decide (48 ≤ fK w)) 8
  | .sat => when_ (decide (46 ≤ fK w)) 8
  | .cordVector | .cordRotate => when_ (fRd w % 2 == 1) 8
  | .resa => when_ (fSel w % 2 == 1) 8
  | .pulse => when_ (decide (16 ≤ fSel w) || h.kind.background) 8
  | .post => when_ (decide (32 ≤ fSel w)) 8
  | .trap => some 7
  | _ => none

/-- The fault an instruction records, of all it meets (R257): MEMERR on the table read, then PACE, then its own. -/
def Op.fault (o : Op) (e : Engine) (env : OpEnv) (w : Word) (h : Handler) : Option Nat :=
  if o = .tld && env.tpe && e.tAddr w ≤ 2047 then some 11
  else if env.limit < h.paces + o.paces then some 6
  else o.ownFault e env w h

/-! ## Effects -/

/-- The arithmetic instructions (R239). -/
def Op.arith (o : Op) (e : Engine) (w : Word) : Engine :=
  let rd := fRd w
  let a := e.dv (fRs w)
  let b := e.dv (fRt w)
  let ua := e.du (fRs w)
  let k := fK w
  match o with
  | .add => (e.resultSat rd (a + b)).putC (carry48 ua (e.du (fRt w)))
  | .sub => (e.resultSat rd (a - b)).putC (borrow48 ua (e.du (fRt w)))
  | .neg => e.resultSat rd (-a)
  | .abs => e.resultSat rd a.natAbs
  | .min => e.resultSat rd (if a ≤ b then a else b)
  | .max => e.resultSat rd (if a ≤ b then b else a)
  | .shl => (e.resultSat rd (a * 2 ^ k)).putC (shlOut ua k)
  | .shr => (e.resultSat rd (a / 2 ^ k)).putC (shrOut ua k)
  | .shrr => (e.resultSat rd (shrEven a k)).putC (shrOut ua k)
  | .sat =>
    let v := clampI (-(2 ^ (46 - k))) (2 ^ (46 - k) - 1) a
    ((e.setD rd v).zn v).putV (v != a)
  | .mov => e.setD rd a
  | .movFromX => e.setD rd (e.xv (fRs w % 8))
  | .movToX => (e.setX (rd % 8) a).putV (decide (a < 0) || decide (4095 < a))
  | .addi =>
    let imm := sextN 16 (fImm16 w)
    (e.resultSat rd (a + imm)).putC (carry48 ua (toField 48 imm))
  | .movi => e.setD rd (sextN 16 (fImm16 w))
  | .movhi =>
    let sh := 16 * fRs w
    let old := e.du rd
    e.setD rd ((old : Int) - ((old / 2 ^ sh % 2 ^ 16 * 2 ^ sh : Nat) : Int) + ((fImm16 w * 2 ^ sh : Nat) : Int))
  | _ => e

/-- A product rounded to 46 fractional bits, ties to even (R232, R240). -/
def mulRound (a b : Int) : Int := shrEven (a * b) 46

/-- The multiply and accumulate instructions (R240). -/
def Op.macc (o : Op) (e : Engine) (w : Word) : Engine :=
  let ai := fAi w
  let a := e.av ai
  let s := e.dv (fARs w)
  let t := e.dv (fARt w)
  match o with
  | .mul => e.resultSat (fRd w) (mulRound (e.dv (fRs w)) (e.dv (fRt w)))
  | .mac => e.resultAcc ai (a + mulRound s t)
  | .msu => e.resultAcc ai (a - mulRound s t)
  | .sqa => e.resultAcc ai (a + mulRound s s)
  | .aclr => e.setA ai 0
  | .aadd => e.resultAcc ai (a + s)
  | .amov => e.resultSat (fARs w) (shrEven a (fAK w))
  | _ => e

/-- The special functions (R241). -/
def Op.special (o : Op) (e : Engine) (w : Word) : Engine :=
  let rd := fRd w
  let a := e.dv (fRs w)
  let b := e.dv (fRt w)
  match o with
  | .sqrt =>
    if a < 0 then ((e.setD rd 0).zn 0).putV true
    else e.resultSat rd (isqrtRound (a.toNat * 2 ^ 46))
  | .div =>
    if b = 0 then
      let v := if 0 < a then 2 ^ 47 - 1 else if a < 0 then -(2 ^ 47) else 0
      ((e.setD rd v).zn v).putV true
    else
      let n := a * 2 ^ 46
      e.resultSat rd (Q.roundEven (if b < 0 then ⟨-n, b.natAbs⟩ else ⟨n, b.natAbs⟩))
  | .cordVector =>
    if a = 0 && b = 0 then (e.resultSat rd 0).setD (rd + 1) 0
    else
      let m := cordOut 0 a b (isqrtRound (a * a + b * b).toNat)
      (e.resultSat rd m).setD (rd + 1) (clampI (-(2 ^ 45)) (2 ^ 45 - 1) (cordOut 1 a b (atan2 b a)))
  | .cordRotate =>
    let (c, s) := cosSin a
    (e.resultSat rd (cordOut 2 (a % 2 ^ 46) 0 c)).setD (rd + 1) (cordOut 3 (a % 2 ^ 46) 0 s)
  | _ => e

/-- The value of an index register after XADD (R242). -/
def xaddValue (x m : Nat) (imm : Int) : Int :=
  if m = 0 then (x : Int) + imm else ((x - x % 2 ^ m : Nat) : Int) + ((x : Int) + imm) % (2 ^ m : Nat)

/-- A sample port as a d value (R227, R228): p up to 7 in phase, 8-15 companions, 16-18 the words. -/
def Frame.port (f : Frame) (p : Nat) : Int :=
  match p with
  | 16 => f.flagi.toNat
  | 17 => f.flagq.toNat
  | 18 => f.finfo.toNat
  | p => f.ports.getD p 0 * 2 ^ 23

/-- The running handler's stage changed. -/
def Engine.stage (e : Engine) (h : Handler) (f : Stage → Stage) : Engine := { e with cur := some { h with stage := f h.stage } }

/-- Post-increment of TLD and TST (R244). -/
def Engine.postInc (e : Engine) (w : Word) : Engine := if fMP w then e.setX (fMXi w) (e.xv (fMXi w) + 1) else e

/-- The data movement instructions (R242-R245). -/
def Op.data (o : Op) (e : Engine) (w : Word) (h : Handler) : Engine :=
  let rd := fR w
  let port := fun p => match h.frame with | some f => f.port p | none => 0
  match o with
  | .inPort => let v := port (if fSel w < 8 then fSel w else fSel w + 8); (e.setD rd v).zn v
  | .inq => let v := port (8 + fSel w); (e.setD rd v).zn v
  | .tld =>
    let v := (SMap.get 0 e.table (e.tAddr w)).toInt
    ((e.postInc w).setD rd v).zn v
  | .tst => { e with table := SMap.set 0 e.table (e.tAddr w) (BitVec.ofInt 48 (e.dv rd)) }.postInc w
  | .xld => e.resultX (fXXi w) (fImm12 w)
  | .xadd => e.resultX (fXXi w) (xaddValue (e.xv (fXXi w)) (fXM w) (sextN 12 (fImm12 w)))
  | .res => e.stage h fun s => { s with res := s.res ++ [(fSel w, BitVec.ofInt 48 (e.dv rd))], resAny := true }
  | .resa =>
    let a := toField 96 (e.av (rd % 8))
    e.stage h fun s => { s with
      res := s.res ++ [(fSel w, BitVec.ofNat 48 (a % 2 ^ 48)), (fSel w + 1, BitVec.ofNat 48 (a / 2 ^ 48))], resAny := true }
  | _ => e

/-- The pace figure selected by s (R254). -/
def Engine.paceFig (e : Engine) (env : OpEnv) (h : Handler) : Nat → Nat
  | 0 => h.paces + 2
  | 1 => env.paceNow
  | 2 => env.bound
  | 3 => e.postq.length + 256 * e.postRefused
  | _ => e.fifo.length

/-- The cycle figure selected by s (R255). -/
def CycFigs.sel (f : CycFigs) : Nat → Nat
  | 0 => f.len
  | 1 => f.freq
  | 2 => f.count % 2 ^ 32
  | 3 => f.valid.toNat + 2 * f.locked.toNat
  | _ => f.frames

/-- The stamp word of a record of a frame: LOCKED, PHASE and CYCLO (R316). -/
def Frame.stamp (f : Frame) : Word :=
  wd ((bit f.finfo 30).toNat * 2 ^ 31 + fld f.finfo 25 16 * 2 ^ 16 + f.figs.count % 2 ^ 16)

/-- The frame sequence number and stamp an EVT carries: those of the frame in SAMPLE, of the latest committed frame
otherwise (R253). -/
def Engine.evtOf (e : Engine) (h : Handler) (code : Nat) (payload : Word) : StagedEvt :=
  match h.frame with
  | some f => { code := BitVec.ofNat 8 code, payload := payload, seq := f.seq, stamp := f.stamp }
  | none => { code := BitVec.ofNat 8 code, payload := payload, seq := e.hdone, stamp := e.lastStamp }

/-- Whether a handler's EVT and POST effects are discarded: the engine shadows, or it has taken a role that begins at a frame above
the handler's, for a background handler above the last committed one (R216, R217, R218; log entry 18). -/
def Engine.mute (e : Engine) (h : Handler) : Bool :=
  e.quiet || match h.frame with | some f => decide (f.seq < e.roleFrom) | none => decide (e.hdone < e.roleFrom)

/-- The system instructions (R250-R255). -/
def Op.system (o : Op) (e : Engine) (env : OpEnv) (w : Word) (h : Handler) : Engine :=
  let r := fR w
  match o with
  | .pulse => e.stage h fun s => { s with pulses := SMap.insert (fSel w) ((SMap.find s.pulses (fSel w)).getD 0 + e.dv r) s.pulses }
  | .post =>
    if e.mute h then e.putC false
    else if 4 ≤ e.postq.length then e.putC true
    else
      let p : PostEntry := { mb := Fin.ofNat 32 (fSel w), w := Fin.ofNat 16 (fArg w / 2 ^ 11), data := wd (e.du r % 2 ^ 32)
                             go := Nat.testBit (fArg w) 10 }
      { e with postq := e.postq ++ [p] }.putC false
  | .evt => e.stage h fun s => { s with
      evts := s.evts ++ [e.evtOf h (fArg w / 2 ^ 7) (wd (e.du r % 2 ^ 32))] }
  | .flagClrs => { e with s := false }
  | .flagGetf => e.setD r e.flagBits
  | .flagPutf =>
    let v := e.du r
    { e with s := Nat.testBit v 4, z := Nat.testBit v 3, n := Nat.testBit v 2, v := Nat.testBit v 1, c := Nat.testBit v 0 }
  | .pace =>
    let v := e.paceFig env h (fSel w)
    let e := if fSel w = 3 then { e with postRefused := 0 } else e
    e.setD r v
  | .cyc => e.setD r (env.figs.sel (fSel w))
  | _ => e

/-- The effect of an instruction on everything but the program counter and the pace count. -/
def Op.effect (o : Op) (e : Engine) (env : OpEnv) (w : Word) (h : Handler) : Engine :=
  match o with
  | .add | .sub | .neg | .abs | .min | .max | .shl | .shr | .shrr | .sat | .mov | .movFromX | .movToX
  | .addi | .movi | .movhi => o.arith e w
  | .mul | .mac | .msu | .sqa | .aclr | .aadd | .amov => o.macc e w
  | .sqrt | .div | .cordVector | .cordRotate => o.special e w
  | .inPort | .inq | .tld | .tst | .xld | .xadd | .res | .resa => o.data e w h
  | .loop => if e.xv (fC w) = 0 then e else e.setX (fC w) (e.xv (fC w) - 1 : Nat)
  | .call => { e with stack := ((e.pc + 1) % 4096) :: e.stack }
  | .ret => { e with stack := e.stack.tail }
  | .br | .brc | .yield | .trap => e
  | .pulse | .post | .evt | .flagClrs | .flagGetf | .flagPutf | .pace | .cyc => o.system e env w h

/-- The program counter after an instruction that did not fault; 4096 past the last word (R246, R249). -/
def Op.nextPc (o : Op) (e : Engine) (w : Word) : Nat :=
  match o with
  | .br | .call => fTgt w
  | .brc => if e.brTaken w then fTgt w else e.pc + 1
  | .loop => if e.loopTaken w then fTgt w else e.pc + 1
  | .ret => e.stack.headD 0
  | _ => e.pc + 1

/-! ## One instruction -/

/-- What one instruction comes to: nothing (no handler runs, or the word is another instruction), a state, a fault with its
code and address, the end of the handler, or a dispatch point. -/
inductive EngOut where
  | idle
  | ok (e : Engine)
  | fault (code pc : Nat)
  | commit (e : Engine)
  | yield (e : Engine)

/-- Charge paces to the running handler (R200). -/
def Engine.charge (e : Engine) (n : Nat) : Engine := { e with cur := e.cur.map fun h => { h with paces := h.paces + n } }

/-- The engine fetches the word at its program counter and executes it, where it is the instruction the command names
(R212, R249, R256). -/
def Engine.run (e : Engine) (env : OpEnv) (pe : Bool) (o : Op) : EngOut :=
  match e.cur with
  | none => .idle
  | some h =>
    if 4096 ≤ e.pc then .fault 2 0
    else if pe then .fault 11 e.pc
    else
      let w := SMap.get 0 e.prog e.pc
      match decodeOp w with
      | none => .fault 1 e.pc
      | some o' =>
        if o' ≠ o then .idle
        else match o.fault e env w h with
          | some code => .fault code e.pc
          | none =>
            if o = .ret && e.depth h == 0 then .commit (e.charge o.paces)
            else
              let e' := { (o.effect e env w h).charge o.paces with pc := o.nextPc e w }
              if o = .yield && h.kind.background then .yield e' else .ok e'

end Sys2Proof.Machine
end

