-- ==== Sys2Proof/Machine/Events.lean ====
section
/-! DEFINITION. The EVT block: half-cycle rms, voltage events, DC detector and the event-record FIFO (R311-R316). -/
namespace Sys2Proof.Machine

/-! ## The record FIFO (R315, R316) -/

/-- NONEMPTY follows the FIFO. -/
def Dev.setFifo (d : Dev) (l : List EvtRec) : Dev :=
  { d with evt := { d.evt with fifo := l } }.putBit A.evtStat 3 (!l.isEmpty)

/-- A record reaches the block: it takes the next RSEQ and is queued, or is discarded and counted; discarded unseen while
PD5 ESC is off (R315, R318). -/
def Dev.queueRec (d : Dev) (kind edge code source seq : Nat) (stamp payload : Word) : Dev :=
  if !d.on 5 then d
  else
    let w0 := wd (kind * 2 ^ 28 + edge * 2 ^ 24 + code % 256 * 2 ^ 16 + source % 32 * 2 ^ 8 + d.evt.nextSeq.toNat)
    let r : EvtRec := { w0 := w0, w1 := wd (seq % 2 ^ 32), w2 := stamp, w3 := payload }
    let full := decide (64 ≤ d.evt.fifo.length)
    let d := { d with evt := { d.evt with nextSeq := d.evt.nextSeq + 1 } }
    if full then (d.count A.evtLost 31 0 1).raiseSq A.evtStat 0x1
    else
      let d := d.setFifo (d.evt.fifo ++ [r])
      let mark := decide (d.rf A.evtWmark 6 0 ≤ d.evt.fifo.length)
      let bits := (if kind = 2 || kind = 3 then 2 else 0) + (if mark then 4 else 0)
      d.raiseIf (bits != 0) A.evtStat bits

/-- EVT_CMD.POP (R315). -/
def Dev.evtPop (d : Dev) : Dev := d.setFifo d.evt.fifo.tail

/-- EVT_CMD.FLUSH (R315). -/
def Dev.evtFlush (d : Dev) : Dev := d.setFifo []

/-! ## Half-cycle rms (R311) -/

def Dev.evtChan (d : Dev) (m : Nat) : EvtChan := d.evt.chans.getD m EvtChan.zero
def Dev.modEvtChan (d : Dev) (m : Nat) (f : EvtChan → EvtChan) : Dev :=
  { d with evt := { d.evt with chans := d.evt.chans.setIfInBounds m (f (d.evtChan m)) } }

/-- Whether channel m is enabled (EVT_CFG.EN, LL). -/
def Dev.evtOn (d : Dev) (m : Nat) : Bool := d.ab A.evtCfg m && (m < 4 || d.ab A.evtCfg 9)

/-- The flags of port p of a frame (R183). -/
def Frame.flags (f : Frame) (p : Nat) : Flags :=
  let w := if p < 8 then f.flagi else f.flagq
  let b := 4 * (p % 8)
  ⟨bit w (b + 3), bit w (b + 2), bit w (b + 1), bit w b⟩

/-- The sample of channel m in a frame, and whether it is left out (R311). -/
def Frame.evtSample (f : Frame) (m : Nat) : Int × Bool :=
  let v := fun p => f.ports.getD p 0
  let s := fun p => (f.flags p).skip
  if m < 4 then (v m, s m)
  else
    let a := m - 4
    let b := if m = 6 then 0 else m - 3
    (v a - v b, s a || s b)

/-- rms of the samples used, to the nearest code. -/
def rmsOf (l : List Int) : Nat := Q.sqrtRound (Q.mk (l.foldl (fun a x => a + x * x) 0) (Nat.max l.length 1))

/-- The half-cycle value of a channel over its two half windows: the rms register word (R311). With every sample left out
the rms is not stated: a free value. -/
def Dev.halfValue (d : Dev) (m : Nat) : Nat × Bool × Dev :=
  let c := d.evtChan m
  let l := c.prevHalf ++ c.half
  let used := (l.filter fun e => !e.2).map Prod.fst
  let ok := decide (8 * (l.length - used.length) ≤ l.length)
  if used.isEmpty then let (f, d) := d.free; (f % 2 ^ 25, ok, d) else (satNat 25 (rmsOf used), ok, d)

/-! ## Detectors (R312, R313) -/

/-- The reference of channel m (R312). -/
def Dev.uref (d : Dev) (m : Nat) : Nat :=
  if d.ab A.evtCfg 8 then d.rf (A.evtSREFm m) 24 0 else d.af A.evtUref 24 0

/-- A threshold: floor(LIM x U_ref / 2^15). -/
def Dev.uth (d : Dev) (m : Nat) (lim : Int) : Int := lim * d.uref m / 2 ^ 15

/-- One detector of channel m: `bitAt` its DSTATE bit, `code` its record code; the extreme it keeps. -/
def Dev.vEvent (d : Dev) (f : Frame) (m bitAt code u ext : Nat) (starts ends : Bool) : Dev × Nat :=
  let isActive := d.rb A.evtDstate bitAt
  let ext' := if code = 2 then Nat.max ext u else Nat.min ext u
  if !isActive then
    if starts then ((d.putBit A.evtDstate bitAt true).queueRec 2 1 code m f.seq f.stamp (wd u), u) else (d, ext)
  else if ends then ((d.putBit A.evtDstate bitAt false).queueRec 2 2 code m f.seq f.stamp (wd ext'), ext')
  else (d, ext')

/-- The three detectors of channel m on a value with OK: interruption, sag, swell (R313, R315). -/
def Dev.vDetect (d : Dev) (f : Frame) (m u : Nat) : Dev :=
  let sag : Int := d.af A.evtLim1 15 0
  let swell : Int := d.af A.evtLim1 31 16
  let int : Int := d.af A.evtLim2 15 0
  let hyst : Int := d.af A.evtLim2 31 16
  let v : Int := u
  let c := d.evtChan m
  let below := fun lim => decide (v < d.uth m lim)
  let above := fun lim => decide (d.uth m lim < v)
  let (i1, i2, s1, s2, w1, w2) := (below int, !below (int + hyst), below sag, !below (sag + hyst), above swell, !above (swell - hyst))
  let (d, ie) := d.vEvent f m (16 + m) 3 u c.intExt i1 i2
  let (d, se) := d.vEvent f m m 1 u c.sagExt s1 s2
  let (d, we) := d.vEvent f m (8 + m) 2 u c.swellExt w1 w2
  d.modEvtChan m fun c => { c with intExt := ie, sagExt := se, swellExt := we }

/-- Whether any detector of channel m is active. -/
def Dev.vActive (d : Dev) (m : Nat) : Bool := d.rb A.evtDstate m || d.rb A.evtDstate (8 + m) || d.rb A.evtDstate (16 + m)

/-- The sliding reference of channel m at a block boundary, to the nearest code (R312). -/
def Dev.slide (d : Dev) (m : Nat) : Dev :=
  let l := (d.evtChan m).blkVals
  let d' := d.modEvtChan m fun c => { c with blkVals := [] }
  if !d.ab A.evtCfg 8 || l.isEmpty || l.any (fun e => !e.2) || d.vActive m then d'
  else
    let u : Int := rmsOf (l.map fun e => (e.1 : Int))
    let s : Int := d.rf (A.evtSREFm m) 24 0
    d'.setReg (A.evtSREFm m) (wd (satNat 25 (Q.round (Q.add (Q.ofInt s) (Q.mk ((u - s) * 216) 65536))).toNat))

/-- The sliding references start at EVT_UREF when REFMODE is set (R312). -/
def Dev.slideStart (d : Dev) : Dev :=
  (List.range 7).foldl (fun d m => d.setReg (A.evtSREFm m) (wd (d.af A.evtUref 24 0))) d

/-- Channel m at a half-boundary frame, before that frame's own sample (R311-R313). -/
def Dev.halfBoundary (d : Dev) (f : Frame) (m : Nat) (boundary : Bool) : Dev :=
  let c := d.evtChan m
  if 2 ≤ d.evt.half && d.evtOn m then
    let (u, ok, d) := d.halfValue m
    let valid := ok && c.prevLocked && c.halfLocked
    let d := d.setReg (A.evtHRMSm m) (wd (valid.toNat * 2 ^ 31 + ok.toNat * 2 ^ 30 + u))
    let d := if boundary then d.modEvtChan m fun c => { c with blkVals := c.blkVals ++ [(u, ok)] } else d
    if ok then d.vDetect f m u else d
  else d

/-- The half windows roll over at a half-boundary frame. -/
def EvtChan.roll (c : EvtChan) : EvtChan :=
  { c with prevHalf := c.half, prevLocked := c.halfLocked, half := [], halfLocked := true }

/-- The EVT block takes a frame; `half`: it is a half-boundary frame (R311). -/
def Dev.evtFrame (d : Dev) (f : Frame) (half boundary block : Bool) : Dev :=
  let all := List.range 7
  let d := if half then all.foldl (fun d m => d.halfBoundary f m boundary) d else d
  let d := if block then all.foldl (fun d m => d.slide m) d else d
  let d := if half then all.foldl (fun d m => d.modEvtChan m EvtChan.roll)
      { d with evt := { d.evt with half := Nat.min (d.evt.half + 1) 2 } } else d
  all.foldl (fun d m => d.modEvtChan m fun c =>
    { c with half := c.half ++ [f.evtSample m], halfLocked := c.halfLocked && bit f.finfo 30 }) d

/-! ## DC detector (R314) -/

/-- The DC detector of slot k at a cycle boundary; its record waits for the boundary frame (R315). -/
def Dev.dcDetect (d : Dev) (k : Nat) : Dev :=
  let p := (d.slots.getD k 0).val
  if !(d.on 5 && d.ab A.evtDcen k && d.chanOn p && d.rb (A.cnvCHkCyclen p) 31) then d
  else
    let dc := sextN 24 (d.rf (A.cnvCHkDc p) 23 0)
    let lim := (if k < 4 then d.af A.evtDclim 15 0 else d.af A.evtDclim 31 16) * 256
    let isActive := d.rb A.evtDcstate k
    let isOver := decide (lim < dc.natAbs)
    let setRun := fun (d : Dev) n => { d with evt := { d.evt with dcRuns := SMap.set 0 d.evt.dcRuns k n } }
    if isOver == isActive then setRun d 0
    else
      let n := SMap.get 0 d.evt.dcRuns k + 1
      if Nat.max 1 (d.af A.evtDccyc 7 0) ≤ n then
        let d := (setRun d 0).putBit A.evtDcstate k (!isActive)
        { d with evt := { d.evt with dcPend := d.evt.dcPend ++ [(k, !isActive, dc)] } }
      else setRun d n

/-- A lock record waits for its deciding frame (R315, R316); nothing waits while PD5 ESC is off. -/
def Dev.lockRec (d : Dev) (code src : Nat) (payload : Word) : Dev :=
  if d.on 5 then { d with evt := { d.evt with lockPend := d.evt.lockPend ++ [(code, src, payload)] } } else d

/-- The lock and DC records of a frame enter the FIFO (R315). -/
def Dev.queueLockDc (d : Dev) (f : Frame) : Dev :=
  let d' := d.evt.lockPend.foldl (fun d e => d.queueRec 4 e.1 e.1 e.2.1 f.seq f.stamp e.2.2) d
  let d' := d.evt.dcPend.foldl (fun d e =>
    d.queueRec 3 (if e.2.1 then 1 else 2) 0 e.1 f.seq f.stamp (BitVec.ofInt 32 e.2.2)) d'
  { d' with evt := { d'.evt with lockPend := [], dcPend := [] } }

/-- The threshold records of a frame (R124, R316). -/
def Dev.queueTh (d : Dev) (seq : Nat) (stamp : Word) (l : List ThEvent) : Dev :=
  l.foldl (fun d e => d.queueRec 0 (if e.rise then 1 else 2) e.det e.ch seq stamp (BitVec.ofInt 32 e.code)) d

end Sys2Proof.Machine
end

