-- ==== Sys2Proof/Machine/Bim.lean ====
section
/-! DEFINITION. Baseline integrator, pulse generator, pulse sources and agreement check (R262-R288). -/
namespace Sys2Proof.Machine

/-! ## Parts by number -/

def Dev.group (d : Dev) (g : Nat) : Group := d.groups.getD g Group.zero
def Dev.setGroup (d : Dev) (g : Nat) (x : Group) : Dev := { d with groups := d.groups.setIfInBounds g x }
def Dev.modGroup (d : Dev) (g : Nat) (f : Group → Group) : Dev := d.setGroup g (f (d.group g))
def Dev.out (d : Dev) (n : Nat) : PulseOut := d.outs.getD n PulseOut.zero
def Dev.setOut (d : Dev) (n : Nat) (x : PulseOut) : Dev := { d with outs := d.outs.setIfInBounds n x }
def Dev.modOut (d : Dev) (n : Nat) (f : PulseOut → PulseOut) : Dev := d.setOut n (f (d.out n))
def Dev.eng (d : Dev) (k : Nat) : Engine := d.engines.getD k Engine.zero
def Dev.setEng (d : Dev) (k : Nat) (e : Engine) : Dev := { d with engines := d.engines.setIfInBounds k e }
def Dev.modEng (d : Dev) (k : Nat) (f : Engine → Engine) : Dev := d.setEng k (f (d.eng k))

/-- The engine that holds a group's role (ESC_GRPMAP). -/
def Dev.holder (d : Dev) (g : Nat) : Fin 5 := d.roles.getD g 0

/-- The engine whose commit of frame s counts for group g: the holder, or the one the role has passed to from frame f on
while the old holder works off its queue (R217). -/
def Dev.carrier (d : Dev) (g s : Nat) : Fin 5 :=
  match d.er.passing with
  | some (k, f) => if d.er.group.val = g && f ≤ s then k else d.holder g
  | none => d.holder g

/-- An accumulator from its signed value, modulo 2^96. -/
def acc96 (v : Int) : AWord := BitVec.ofInt 96 v

/-! ## Settings of the outputs (BIM_CFn_CFG) -/

def Dev.cfSrc (d : Dev) (n : Nat) : Bool := d.ab (A.bimCFnCfg n) 5
def Dev.cfGroup (d : Dev) (n : Nat) : Nat := d.af (A.bimCFnCfg n) 7 6
def Dev.cfQ (d : Dev) (n : Nat) : Nat := d.af (A.bimCFnCfg n) 11 8

/-- The outputs that follow a quantity of group g (R274). -/
def Dev.outsOf (d : Dev) (g : Nat) : List Nat :=
  (List.range d.fuses.cfs).filter fun n => !d.cfSrc n && d.cfGroup n == g

/-- The threshold T (R277). -/
def Dev.cfT (d : Dev) (n : Nat) : Nat := 2 ^ (46 + d.af (A.bimCFnCfg n) 21 16) / Nat.max 1 (d.af (A.bimCFnMc n) 19 0)

/-! ## The baseline integrator (R266-R269) -/

/-- Voltage and current port of term t. -/
def Dev.termPorts (d : Dev) (g t : Nat) : Nat × Nat :=
  let w := d.active (A.bimGgTerm0 g + 4 * t)
  (fld w 5 4, 4 + fld w 1 0)

/-- PHC of term t. -/
def Dev.termPhc (d : Dev) (g t : Nat) : Int := sextN 16 (d.af (A.bimGgTerm0 g + 4 * t) 31 16)

/-- Coefficient BK_t in units of 2^-46 (R263). -/
def Dev.termBk (d : Dev) (g t : Nat) : Nat :=
  d.af (A.bimGgBk0Lo g + 8 * t) 31 0 + 2 ^ 32 * d.af (A.bimGgBk0Lo g + 8 * t + 4) 15 0

/-- Whether term t is skipped on a frame (R268). -/
def Dev.termSkips (d : Dev) (g t : Nat) (f : Frame) : Bool :=
  let (v, i) := d.termPorts g t
  let bad := fun (f : Frame) => (f.flags v).skip || (f.flags i).skip
  bad f || (d.termPhc g t != 0 && match (d.group g).prev with | some p => bad p | none => true)

/-- e_t of a term that is not skipped, in units of 2^-46 quantum (R267). -/
def Dev.termEnergy (d : Dev) (g t : Nat) (f : Frame) : Int :=
  let (v, i) := d.termPorts g t
  let phc := d.termPhc g t
  let now := fun p => f.ports.getD p 0
  let old := fun p => match (d.group g).prev with | some q => q.ports.getD p 0 | none => 0
  let trim := fun p => now p * 2 ^ 15 - phc.natAbs * (now p - old p)
  let num := if 0 ≤ phc then trim v * now i else now v * trim i
  shrEven (num * d.termBk g t) 61

/-- Add to the net accumulator of term t. -/
def Group.addNet (x : Group) (t : Nat) (v : Int) : Group :=
  match t with
  | 0 => { x with net0 := x.net0 + acc96 v }
  | 1 => { x with net1 := x.net1 + acc96 v }
  | 2 => { x with net2 := x.net2 + acc96 v }
  | _ => { x with net3 := x.net3 + acc96 v }

/-- At the boundary frame, before its own products: the cycle register goes to the register of its sign, or nowhere below
the creep threshold (R265, R269). -/
def Group.classify (x : Group) : Group :=
  let p := x.cycReg
  let x := { x with cycReg := 0 }
  if p.natAbs < x.nc * x.creepOld * 64 then x
  else if 0 ≤ p then { x with imp := x.imp + acc96 p }
  else { x with exp := x.exp + acc96 (-p) }

/-! ## Windows (R274-R276) -/

/-- A contribution of frame s into the window that covers it. -/
def winAdd (s : Nat) (v : Int) : List PWin → List PWin
  | [] => []
  | w :: r => match w.upto with
    | none => { w with sum := w.sum + v } :: r
    | some b => if s < b then { w with sum := w.sum + v } :: r else w :: winAdd s v r

/-- A contribution of frame s to an output, from the frame of its latest change of source on (R274, R279). -/
def PulseOut.add (o : PulseOut) (s : Nat) (v : Int) : PulseOut :=
  if o.takesFrom ≤ s then { o with wins := winAdd s v o.wins } else o

/-- The baseline's contribution of frame s to an output; an output without a substitute holds and counts (R272, R282). -/
def Dev.baseAdd (d : Dev) (n s : Nat) (e : Int) : Dev :=
  match d.cfQ n with
  | 0 => d.modOut n (·.add s e)
  | 1 => d.modOut n (·.add s (-e))
  | _ => if (d.out n).takesFrom ≤ s then d.count (A.bimCFnGap n) 31 0 1 else d

/-- The contributions of a frame of group g to the aggregate channels that follow it, by quantity; a quantity the source
holds gives nothing. The backlog has 96 bits (R561). -/
def Dev.aggAdd (d : Dev) (g : Nat) (f : Nat → Int) : Dev :=
  let add := fun (a : Nat) (b : Int) =>
    if d.rb (A.chnAGGaCfg a) 31 && d.rf (A.chnAGGaCfg a) 5 4 == g then (acc96 (b + f (d.rf (A.chnAGGaCfg a) 3 0))).toInt else b
  { d with chn := { d.chn with backlog := d.chn.backlog.mapIdx add } }

/-- What the baseline contributes to a quantity: import positive for 0, export positive for 1 (R272, R282). -/
def baseQ (e : Int) : Nat → Int
  | 0 => e
  | 1 => -e
  | _ => 0

/-- The baseline's contribution of frame s to every output and aggregate channel of group g. -/
def Dev.baseFrame (d : Dev) (g s : Nat) (e : Int) : Dev :=
  ((d.outsOf g).foldl (fun d n => d.baseAdd n s e) d).aggAdd g (baseQ e)

/-- One window closes (R275, R276): discarded, or into H; the drain rate follows. -/
def Dev.closeWin (d : Dev) (n : Nat) (w : PWin) : Dev :=
  let drop := decide (w.sum < 0) || (d.ab (A.bimCFnCfg n) 2 && decide (w.sum < w.nc * w.creep * 64))
  let d := if drop then
      (if w.sum = 0 then d else (d.count (A.bimCFnCreepcnt n) 31 0 1).raiseSq (A.bimCFnStat n) 0x2)
    else d.modOut n fun o => { o with h := o.h + w.sum }
  d.modOut n fun o => { o with rate := (16 * o.h.toNat + w.len - 1) / Nat.max 1 w.len }

/-- The windows of an output whose frames have all arrived, `waiting` being the oldest frame that waits for its commit. -/
def Dev.closeWins (d : Dev) (n : Nat) (waiting : Option Nat) : List PWin → Dev
  | [] => d
  | w :: r => match w.upto with
    | none => d.modOut n fun o => { o with wins := w :: r }
    | some b =>
      if (match waiting with | none => true | some s => decide (b ≤ s)) then (d.closeWin n w).closeWins n waiting r
      else d.modOut n fun o => { o with wins := w :: r }

/-- Close what can be closed of every output of group g. -/
def Dev.closeAll (d : Dev) (g : Nat) : Dev :=
  let waiting := (d.group g).hist.head?.map Prod.fst
  (d.outsOf g).foldl (fun d n => d.closeWins n waiting (d.out n).wins) d

/-- At boundary frame s the open window of an output ends and the next opens; `len` is the cycle's length in XTM
periods. -/
def PulseOut.roll (o : PulseOut) (s nc creep len : Nat) : PulseOut :=
  { o with wins := (o.wins.map fun w => match w.upto with
      | none => { w with upto := some s, nc := nc, creep := creep, len := len }
      | some _ => w) ++ [⟨none, 0, 0, 0, 0⟩] }

/-! ## Fallback and return (R281-R284) -/

/-- A return bound to a boundary (BIM_Gg_SRC.PEND). -/
def Dev.returnBound (d : Dev) (g : Fin 4) : Bool := d.bound.any fun e => e.2 == .srcEngine g

/-- The frames from `first` on that wait for a commit take baseline energy instead (R187, R281). -/
def Dev.replayBase (d : Dev) (g first : Nat) : Dev :=
  let x := d.group g
  let d := d.setGroup g { x with hist := x.hist.filter fun e => decide (e.1 < first) }
  ((x.hist.filter fun e => decide (first ≤ e.1)).foldl (fun d e => d.baseFrame g e.1 e.2) d).closeAll g

/-- An event of R281 with its cause and the first frame with baseline energy. A pending return is discarded (R283). With
the source on BASE already, frames it would leave without a source are taken as well, and of two events on one frame the
first in the order of R281 is recorded (R292; log entry 15). -/
def Dev.fallback (d : Dev) (g : Fin 4) (cause first : Nat) : Dev :=
  let d := if d.returnBound g then
      ((d.unbind (· == .srcEngine g)).putFld (A.bimGgSrc g) 22 20 5).raiseSq (A.bimGgStat g) 0x10 else d
  let x := d.group g
  if x.base then
    let d := if x.fbAt = d.frameSeq && cause < d.rf (A.bimGgSrc g) 18 16 then d.putFld (A.bimGgSrc g) 18 16 cause else d
    if cause = 5 then d else d.replayBase g first
  else
    let d := d.setGroup g { x with base := true, firstBase := first, fbAt := d.frameSeq, agrBroken := true }
    let d := ((d.putBit (A.bimGgSrc g) 31 true).putFld (A.bimGgSrc g) 18 16 cause).setReg (A.bimGgFbseq g) (wd first)
    (d.raiseSq (A.bimGgStat g) 0x1).replayBase g first

/-- The first frame of group g that engine k leaves open: above HDONE of the role's holder, or, where k has taken the role and the old
holder works off its queue, above k's own HDONE from the frame of the change on (R187, R217). -/
def Dev.firstOpen (d : Dev) (g : Fin 4) (k : Nat) : Nat :=
  match d.er.passing with
  | some (n, f) => if d.er.group = g && n.val == k then Nat.max f ((d.eng k).hdone + 1) else (d.eng (d.holder g).val).hdone + 1
  | none => (d.eng (d.holder g).val).hdone + 1

/-- The fallback of a group whose engine k lost or may have lost a frame (R281). -/
def Dev.fallbackHdone (d : Dev) (g : Fin 4) (k cause : Nat) : Dev := d.fallback g cause (d.firstOpen g k)

/-- Whether CFG_FAULT is set (REG_CFGSTAT). -/
def Dev.cfgFault (d : Dev) : Bool := d.rb A.regCfgstat 9

/-- BIM_Gg_SRCCMD, OP = BASE (R281). -/
def Dev.srcBase (d : Dev) (g : Fin 4) : Dev := d.fallback g 5 d.frameSeq

/-- BIM_Gg_SRCCMD, OP = ENGINE (R283). -/
def Dev.srcEngine (d : Dev) (g : Fin 4) : Dev :=
  let refuse := fun c => (d.putFld (A.bimGgSrc g) 22 20 c).raiseSq (A.bimGgStat g) 0x10
  let e := d.eng (d.holder g).val
  if !(d.group g).base || d.returnBound g then refuse 4
  else if e.st != .running then refuse 1
  else if e.evFault then refuse 2
  else if d.cfgFault then refuse 3
  else d.bind (.srcEngine g)

/-- An accepted return at its boundary: from the boundary frame, the frames take engine contributions (R283). -/
def Dev.srcReturn (d : Dev) (g : Fin 4) : Dev :=
  ((d.modGroup g fun x => { x with base := false }).putBit (A.bimGgSrc g) 31 false).raiseSq (A.bimGgStat g) 0x8

/-- A commit of frame s by the engine whose commits count, with its PULSE sums (R274, R281). -/
def Dev.bimCommit (d : Dev) (g s : Nat) (pulses : SMap Int) : Dev :=
  let x := d.group g
  if x.hist.any fun e => e.1 == s then
    let d := d.setGroup g { x with hist := x.hist.filter fun e => e.1 != s }
    (((d.outsOf g).foldl (fun d n => d.modOut n (·.add s (SMap.get 0 pulses (d.cfQ n)))) d).aggAdd g (SMap.get 0 pulses)).closeAll g
  else d

/-! ## Agreement check (R285-R288) -/

/-- A 96-bit value in a result register pair; odd numbers act as the even one below (R285). -/
def Engine.pair (e : Engine) (n : Nat) : AWord :=
  let r := n / 2 * 2
  BitVec.ofNat 96 ((SMap.get 0 e.results r).toNat + 2 ^ 48 * (SMap.get 0 e.results (r + 1)).toNat)

/-- The engine's two totals (BIM_Gg_AGRCFG). -/
def Dev.agrTotals (d : Dev) (g : Nat) (e : Engine) : AWord × AWord :=
  (e.pair (d.af (A.bimGgAgrcfg g) 5 0), e.pair (d.af (A.bimGgAgrcfg g) 13 8))

/-- Whether a deviation passes (R286). -/
def Dev.agrPass (d : Dev) (g : Nat) (db de : Int) : Bool :=
  let rel := db * d.af (A.bimGgAgrcfg g) 31 16
  let abs : Int := d.af (A.bimGgAgrabs g) 31 0 * 2 ^ 30 * 1000000
  decide ((de - db).natAbs * 1000000 ≤ (if rel ≤ abs then abs else rel))

/-- The check of SECBND frame s with the baseline's and the engine's totals (R285-R288). -/
def Dev.agrCheck (d : Dev) (g : Fin 4) (s : Nat) (b e : AWord × AWord) (skip : Bool) : Dev :=
  let x := d.group g
  let d := d.setGroup g { x with snapB := b, snapE := e, snapPend := none }
  if skip then (d.count (A.bimGgAgrcnt g) 15 0 1).raiseSq (A.bimGgStat g) 0x4
  else
    let dbi := (b.1 - x.snapB.1).toInt
    let dbe := (b.2 - x.snapB.2).toInt
    let dei := (e.1 - x.snapE.1).toInt
    let dee := (e.2 - x.snapE.2).toInt
    let put := fun (d : Dev) a (v : Int) => d.setReg a (wd (toField 32 (satI 32 (v / 2 ^ 30))))
    let d := put (put d (A.bimGgAgrdi g) (dei - dbi)) (A.bimGgAgrde g) (dee - dbe)
    if d.agrPass g dbi dei && d.agrPass g dbe dee then d
    else ((d.count (A.bimGgAgrcnt g) 31 16 1).raiseSq (A.bimGgStat g) 0x2).fallback g 4 (s + 1)

/-- The results the group result view shows: the old holder's until the new one's first commit from the frame of the change on, then
the new one's, whether or not the old one has left the role (R221). -/
def Dev.viewEngine (d : Dev) (g : Nat) : Engine :=
  if d.er.group.val = g then
    match d.er.viewOld, d.er.passing with
    | some (k, _), _ => d.eng k.val
    | none, some (k, _) => d.eng k.val
    | none, none => d.eng (d.holder g).val
  else d.eng (d.holder g).val

/-- A check whose engine snapshot never came is skipped. -/
def Dev.agrDrop (d : Dev) (g : Fin 4) : Dev :=
  match (d.group g).snapPend with
  | some (s, i, e, _) => d.agrCheck g s (i, e) (d.agrTotals g (d.viewEngine g)) true
  | none => d

/-- The baseline's snapshot at a SECBND frame; the engine's comes with that frame's commit. A holder that is not RUNNING
will not commit it, and the check is skipped at once (R285, R287). -/
def Dev.agrSnap (d : Dev) (g : Fin 4) (s : Nat) : Dev :=
  if d.ab (A.bimGgCfg g) 8 then
    let d := d.agrDrop g
    let x := d.group g
    let skip := x.agrFirst || x.agrBroken
    let d := d.setGroup g { x with agrFirst := false, agrBroken := false, snapPend := some (s, x.imp, x.exp, skip) }
    if (d.eng (d.carrier g s).val).st == .running then d else d.agrDrop g
  else d

/-- The engine's snapshot with the commit of frame s (R285); frames of the second that took baseline energy skip it. -/
def Dev.agrCommit (d : Dev) (g : Fin 4) (s : Nat) (e : Engine) : Dev :=
  match (d.group g).snapPend with
  | some (n, bi, be, skip) =>
    if n = s then
      let x := d.group g
      d.agrCheck g s (bi, be) (d.agrTotals g e) (skip || (x.base && decide (x.firstBase ≤ s)))
    else d
  | none => d

/-! ## A frame (R268, R269, R274, R280) -/

/-- The baseline integrator and the pulse generator take a frame of group g; `len` is the length of the cycle just ended,
where the frame is a boundary frame. -/
def Dev.bimFrame (d : Dev) (g : Fin 4) (f : Frame) (len : Nat) : Dev :=
  let s := f.seq
  let d := if bit f.finfo 31 then
      let x := d.group g
      let d := d.setGroup g { x.classify with nc := 0 }
      (d.outsOf g).foldl (fun d n => d.modOut n (·.roll s x.nc x.creepOld len)) d
    else d
  let terms := (List.range 4).filter fun t => d.ab (A.bimGgCfg g) t
  let live := terms.filter fun t => !d.termSkips g t f
  let es := live.map fun t => (t, d.termEnergy g t f)
  let e := es.foldl (fun a x => a + x.2) 0
  let d := if live.length < terms.length then d.count (A.bimGgSkipcnt g) 31 0 1 else d
  let x := es.foldl (fun x t => x.addNet t.1 t.2) (d.group g)
  let x := { x with cycReg := x.cycReg + e, nc := x.nc + 1, prev := some f }
  let d := if x.base then (d.setGroup g { x with agrBroken := true }).baseFrame g s e
    else d.setGroup g { x with hist := x.hist ++ [(s, e)] }
  let d := d.closeAll g
  if bit f.finfo 28 then d.agrSnap g s else d

/-! ## Changes of an output (R278, R279) -/

/-- A change of Q, GROUP or SRC of an output at its apply point (R279). -/
def Dev.retarget (d : Dev) (n : Nat) : Dev :=
  let o := d.out n
  let sum := o.wins.foldl (fun a w => a + w.sum) (o.h + o.p)
  let r : Int := sextN 32 (d.rf (A.bimCFnResidue n) 31 0)
  let d := d.setReg (A.bimCFnResidue n) (wd (toField 32 (satI 32 (r + sum / 2 ^ 30))))
  let d := d.raiseSq (A.bimCFnStat n) 0x20
  d.setOut n { o with wins := [⟨none, 0, 0, 0, 0⟩], h := 0, p := 0, rate := 0, takesFrom := d.frameSeq, aggRef := none }

/-! ## Pulses (R276, R277, R564) -/

/-- One tick of CK5 PLS at an output. -/
def Dev.plsOut (d : Dev) (n : Nat) : Dev :=
  let o := d.out n
  let m : Nat := if d.ab (A.bimCFnCfg n) 0 && !d.cfSrc n then Nat.min o.rate o.h.toNat else 0
  d.setOut n { o with
    h := o.h - m, p := o.p + m
    left := o.left - 1
    idle := if o.active then 0 else Nat.min 32 (o.idle + 1)
    sinceStart := Nat.min 163840 (o.sinceStart + 1) }

/-- A tick of CK5 PLS; it stands still while PD5 ESC is off or CK2 XTM fails (R484). -/
def Dev.plsTick (d : Dev) : Dev :=
  if d.on 5 && d.xtmOk then (List.range d.fuses.cfs).foldl (fun d n => d.plsOut n) d else d

/-- The width of a pulse that starts now (R277, R564). -/
def PulseOut.width (o : PulseOut) (t : Nat) (agg : Bool) : Nat :=
  if agg then (if 163840 ≤ o.sinceStart then 81920 else Nat.max 32 (o.sinceStart / 2))
  else if o.rate * 163840 ≤ t then 81920
  else Nat.max 32 (t / (2 * o.rate))

/-- Whether an output starts a pulse on this tick; none does while CK5 PLS stands still (R482, R484). -/
def Dev.pulseDue (d : Dev) (n : Nat) : Bool :=
  let o := d.out n
  d.on 5 && d.xtmOk && decide (n < d.fuses.cfs) && d.ab (A.bimCFnCfg n) 0 && decide ((d.cfT n : Int) ≤ o.p) && decide (32 ≤ o.idle) && !o.active

/-- A pulse starts (R277). -/
def Dev.pulseStart (d : Dev) (n : Nat) : Dev :=
  if d.pulseDue n then
    let o := d.out n
    let t := d.cfT n
    let d := d.setOut n { o with p := o.p - t, active := true, left := o.width t (d.cfSrc n), idle := 0, sinceStart := 0 }
    let bits := 1 + (if (2 * t : Int) ≤ o.p then 4 else 0)
    ((d.countMod (A.bimCFnCount n) 31 0 1).raiseSq (A.bimCFnStat n) bits).putBit (A.bimCFnStat n) 4 true
  else d

/-- A pulse's width expires (R277). -/
def Dev.pulseEnd (d : Dev) (n : Nat) : Dev :=
  let o := d.out n
  if o.active && o.left == 0 && d.xtmOk then
    (d.setOut n { o with active := false, idle := 0 }).putBit (A.bimCFnStat n) 4 false
  else d

/-- The level an output drives (POL; R277). -/
def Dev.cfLevel (d : Dev) (n : Nat) : Bool := (d.out n).active != d.ab (A.bimCFnCfg n) 1

/-- What drives CFn: nothing in reset, or where the output is not bonded (R587, R600). -/
def Dev.cfPin (d : Dev) (n : Nat) : Option Bool := if d.held || decide (d.fuses.cfs ≤ n) then none else some (d.cfLevel n)

/-! ## Registers that show the state -/

/-- A word of a 96-bit accumulator. -/
def accWord (a : AWord) (i : Nat) : Word := wd (a.toNat / 2 ^ (32 * i) % 2 ^ 32)

/-- Accumulator j of a group: IMP, EXP, NET0-NET3. -/
def Group.acc (x : Group) : Nat → AWord
  | 0 => x.imp
  | 1 => x.exp
  | 2 => x.net0
  | 3 => x.net1
  | 4 => x.net2
  | _ => x.net3

/-- BIM_CFn_PEND; a negative P + H of an aggregate output reads 0 (log entry 16). -/
def Dev.cfPend (d : Dev) (n : Nat) : Word :=
  let o := d.out n
  let t := d.cfT n
  let v := (o.p + o.h).toNat
  wd (satNat 16 (v / Nat.max 1 t) * 2 ^ 16 + v % Nat.max 1 t * 65536 / Nat.max 1 t)

/-- STAT.HOLD of an output (R282). -/
def Dev.cfHold (d : Dev) (n : Nat) : Bool := !d.cfSrc n && decide (2 ≤ d.cfQ n) && (d.group (d.cfGroup n)).base

/-- The BIM block's part of a boundary, before what is bound applies: CREEP as it was (R271). -/
def Dev.creepLatch (d : Dev) : Dev := { d with groups := d.groups.mapIdx fun g x => { x with creepOld := d.af (A.bimGgCreep g) 31 0 } }

end Sys2Proof.Machine
end

