-- ==== Sys2Proof/Machine/Mailbox.lean ====
section
/-! DEFINITION. Mailboxes, epochs, the post queues of the engines and the copies into them (R385-R402). -/
namespace Sys2Proof.Machine

def Dev.mb (d : Dev) (n : Nat) : Mbox := d.mbox.getD n Mbox.zero
def Dev.setMb (d : Dev) (n : Nat) (x : Mbox) : Dev := { d with mbox := d.mbox.setIfInBounds n x }

/-- MBX_Mn_CFG.RX (R386). -/
def Dev.mbRx (d : Dev) (n : Nat) : Nat := d.rf (A.mbxMnCfg n) 3 0

/-- How many data registers a mailbox has (R385). -/
def Dev.mbSize (d : Dev) (n : Nat) : Nat := if d.rb (A.mbxMnCfg n) 8 then 16 else 8

/-- The address of data register w of mailbox n. -/
def mbDataAt (n w : Nat) : Nat := A.mbxMnDATAw (16 * n + w)

/-- The engine that a receiver code names: directly, or as the holder of a role (R386). -/
def Dev.rxEngine (d : Dev) (rx : Nat) : Option Nat :=
  if 3 ≤ rx && rx ≤ 7 then some (rx - 3)
  else if 12 ≤ rx then some (d.holder (rx - 12)).val
  else none

/-- Whether a receiver code exists on the variant (R386). -/
def Dev.rxOk (d : Dev) (rx : Nat) : Bool :=
  rx == 0 || rx == 2 || rx == 8 || (3 ≤ rx && rx ≤ 7 && d.fuses.engine (rx - 3))
    || (12 ≤ rx && decide (rx - 12 < d.fuses.groups))

/-- Whether a receiver counts as off (R386, R390). -/
def Dev.rxOff (d : Dev) (rx : Nat) : Bool :=
  if rx = 8 then !d.chn.up
  else match d.rxEngine rx with
    | some k => !d.on 5 || !d.fuses.engine k
    | none => false

/-- The cause that refuses a data or GO write, the full state first (R390). -/
def Dev.mbRefuses (d : Dev) (n : Nat) : Option Nat :=
  if (d.mb n).full then some 12 else if d.rxOff (d.mbRx n) then some 13 else none

/-! ## Epochs (R392) -/

def Dev.epoch (d : Dev) (m : Nat) : Nat := d.rf (A.mbxEPOCHi m) 15 0

/-- A master's epoch advances. -/
def Dev.epochUp (d : Dev) (m : Nat) : Dev := d.countMod (A.mbxEPOCHi m) 15 0 1

/-! ## Posting (R389-R391) -/

/-- A data register of an empty mailbox was written by a master. -/
def Dev.mbWrote (d : Dev) (m n w : Nat) : Dev :=
  let x := d.mb n
  d.setMb n { x with writers := if x.writers.contains m then x.writers else x.writers ++ [m], high := Nat.max x.high (w + 1) }

/-- An accepted GO (R389, R391). -/
def Dev.mbGo (d : Dev) (m n : Nat) : Dev :=
  let x := d.mb n
  let mixed := x.writers.any (· != m)
  let d := d.setMb n { x with full := true, mixed := mixed, stale := false, mseq := x.mseq + 1 }
  let d := d.setReg (A.mbxMnStamp n) (wd (d.epoch m * 2 ^ 16 + m * 2 ^ 8 + x.high))
  d.raiseIf mixed A.mbxStat 0x2

/-- A write of MBX_Mn_CTRL with GO = 1: the cause that refuses it, or the post. -/
def Dev.mbPost (d : Dev) (m n : Nat) : Except Nat Dev :=
  match d.mbRefuses n with
  | some c => .error c
  | none => .ok (d.mbGo m n)

/-! ## Release (R395, R397) -/

/-- The mailbox becomes empty; engines that copied it forget it. -/
def Dev.mbFree (d : Dev) (n : Nat) : Dev :=
  let x := d.mb n
  let d := d.setMb n { x with full := false, mixed := false, stale := false, writers := [], high := 0 }
  { d with engines := d.engines.mapIdx fun _ e => { e with mailCopied := e.mailCopied.filter fun k => k.val != n } }

/-- Whether a master is the receiver of a mailbox (R395). -/
def Dev.isReceiver (d : Dev) (m n : Nat) : Bool :=
  let rx := d.mbRx n
  if rx = 0 then decide (m < 2)
  else match d.rxEngine rx with
    | some k => m == 3 + k
    | none => m == rx

/-- A release with the MSEQ read (R395). -/
def Dev.mbRelease (d : Dev) (m n : Nat) (mseq : BitVec 8) : Dev :=
  if !d.isReceiver m n then d.raiseSq A.mbxStat 0x4
  else if (d.mb n).full && (d.mb n).mseq == mseq then d.mbFree n
  else d

/-! ## Configuration (R386, R387, R398) -/

/-- The first table word of the working region of an engine (R207). -/
def Dev.tsplit (d : Dev) (k : Nat) : Nat := 64 * d.af (A.escEkCfg k) 4 0

/-- The cause that refuses a write of MBX_Mn_CFG, the full state first. -/
def Dev.mbCfgRefuses (d : Dev) (n : Nat) (w : Word) : Option Nat :=
  let inbox := fld w 26 16
  if (d.mb n).full then some 12
  else if !d.rxOk (fld w 3 0) || 2047 < inbox + 16 then some 8
  else match d.rxEngine (fld w 3 0) with
    | some k => if inbox < d.tsplit k then some 8 else none
    | none => none

/-! ## Copies into an engine (R396, R398) -/

/-- The engines that get a copy of a mailbox's message: its receiver, and the engine that shadows the role's holder. -/
def Dev.copyTo (d : Dev) (n : Nat) : List Nat :=
  let rx := d.mbRx n
  let sh := match d.er.shadow with
    | some k => if 12 ≤ rx && d.er.group.val = rx - 12 then [k.val] else []
    | none => []
  (d.rxEngine rx).toList ++ sh

/-- Whether a handler of an engine is running, one that waits at a YIELD included (R189, R222). -/
def Engine.busy (e : Engine) : Bool := e.cur.isSome || e.susp.isSome

/-- Whether entry i of the dispatch table is enabled (R188). -/
def Engine.entryOn (e : Engine) (i : Nat) : Bool := bit (SMap.get 0 e.prog i) 31

/-- The header word of an inbox (R396). -/
def Dev.inboxHead (d : Dev) (n : Nat) : DWord :=
  let st := d.reg (A.mbxMnStamp n)
  BitVec.ofNat 48 (fld st 4 0 + fld st 11 8 * 2 ^ 8 + 2 ^ 15 + fld st 31 16 * 2 ^ 16 + n * 2 ^ 32)

/-- Mailbox n copied into engine k. -/
def Dev.copyOne (d : Dev) (k n : Nat) : Dev :=
  let inbox := d.rf (A.mbxMnCfg n) 26 16
  if inbox < d.tsplit k then d.raiseSq A.mbxStat 0x8
  else
    let words := (List.range (d.mbSize n)).map fun w => (inbox + 1 + w, BitVec.ofNat 48 (d.reg (mbDataAt n w)).toNat)
    d.modEng k fun e => { e with
      table := ((inbox, d.inboxHead n) :: words).foldl (fun t x => SMap.set 0 t x.1 x.2) e.table
      mailCopied := e.mailCopied ++ [Fin.ofNat 32 n]
      evMail := e.evMail || e.entryOn 4 }

/-- The copy point of an engine: every full mailbox addressed to it that it has not copied, in ascending n (R396). -/
def Dev.mailCopy (d : Dev) (k : Nat) : Dev :=
  let e := d.eng k
  if d.on 5 && (e.st == .running || e.st == .shadow) && !e.busy then
    ((List.range 32).filter fun n => (d.mb n).full && (d.copyTo n).contains k && !(e.mailCopied.any fun x => x.val == n)).foldl
      (fun d n => d.copyOne k n) d
  else d

/-- What a MAIL handler's commit releases: the mailboxes copied before its dispatch; a role's mailbox only by the role's
holder (R397, R398). -/
def Dev.mailCommit (d : Dev) (k : Nat) : Dev :=
  (d.eng k).mailServed.foldl (fun d n => if d.rxEngine (d.mbRx n.val) = some k then d.mbFree n.val else d) d

/-! ## The post queue of an engine (R252, R393) -/

/-- The oldest entry of an engine's post queue reaches the mailbox block. -/
def Dev.postDeliver (d : Dev) (k : Nat) : Dev :=
  let e := d.eng k
  match e.postq with
  | [] => d
  | p :: rest =>
    let n := p.mb.val
    let m := 3 + k
    let refuse := if d.mbSize n ≤ p.w.val then some 3 else d.mbRefuses n
    let d := d.setEng k { e with postq := rest }
    match refuse with
    | some c => (d.modEng k fun e => { e with postRefused := Nat.min 255 (e.postRefused + 1) }).errTo m c (mbDataAt n p.w.val)
    | none =>
      let d := (d.setReg (mbDataAt n p.w.val) p.data).mbWrote m n p.w.val
      if p.go then d.mbGo m n else d

/-! ## Resets and power-down (R392, R400) -/

/-- The receivers that meet a condition go off: a full mailbox addressed to one is held, marked STALE_RX (R400). -/
def Dev.mbStale (d : Dev) (off : Nat → Bool) : Dev :=
  let hit := (List.range 32).filter fun n => (d.mb n).full && off (d.mbRx n)
  let d := hit.foldl (fun d n => d.setMb n { d.mb n with stale := true }) d
  d.raiseIf (!hit.isEmpty) A.mbxStat 0x1

/-- MBX_Mn_CTRL as it reads. -/
def Dev.mbCtrl (d : Dev) (n : Nat) : Word :=
  let x := d.mb n
  wd (x.mseq.toNat * 2 ^ 16 + 8 * x.mixed.toNat + 4 * x.stale.toNat + x.full.toNat)

/-- MBX_HOSTFULL (R394). -/
def Dev.hostFull (d : Dev) : Word :=
  wd ((List.range 32).foldl (fun a n => a + if (d.mb n).full && d.mbRx n == 0 then 2 ^ n else 0) 0)

end Sys2Proof.Machine
end

