-- ==== Sys2Proof/Machine/Crypto.lean ====
section
/-! DEFINITION. Byte strings, the two cyclic redundancy checks (R364, R381) and HMAC-SHA-256 (R573). -/
namespace Sys2Proof.Machine

/-! ## Byte strings -/

/-- The n bytes of a number, least significant byte first. -/
def leBytes : Nat → Nat → List Byte
  | 0, _ => []
  | n + 1, v => BitVec.ofNat 8 v :: leBytes n (v / 256)

/-- The number of a byte string, least significant byte first. -/
def leNat : List Byte → Nat
  | [] => 0
  | b :: r => b.toNat + 256 * leNat r

/-- The n bytes of a number, most significant byte first. -/
def beBytes (n v : Nat) : List Byte := (leBytes n v).reverse

/-- The number of a byte string, most significant byte first. -/
def beNat (l : List Byte) : Nat := leNat l.reverse

/-- The words of a byte string, byte 4n + i in bits [8i+7:8i] of word n. -/
def leWords (n : Nat) (l : List Byte) : List Word := (List.range n).map fun k => wd (leNat ((l.drop (4 * k)).take 4))

/-- The bytes of words, byte 4n + i from bits [8i+7:8i] of word n. -/
def wordBytes (l : List Word) : List Byte := l.flatMap fun w => leBytes 4 w.toNat

/-! ## Cyclic redundancy checks -/

/-- One bit of the reflected CRC-32C with polynomial 0x1EDC6F41 (R381). -/
def crc32cBit (c : Word) : Word := if bit c 0 then (c >>> 1) ^^^ 0x82F63B78#32 else c >>> 1

/-- A function of a word, by cases on the word's number: an evaluation computes the word before it goes on, whatever its size. -/
def onWord {α : Type} (w : Word) (f : Word → α) : α :=
  match w.toNat with
  | 0 => f 0#32
  | n + 1 => f (BitVec.ofNat 32 (n + 1))

/-- The register of the CRC-32C after a byte string. -/
def crc32cFrom (c : Word) : List Byte → Word
  | [] => c
  | b :: r => onWord (Nat.repeat crc32cBit 8 (c ^^^ b.setWidth 32)) fun c => crc32cFrom c r

/-- CRC-32C of a byte string. -/
def crc32c (l : List Byte) : Word := ~~~ crc32cFrom 0xFFFFFFFF#32 l

/-- One bit of the CRC-16 with polynomial 0x1021. -/
def crc16Bit (c : BitVec 16) : BitVec 16 := if c.getLsbD 15 then (c <<< 1) ^^^ 0x1021#16 else c <<< 1

/-- CRC-16 of a byte string from an initial value, most significant bit first (R364). -/
def crc16 (init : BitVec 16) (l : List Byte) : BitVec 16 :=
  l.foldl (fun (c : BitVec 16) (b : Byte) => Nat.repeat crc16Bit 8 (c ^^^ (b.setWidth 16 <<< 8))) init

/-! ## SHA-256 and HMAC (R573)

The constants are computed from what defines them, the roots of the first primes, and a chaining value is a list of eight words. -/

/-- The floor of the k-th root of n, from its bits below 2^m, the highest first. -/
def rootFloor (k n : Nat) : Nat → Nat → Nat
  | 0, r => r
  | m + 1, r => rootFloor k n m (if (r + 2 ^ m) ^ k ≤ n then r + 2 ^ m else r)

/-- The first 32 bits of the fraction of the k-th root of p. -/
def rootWord32 (k p : Nat) : Word := wd (rootFloor k (p * 2 ^ (32 * k)) 37 0 % 2 ^ 32)

/-- The 64 primes below 312: a number below 19² is prime when no prime up to 17 divides it. -/
def primes312 : List Nat :=
  [2, 3, 5, 7, 11, 13, 17] ++ (List.range 312).filter fun p => 1 < p && Nat.gcd p 510510 == 1

/-- The round constants, from the cube roots. -/
def hashRounds : List Word := primes312.map (rootWord32 3)

/-- The chaining value before the first block, from the square roots. -/
def hashStart : List Word := (primes312.take 8).map (rootWord32 2)

/-- The exclusive or of three rotations of a word, a rotation of 32 + n standing for a shift by n. -/
def spread (r : Nat × Nat × Nat) (w : Word) : Word :=
  let turn := fun (n : Nat) => if n < 32 then w.rotateRight n else w >>> (n - 32)
  turn r.1 ^^^ turn r.2.1 ^^^ turn r.2.2

/-- A block's sixteen words and the n that follow from them; `past` holds them the other way round. -/
def stretch : Nat → List Word → List Word
  | 0, past => past.reverse
  | n + 1, past =>
    let back := fun (k : Nat) => past.getD (k - 1) 0
    stretch n ((spread (17, 19, 42) (back 2) + back 7 + (spread (7, 18, 35) (back 15) + back 16)) :: past)

/-- One round: the sum of the schedule word and its constant comes in at the front of each half of the eight words. -/
def hashRound (v : List Word) (x : Word) : List Word :=
  match v with
  | [p0, p1, p2, p3, q0, q1, q2, q3] =>
    let fresh := x + q3 + (q2 ^^^ (q0 &&& (q1 ^^^ q2))) + spread (6, 11, 25) q0
    let voted := (p0 &&& p1) ||| (p2 &&& (p0 ||| p1))
    [fresh + voted + spread (2, 13, 22) p0, p0, p1, p2, p3 + fresh, q0, q1, q2]
  | _ => v

/-- One block of sixteen words, given the last first. -/
def hashBlock (v past : List Word) : List Word :=
  let mixed := (List.zipWith (· + ·) hashRounds (stretch 48 past)).foldl hashRound v
  List.zipWith (· + ·) v mixed

/-- The words of a byte string, most significant byte first, by count. -/
def beWords : Nat → List Byte → List Word
  | 0, _ => []
  | n + 1, l => wd (beNat (l.take 4)) :: beWords n (l.drop 4)

/-- The chaining value after n blocks of words. -/
def hashBlocks : Nat → List Word → List Word → List Word
  | 0, _, v => v
  | n + 1, ws, v => hashBlocks n (ws.drop 16) (hashBlock v (ws.take 16).reverse)

/-- SHA-256 of a byte string: a one bit and zeros up to a whole block that ends with the length in bits. -/
def sha256 (l : List Byte) : List Byte :=
  let n := (l.length + 72) / 64
  let padded := l ++ (0x80#8 :: List.replicate (64 * n - 9 - l.length) 0) ++ beBytes 8 (8 * l.length)
  (hashBlocks n (beWords (16 * n) padded) hashStart).flatMap fun w => beBytes 4 w.toNat

/-- HMAC-SHA-256 with a key of at most 64 bytes. -/
def hmac (key msg : List Byte) : List Byte :=
  let masked := fun (m : Byte) => (key ++ List.replicate (64 - key.length) 0).map (m ^^^ ·)
  sha256 (masked 0x5C ++ sha256 (masked 0x36 ++ msg))

end Sys2Proof.Machine
end

