-- ==== Sys2Proof/Machine/Nvm.lean ====
section
/-! DEFINITION. The ferroelectric store: bytes and pages, the two codes, the open page, remap and scrub, the ratchet counters
and the record slots (R407-R444). Nothing but `Nvm.putByte` changes a byte of the array, and a reset that meets its writes (R419). -/
namespace Sys2Proof.Machine

def Chip.onDev (c : Chip) (f : Dev → Dev) : Chip := { c with dev := f c.dev }
def Chip.onNvm (c : Chip) (f : Nvm → Nvm) : Chip := { c with nvm := f c.nvm }

/-! ## Bytes of the array (R407, R412) -/

/-- The canonical form of the array's bytes: addresses rise, and no byte is listed that reads as 0x00, what every byte of a
new part is (R412). -/
def Memory.wf (m : List Host.Cell) : Bool := SMap.wf (0 : Byte) m

/-- A byte of the array, by physical page times 256 plus offset. -/
def Nvm.byteAt (n : Nvm) (a : Nat) : Byte := SMap.get 0 n.mem a

/-- Write a byte of the array. -/
def Nvm.putByte (n : Nvm) (a : Nat) (b : Byte) : Nvm := { n with mem := SMap.set 0 n.mem a b }

/-- Write bytes at ascending addresses. -/
def Nvm.putBytes (n : Nvm) (a : Nat) : List Byte → Nvm
  | [] => n
  | b :: r => (n.putByte a b).putBytes (a + 1) r

/-- The physical page of a page of the window: a remapped page keeps its window address (R426). -/
def Nvm.phys (n : Nvm) (p : Nat) : Nat :=
  match n.remapNow.find? fun (e : Nat × Nat) => e.1 == p with
  | some e => 0x400 + e.2
  | none => p

/-- A page's CW32 and CW33; a new page is closed with every byte 0x00, whose check bytes are 0 (R412). -/
def Nvm.page (n : Nvm) (ph : Nat) : PageState := SMap.get { isOpen := false, closes := 0, check := 0 } n.pages ph
def Nvm.setPage (n : Nvm) (ph : Nat) (s : PageState) : Nvm :=
  { n with pages := SMap.set { isOpen := false, closes := 0, check := 0 } n.pages ph s }

/-- The bytes of a page. -/
def Nvm.pageBytes (n : Nvm) (ph : Nat) : List Byte := (List.range 256).map fun o => n.byteAt (256 * ph + o)

/-! ## Write pulses (R417, R419, R420)

Each write pulse first keeps what the array holds: a reset that meets the command leaves one of the states kept, or the last one. -/

/-- A write pulse begins: the codeword reads wholly old or wholly new after a reset. -/
def Nvm.pulse (n : Nvm) : Nvm := { n with flight := n.flight ++ [n.toStored] }

/-- A write pulse begins that a reset may also leave in a state of its own. -/
def Nvm.pulseBy (n : Nvm) (f : Stored → Stored) : Nvm := { n with flight := n.flight ++ [n.toStored, f n.toStored] }

/-- After a command that wrote the array, only its own pulses count: those of the commands before it are long over. -/
def Chip.flown (c c' : Chip) : Chip :=
  if c'.nvm.flight.length ≤ c.nvm.flight.length || !c.nvm.flight.isPrefixOf c'.nvm.flight then c'
  else c'.onNvm fun n => { n with flight := n.flight.drop c.nvm.flight.length, flightAt := c'.dev.now }

/-! ## Codewords that do not read clean (R413) -/

/-- How the codewords of a page read, where one does not read clean. -/
def Nvm.pageErrs (n : Nvm) (ph : Nat) : CwErrs := SMap.get [] n.errs ph
def Nvm.setErrs (n : Nvm) (ph : Nat) (e : CwErrs) : Nvm := { n with errs := SMap.set [] n.errs ph e }

/-- What a read finds of a page stays so until the codewords are written (log entry 53). -/
def Nvm.found (n : Nvm) (ph : Nat) (e : CwErrs) : Nvm :=
  if e.isEmpty then n
  else n.setErrs ph (e ++ (n.pageErrs ph).filter fun (o : Fin 34 × CwRead) => !e.any fun (x : Fin 34 × CwRead) => x.1 == o.1)

/-- A codeword is written anew. -/
def Nvm.clearErr (n : Nvm) (ph k : Nat) : Nvm :=
  if (n.pageErrs ph).isEmpty then n else n.setErrs ph ((n.pageErrs ph).filter fun (e : Fin 34 × CwRead) => e.1.val != k)

/-! ## The outer code (R414) -/

/-- The double of an element of GF(2^8), by the field polynomial x^8 + x^4 + x^3 + x^2 + 1. -/
def gfDouble (a : Nat) : Nat := if 2 * a < 256 then 2 * a else Nat.xor (2 * a) 0x11D

/-- The product of two elements, from the low n bits of the second. -/
def gfMulBy : Nat → Nat → Nat → Nat → Nat
  | 0, _, _, r => r
  | n + 1, a, b, r => gfMulBy n (gfDouble a) (b / 2) (if b % 2 = 1 then Nat.xor r a else r)

def gfMul (a b : Nat) : Nat := gfMulBy 8 a b 0

/-- A polynomial, the constant term first, times (x + r). -/
def gfTimesRoot (g : List Nat) (r : Nat) : List Nat := List.zipWith Nat.xor (0 :: g) (g.map (gfMul r) ++ [0])

/-- The generator polynomial with the roots α^0 to α^3. -/
def rsGenerator : List Nat := [1, 2, 4, 8].foldl gfTimesRoot [1]

/-- One byte enters the division by the generator; the remainder holds its highest power first. -/
def rsStep (r : List Nat) (b : Nat) : List Nat :=
  let f := Nat.xor b (r.headD 0)
  List.zipWith Nat.xor (r.tail ++ [0]) (rsGenerator.reverse.tail.map (gfMul f))

/-- The four check bytes of 128 bytes. -/
def rsCheck (l : List Nat) : List Nat := l.foldl rsStep [0, 0, 0, 0]

/-- CW32 of a page: bytes 0-3 for the even offsets, bytes 4-7 for the odd ones. The place of a byte in its Reed-Solomon word and the order
of the four check bytes are not stated: the lowest offset stands at the highest power (log entry 53). -/
def pageCheck (l : List Byte) : BitVec 64 :=
  let of := fun (par : Nat) => rsCheck ((List.range 128).map fun i => (l.getD (2 * i + par) 0).toNat)
  BitVec.ofNat 64 (leNat ((of 0 ++ of 1).map (BitVec.ofNat 8)))

/-! ## The two codes (R413, R414, R422, R423) -/

/-- What reading a page finds: codewords the inner code corrected, bytes the outer code corrected, the STATUS code, whether
CW33 reads open or fails, which of CW0-CW33 pass their inner code, the data codewords that fail it and are not restored,
whether one fails it at all, whether the outer code holds for the even and the odd offsets, and the bytes returned. -/
structure PageRead where
  inner : Nat
  outer : Nat
  status : Nat
  torn : Bool
  pass : List Bool
  lost : List Nat
  failed : Bool
  okEven : Bool
  okOdd : Bool
  data : List Byte

/-- How a codeword reads. -/
def cwRead (errs : CwErrs) (k : Nat) : Option CwRead := (errs.find? fun (e : Fin 34 × CwRead) => e.1.val == k).map Prod.snd

/-- The bits by which the codeword's data differs from what was written. -/
def cwMask : Option CwRead → Nat
  | some (.failed m) => m.toNat
  | some (.wrong m) => m.toNat
  | _ => 0

def cwFails : Option CwRead → Bool
  | some (.failed _) => true
  | _ => false

/-- Byte i of a codeword's difference. -/
def cwByte (r : Option CwRead) (i : Nat) : Nat := cwMask r / 256 ^ i % 256

/-- The bytes of one interleave among eight that differ: even offsets or odd ones. -/
def cwWrong (r : Option CwRead) (par : Nat) : Nat :=
  if cwFails r then 0 else ((List.range 8).filter fun i => i % 2 == par && cwByte r i != 0).length

/-- Whether one interleave can be corrected: e erased bytes and t byte errors with e + 2t at most 4 (R414). `held`: the
controller holds the check bytes of the open page (R416). -/
def outerOk (errs : CwErrs) (held : Bool) (par : Nat) : Bool :=
  let data := (List.range 32).map (cwRead errs)
  let chk := if held then none else cwRead errs 32
  let e := 4 * (data.filter cwFails).length + (if cwFails chk then 4 else 0)
  let tChk := if cwFails chk then 0 else ((List.range 4).filter fun i => cwByte chk (4 * par + i) != 0).length
  let t := (data.map fun r => cwWrong r par).foldl (· + ·) tChk
  decide (e + 2 * t ≤ 4)

/-- Whether CW33 reads MARK = open (R421). -/
def readsOpen (isOpen : Bool) (errs : CwErrs) : Bool :=
  !cwFails (cwRead errs 33) && Nat.xor (if isOpen then 0x0BE7 else 0xC10D) (cwMask (cwRead errs 33) / 2 ^ 48) == 0x0BE7

/-- Whether CW33 reads open or fails its inner code (R423). -/
def tornBit (isOpen : Bool) (errs : CwErrs) : Bool := cwFails (cwRead errs 33) || readsOpen isOpen errs

/-- Read a page with both codes; without the outer code when it is TORN, which the open page is not (R416, R422). A failed
codeword with an interleave beyond correction is returned as stored. -/
def Nvm.decode (n : Nvm) (ph : Nat) (held : Bool) : PageRead :=
  let errs := n.pageErrs ph
  let tb := tornBit (n.page ph).isOpen errs
  let torn := tb && !held
  let fits := errs.isEmpty || held || (n.page ph).check == pageCheck (n.pageBytes ph)
  let ok0 := !torn && fits && outerOk errs held 0
  let ok1 := !torn && fits && outerOk errs held 1
  let idx := List.range 32
  let fails := idx.filter fun k => cwFails (cwRead errs k)
  let lost := if ok0 && ok1 then [] else fails
  let wrongLeft := !torn && idx.any fun k => (cwWrong (cwRead errs k) 0 != 0 && !ok0) || (cwWrong (cwRead errs k) 1 != 0 && !ok1)
  let inner := ((List.range 34).filter fun k => cwRead errs k == some .corrected).length
  let fixed := fun (par : Nat) (ok : Bool) =>
    if ok then (idx.map fun k => if cwFails (cwRead errs k) then (if ok0 && ok1 then 4 else 0) else cwWrong (cwRead errs k) par).foldl (· + ·) 0
    else 0
  let outer := fixed 0 ok0 + fixed 1 ok1
  let chk := if held then none else cwRead errs 32
  { inner := inner
    outer := outer
    status := if !lost.isEmpty || wrongLeft then 3 else if torn then 2
              else if inner != 0 || outer != 0 || cwFails chk || cwMask chk != 0 then 1 else 0
    torn := tb
    pass := (List.range 34).map fun k => !cwFails (cwRead errs k)
    lost := lost
    failed := !fails.isEmpty
    okEven := ok0
    okOdd := ok1
    data := (List.range 256).map fun o =>
      let r := cwRead errs (o / 8)
      let asStored := if cwFails r then !(ok0 && ok1) else if o % 2 = 0 then !ok0 else !ok1
      if asStored then n.byteAt (256 * ph + o) ^^^ BitVec.ofNat 8 (cwByte r (o % 8)) else n.byteAt (256 * ph + o) }

/-- What a page read counts: corrections, the TORN page, and the lost codewords whose bytes it returns (R422, R423). -/
def Dev.pageCounts (d : Dev) (r : PageRead) (torn : Bool) (returned : Nat → Bool) : Dev :=
  let bad := (r.lost.filter returned).length
  let d := d.count A.nvmEccinner 31 0 r.inner
  let d := if r.outer = 0 then d else d.count A.nvmEccouter 31 0 1
  let d := d.raiseIf torn A.nvmStat 0x01
  (d.count A.nvmUncorrcnt 31 0 bad).raiseIf (decide (bad ≠ 0)) A.nvmStat 0x02

/-- Read a page of the window by its present mapping, with its counts; `errs` is what the read finds new. -/
def Chip.readPage (c : Chip) (p : Nat) (errs : CwErrs) (returned : Nat → Bool) : PageRead × Chip :=
  let held := c.nvm.openPage == some p
  let c := c.onNvm fun n => n.found (n.phys p) errs
  let r := c.nvm.decode (c.nvm.phys p) held
  (r, c.onDev fun d => d.pageCounts r (r.torn && !held) returned)

/-- Read n bytes of the array window at an offset (R409, R422). -/
def Chip.arrayRead (c : Chip) (off n : Nat) (errs : CwErrs) : List Byte × Chip :=
  let (r, c) := c.readPage (off / 256) errs fun k => k == off % 256 / 8
  ((r.data.drop (off % 256)).take n, c)

/-! ## The open page (R415, R416, R421) -/

/-- What is left of a codeword's difference from what was written, once the contents as they stand are taken for what was written. -/
def keepDiff (even odd : Bool) (e : Fin 34 × CwRead) : Option (Fin 34 × CwRead) :=
  if 32 ≤ e.1.val then some e
  else match e.2 with
    | .corrected => some e
    | .failed _ => some (e.1, .failed 0)
    | .wrong m =>
      let m := m &&& ((if even then 0x00FF00FF00FF00FF#64 else 0) ||| (if odd then 0xFF00FF00FF00FF00#64 else 0))
      if m = 0 then none else some (e.1, .wrong m)

/-- Check bytes are about to be computed over the contents of a page: what the outer code does not restore stands as it is stored. -/
def Nvm.settle (n : Nvm) (ph : Nat) (held : Bool) : Nvm :=
  if (n.pageErrs ph).isEmpty then n
  else
    let r := n.decode ph held
    if r.okEven && r.okOdd then n
    else (n.putBytes (256 * ph) r.data).setErrs ph ((n.pageErrs ph).filterMap (keepDiff r.okEven r.okOdd))

/-- CW33 is written with MARK = open; opening a TORN page is counted (R415, R421). -/
def Chip.openCw (c : Chip) (ph : Nat) : Chip :=
  let e := c.nvm.pageErrs ph
  let o := (c.nvm.page ph).isOpen
  { dev := if readsOpen o e then c.dev.count A.nvmTorncnt 31 0 1 else c.dev
    nvm :=
      let n := (if tornBit o e then c.nvm.settle ph false else c.nvm).pulse
      (n.clearErr ph 33).setPage ph { n.page ph with isOpen := true } }

/-- A page is closed: CW32 with the check bytes of its contents, then CW33 with the close count advanced (R412, R415). -/
def Nvm.closeCw (n : Nvm) (ph : Nat) : Nvm :=
  let n := (n.settle ph true).pulse
  let n := ((n.clearErr ph 32).setPage ph { n.page ph with check := pageCheck (n.pageBytes ph) }).pulse
  (n.clearErr ph 33).setPage ph { n.page ph with isOpen := false, closes := ((n.page ph).closes + 1) % 2 ^ 48 }

/-- Close the open page, where there is one. -/
def Nvm.closeOpen (n : Nvm) : Nvm :=
  match n.openPage with
  | none => n
  | some p => { n.closeCw (n.phys p) with openPage := none }

/-- Open a page for a write: another open page is closed first. -/
def Chip.openFor (c : Chip) (p : Nat) : Chip :=
  if c.nvm.openPage = some p then c
  else
    let c := c.onNvm Nvm.closeOpen
    (c.openCw (c.nvm.phys p)).onNvm fun n => { n with openPage := some p }

/-- One codeword of the open page is written: bytes from an offset on, merged into what it reads (R417). -/
def Nvm.putCw (n : Nvm) (ph k start : Nat) (bytes : List Byte) : Nvm :=
  let n := n.pulse
  let n := if (cwRead (n.pageErrs ph) k).isNone then n
           else n.putBytes (256 * ph + 8 * k) (((n.decode ph true).data.drop (8 * k)).take 8)
  (n.clearErr ph k).putBytes (256 * ph + start) bytes

/-- Bytes written into the open page, each codeword that they touch once, in ascending order (R417). -/
def Nvm.storeIn (n : Nvm) (ph off : Nat) (bytes : List Byte) : Nvm :=
  (List.range ((off % 8 + bytes.length + 7) / 8)).foldl (fun (n : Nvm) (j : Nat) =>
    let k := off / 8 + j
    let start := Nat.max off (8 * k)
    n.putCw ph k start ((bytes.drop (start - off)).take (8 * k + 8 - start))) n

/-! ## Copies with a sequence number (R426, R578) -/

/-- The CRC-32C of a copy, over its sequence number and contents; `enc` gives the bytes of the contents. -/
def copySum {α : Type} (enc : α → List Byte) (seq : Nat) (v : α) : Word := crc32c (leBytes 4 seq ++ enc v)

/-- Whether a copy is valid. -/
def Copy.ok {α : Type} (enc : α → List Byte) (c : Copy α) : Bool := !c.bad && c.crc == copySum enc c.seq c.val

/-- Whether the first of two copies is the newest valid one. -/
def Copy.firstNewest {α : Type} (enc : α → List Byte) (a b : Copy α) : Bool :=
  a.ok enc && (!b.ok enc || decide (b.seq < a.seq))

/-- The newest valid of two copies. -/
def Copy.newest {α : Type} (enc : α → List Byte) (a b : Copy α) : Option (Copy α) :=
  if Copy.firstNewest enc a b then some a else if b.ok enc then some b else none

/-- Overwrite the older of two copies with a new value and the next sequence number. -/
def Copy.put {α : Type} (enc : α → List Byte) (a b : Copy α) (v : α) : Copy α × Copy α :=
  let seq := match Copy.newest enc a b with | some k => (k.seq + 1) % 2 ^ 32 | none => 1
  let c : Copy α := ⟨seq, copySum enc seq v, false, v⟩
  if Copy.firstNewest enc a b then (a, c) else (c, b)

/-- The older of two copies with its write cut short. -/
def Copy.torn {α : Type} (enc : α → List Byte) (a b : Copy α) : Copy α × Copy α :=
  if Copy.firstNewest enc a b then (a, { b with bad := true }) else ({ a with bad := true }, b)

/-- The bytes of the tables that are kept in copies. Only their CRC depends on them (log entry 53). -/
def remapImage (l : List (Nat × Nat)) : List Byte := l.flatMap fun (e : Nat × Nat) => leBytes 2 e.1 ++ leBytes 2 e.2
def sealImage (b : Bool) : List Byte := [BitVec.ofNat 8 b.toNat]
def stressImage (m : SMap Nat) : List Byte := m.flatMap fun (e : Nat × Nat) => leBytes 2 e.1 ++ leBytes 4 e.2

def Stored.remapCopy (n : Stored) : Option (Copy (List (Nat × Nat))) := Copy.newest remapImage n.remapA n.remapB
def Stored.pmapCopy (n : Stored) : Option (Copy (List Word)) := Copy.newest wordBytes n.pmapA n.pmapB
def Stored.sealCopy (n : Stored) : Option (Copy Bool) := Copy.newest sealImage n.sealA n.sealB
def Stored.stressCopy (n : Stored) : Option (Copy (SMap Nat)) := Copy.newest stressImage n.stressA n.stressB

/-! ## Spare pages (R426, R427) -/

/-- The spares in use (NVM_SPARE). -/
def Nvm.spareUsed (n : Nvm) (s : Nat) : Bool :=
  n.remapNow.any (fun (e : Nat × Nat) => e.2 == s) || n.remapRun.any fun (e : Nat × Nat) => e.2 == s

/-- The next free spare: the lowest. -/
def Nvm.freeSpare (n : Nvm) : Option Nat := (List.range 32).find? fun s => !n.spareUsed s

/-- Write a spare with the decoded data and close it (R427, step 2). -/
def Chip.fillSpare (c : Chip) (s : Nat) (data : List Byte) : Chip :=
  (c.openCw (0x400 + s)).onNvm fun n => (n.storeIn (0x400 + s) 0 data).closeCw (0x400 + s)

/-- The new table overwrites the older copy and takes effect (R427, steps 3 and 4). -/
def Chip.mapSpare (c : Chip) (p s : Nat) : Chip :=
  let t := c.nvm.remapNow.filter (fun (e : Nat × Nat) => e.1 != p) ++ [(p, s)]
  { dev := c.dev.raiseSq A.nvmStat (if 28 ≤ t.length then 0x50 else 0x10)
    nvm :=
      let n := c.nvm.pulseBy fun x => let (a, b) := Copy.torn remapImage x.remapA x.remapB; { x with remapA := a, remapB := b }
      let (a, b) := Copy.put remapImage n.remapA n.remapB t
      { n with remapA := a, remapB := b, remapNow := t, remapRun := none } }

/-- Complete the remap in progress. -/
def Chip.remapFinish (c : Chip) : Chip :=
  match c.nvm.remapRun with
  | none => c
  | some (p, s) => c.mapSpare p s

/-- A page that is being remapped is waited for (R429, R444). -/
def Chip.remapWait (c : Chip) (p : Nat) : Chip := if c.nvm.remapRun.any fun (e : Nat × Nat) => e.1 == p then c.remapFinish else c

/-- Start a remap of a page (R427): refused for a TORN page and with no free spare. -/
def Chip.remapStart (c : Chip) (p : Nat) (errs : CwErrs) : Chip :=
  let c := c.remapFinish.onNvm Nvm.closeOpen
  let (r, c) := c.readPage p errs fun _ => false
  match c.nvm.freeSpare with
  | some s => if r.torn then c.onDev fun d => d.raiseSq A.nvmStat 0x20
              else (c.fillSpare s r.data).onNvm fun n => { n with remapRun := some (p, s) }
  | none => c.onDev fun d => d.raiseSq A.nvmStat 0x20

/-! ## Scrub (R428, R429) -/

/-- The corrected codewords of a page are rewritten and the page is closed. -/
def Chip.rewritePage (c : Chip) (ph : Nat) : Chip :=
  (c.openCw ph).onNvm fun n =>
    ((List.range 32).foldl (fun (n : Nvm) (k : Nat) => if (cwRead (n.pageErrs ph) k).isNone then n else n.pulse.clearErr ph k) n).closeCw ph

/-- One more in the tally of a scrub: pages rewritten, TORN, remapped. -/
def Nvm.tally (n : Nvm) (a b k : Nat) : Nvm :=
  { n with scrubTally := (n.scrubTally.1 + a, n.scrubTally.2.1 + b, n.scrubTally.2.2 + k) }

/-- The scrub's step on one page (R428). A page written between its read and its rewrite is left unchanged; one that reads clean has no
action. -/
def Chip.scrubPage (c : Chip) (p : Nat) : Chip :=
  let c := c.remapWait p
  let ph := c.nvm.phys p
  if (c.nvm.pageErrs ph).isEmpty && !(c.nvm.page ph).isOpen then c
  else
    let (r, c) := c.readPage p [] fun _ => false
    let lim := c.dev.rf A.nvmCfg 3 0
    if r.torn then c.onNvm (·.tally 0 1 0)
    else if r.status = 0 || c.nvm.scrubDirty.contains p then c
    else if r.status = 1 && (lim = 0 || r.outer < lim) && !r.failed then (c.rewritePage ph).onNvm (·.tally 1 0 0)
    else
      match c.nvm.freeSpare with
      | none => c.onDev fun d => d.raiseSq A.nvmStat 0x20
      | some s => ((c.fillSpare s r.data).mapSpare p s).onNvm (·.tally 0 0 1)

/-- The scrub goes on up to a page; a step closes the open page first (R416). -/
def Chip.scrubTo (c : Chip) (upto : Nat) : Chip :=
  if upto ≤ c.nvm.scrubNext then c
  else
    ((List.range (upto - c.nvm.scrubNext)).foldl (fun (x : Chip) (i : Nat) => x.scrubPage (c.nvm.scrubNext + i)) (c.onNvm Nvm.closeOpen)).onNvm
      fun n => { n with scrubNext := upto }

/-- A write meets a page that a running scrub has not passed. How far the scrub has come is not stated, so a free value says it: not to
the page; it has read the page and not rewritten it; or it has passed it (R428, log entry 53). -/
def Chip.scrubMeet (c : Chip) (p : Nat) : Chip :=
  if !c.nvm.scrubbing || p < c.nvm.scrubNext then c
  else
    let (v, d) := c.dev.free
    let c := { c with dev := d }
    match v % 3 with
    | 0 => c
    | 1 => (c.onNvm fun n => { n with scrubDirty := p :: n.scrubDirty }).scrubTo (p + 1)
    | _ => c.scrubTo (p + 1)

/-- The scrub ends (R428): the pages that remain, in ascending order, with what is found in them by physical page. -/
def Chip.scrubDone (c : Chip) (errs : List (Nat × CwErrs)) : Chip :=
  if !c.nvm.scrubbing then c
  else
    let c := (c.onNvm fun n => errs.foldl (fun (n : Nvm) (e : Nat × CwErrs) => n.found e.1 e.2) n).scrubTo 0x400
    let t := c.nvm.scrubTally
    { dev := (c.dev.setReg A.nvmScrubstat (wd (satNat 12 t.1 * 2 ^ 20 + satNat 12 t.2.1 * 2 ^ 8 + satNat 6 t.2.2))).raiseSq A.nvmStat 0x08
      nvm := { c.nvm with scrubbing := false, scrubNext := 0, scrubDirty := [], scrubTally := (0, 0, 0) } }

/-- A SCRUB command (R428, R429). -/
def Chip.scrubStart (c : Chip) : Chip :=
  if c.nvm.scrubbing then c.onDev fun d => d.raiseSq A.nvmStat 0x80
  else c.onNvm fun n => { n.closeOpen with scrubbing := true, scrubNext := 0, scrubDirty := [], scrubTally := (0, 0, 0) }

/-! ## Writing the array (R415, R417, R421, R424) -/

/-- Write bytes within one page. A write to a page that is being remapped waits and goes to the spare (R444). -/
def Chip.store (c : Chip) (off : Nat) (bytes : List Byte) : Chip :=
  let p := off / 256
  (((c.remapWait p).scrubMeet p).openFor p).onNvm fun n => n.storeIn (n.phys p) (off % 256) bytes

/-- The records that the system region holds (R408), each with a page of its own: which pages they take is not stated (log entry 53). -/
inductive SysRec where
  | keys | areas | profiles | fails | seals | maps | journal | log | stress | waves
deriving DecidableEq, Repr

def SysRec.page (r : SysRec) : Nat := 0x3F0 + r.ctorIdx

/-- Store a record of the system region: its page is opened, the record written, and the page closed. `torn` is what a reset may leave
of the record, beside its old and its new contents; the page's bytes are free values (R408, R415, R416, log entry 53). -/
def Chip.sysStore (c : Chip) (r : SysRec) (torn : List (Stored → Stored)) (full : Stored → Stored) : Chip :=
  let c := (((c.onNvm Nvm.closeOpen).remapWait r.page).scrubMeet r.page).openFor r.page
  c.onNvm fun n =>
    let n := (torn.foldl Nvm.pulseBy n).pulse
    let n := n.putBytes (256 * n.phys r.page) ((List.range 256).map (Config.sysByte n.sysStores))
    ({ n with toStored := full n.toStored, sysStores := n.sysStores + 1 } : Nvm).closeOpen

/-- Whether a page lies in an enabled write-protect range (R425). -/
def Dev.writeProtected (d : Dev) (p : Nat) : Bool :=
  (List.range 4).any fun k => let w := d.reg (A.nvmWPn k); bit w 31 && decide (fld w 9 0 ≤ p) && decide (p ≤ fld w 25 16)

/-- A failing write of the array is recorded for its master (R424). -/
def Dev.failAddr (d : Dev) (m cause addr : Nat) : Dev :=
  d.setIreg m A.nvmFailaddr (wd (2 ^ 31 + cause * 2 ^ 24 + addr % 2 ^ 24))

/-! ## Ratchet counters (R430-R437) -/

/-- The check field of a base slot (R430). -/
def slotChk (value gen : Nat) : Nat := (crc32c (leBytes 8 value ++ leBytes 7 gen)).toNat % 2 ^ 12

def slotGen (s : BitVec 64 × BitVec 64) : Nat := s.2.toNat % 2 ^ 52
def slotValid (s : BitVec 64 × BitVec 64) : Bool := s.2.toNat / 2 ^ 52 == slotChk s.1.toNat (slotGen s)

/-- A base slot with its check field. -/
def slotMake (value gen : Nat) : BitVec 64 × BitVec 64 :=
  (BitVec.ofNat 64 value, BitVec.ofNat 64 (slotChk (value % 2 ^ 64) (gen % 2 ^ 52) * 2 ^ 52 + gen % 2 ^ 52))

/-- A cell as an increment writes it. -/
def cellMake (k gen : Nat) : BitVec 64 := BitVec.ofNat 64 (k * 2 ^ 58 + 2 * 2 ^ 56 + gen % 2 ^ 52)

def cellMarked (c : BitVec 64) : Bool := c.toNat / 2 ^ 56 % 4 == 2

/-- Whether cell k counts for a generation (R431). -/
def cellCounts (k gen : Nat) (c : BitVec 64) : Bool := c.toNat / 2 ^ 58 == k && cellMarked c && c.toNat % 2 ^ 52 == gen

/-- Whether a codeword of a counter passes its inner code: 0-63 the cells, 64 and 65 slot A, 66 and 67 slot B. -/
def Ratchet.passes (r : Ratchet) (word : Nat) : Bool := !r.bad.contains word

/-- Whether both codewords of slot A (0) or B (1) pass their inner code. -/
def Ratchet.slotPasses (r : Ratchet) (s : Nat) : Bool := r.passes (64 + 2 * s) && r.passes (65 + 2 * s)

/-- Slot A (0) or B (1), and whether it is valid (R431). -/
def Ratchet.slot (r : Ratchet) (s : Nat) : BitVec 64 × BitVec 64 := if s = 0 then r.slotA else r.slotB
def Ratchet.slotOk (r : Ratchet) (s : Nat) : Bool := r.slotPasses s && slotValid (r.slot s)

/-- Whether slot s shows damage beside the other, valid slot: its codewords pass, its GEN is greater and its CHK fails (R436). -/
def Ratchet.slotDamaged (r : Ratchet) (s : Nat) : Bool :=
  r.slotOk (1 - s) && r.slotPasses s && !slotValid (r.slot s) && decide (slotGen (r.slot (1 - s)) < slotGen (r.slot s))

/-- The cache of a counter (R431, R434, R436): VALUE, GEN, whether the newest slot is B, k, and whether it is damaged. A cell that fails
its inner code shows no MARK. -/
def Ratchet.scan (r : Ratchet) : BitVec 64 × Nat × Bool × Nat × Bool :=
  let va := r.slotOk 0
  let vb := r.slotOk 1
  let isB := vb && (!va || decide (slotGen r.slotA < slotGen r.slotB))
  let value := if isB then r.slotB.1 else if va then r.slotA.1 else 0
  let gen := if isB then slotGen r.slotB else if va then slotGen r.slotA else 0
  let k := r.cells.foldl (fun (m : Nat) (e : Nat × BitVec 64) => if r.passes e.1 && cellCounts e.1 gen e.2 then Nat.max m (e.1 + 1) else m) 0
  let damaged :=
    if !va && !vb then r.cells.any fun (e : Nat × BitVec 64) => r.passes e.1 && cellMarked e.2 && e.2.toNat % 2 ^ 52 != 0
    else r.slotDamaged 0 || r.slotDamaged 1
  (value, gen, isB, k, damaged)

/-- The cache of a counter, as it stands. -/
def Nvm.rcCache (n : Nvm) (i : Nat) : BitVec 64 × Nat × Bool × Nat × Bool := n.cache.getD i (0, 0, false, 0, false)

/-- The value of a counter (R431). -/
def Nvm.rc (n : Nvm) (i : Nat) : Nat := ((n.rcCache i).1.toNat + (n.rcCache i).2.2.2.1) % 2 ^ 64

/-- NVM_RCINFOn. -/
def Nvm.rcInfo (n : Nvm) (i : Nat) : Nat :=
  let (_, gen, isB, k, dmg) := n.rcCache i
  dmg.toNat * 2 ^ 31 + isB.toNat * 2 ^ 30 + k * 2 ^ 16 + gen % 2 ^ 16

/-- A codeword of counter i is written; a reset may leave it failing its inner code (R419, R433). -/
def Nvm.putRatchet (n : Nvm) (i word : Nat) (f : Ratchet → Ratchet) : Nvm :=
  let r := n.counters.getD i Ratchet.blank
  let n := n.pulseBy fun x => { x with counters := x.counters.setIfInBounds i { r with bad := word :: r.bad } }
  { n with counters := n.counters.setIfInBounds i { f r with bad := r.bad.filter (· != word) } }

/-- Cell k of counter i is written with a generation. -/
def Nvm.putCell (n : Nvm) (i k gen : Nat) : Nvm :=
  n.putRatchet i k fun r => { r with cells := SMap.set 0 r.cells k (cellMake k gen) }

/-- Slot A (0) or B (1) of counter i is written, word 0 first. -/
def Nvm.putSlot (n : Nvm) (i s : Nat) (v : BitVec 64 × BitVec 64) : Nvm :=
  let n := n.putRatchet i (64 + 2 * s) fun r => if s = 0 then { r with slotA := (v.1, r.slotA.2) } else { r with slotB := (v.1, r.slotB.2) }
  n.putRatchet i (65 + 2 * s) fun r => if s = 0 then { r with slotA := v } else { r with slotB := v }

/-- An increment, folding at k = 64 into the older slot (R432); the open page is closed (R416). -/
def Nvm.increment (n : Nvm) (i : Nat) : Nvm :=
  let n := n.closeOpen
  let r := n.counters.getD i Ratchet.blank
  let (value, gen, isB, k, dmg) := n.rcCache i
  if k < 64 then { n.putCell i k gen with cache := n.cache.setIfInBounds i (value, gen, isB, k + 1, dmg) }
  else
    let toB := r.slotOk 0 && !isB
    let s := slotMake (value.toNat + k) (gen + 1)
    { (n.putSlot i toB.toNat s).putCell i 0 (gen + 1) with cache := n.cache.setIfInBounds i (s.1, gen + 1, toB, 1, dmg) }

/-- An increment, reported in NVM_RCSTAT.DONE. -/
def Chip.increment (c : Chip) (i : Nat) : Chip := (c.onNvm fun n => n.increment i).onDev fun d => d.raiseSq A.nvmRcstat 0x01

/-- An increment asked for by a master: RC0-RC3 serve the device (R437). -/
def Chip.incrementBy (c : Chip) (m : Nat) (i : Nat) : Chip :=
  if i < 4 && m != 2 then c.onDev fun d => d.raiseSq A.nvmRcstat 0x02 else c.increment i

/-- Power-up of PD1 SUP (R426, R434, R436): the newest remap table, and every counter's cache. -/
def Chip.nvmPowerUp (c : Chip) : Chip :=
  let cache := c.nvm.counters.mapIdx fun _ r => r.scan
  { dev := c.dev.raiseIf (cache.any fun e => e.2.2.2.2) A.nvmRcstat 0x04
    nvm := { c.nvm with
      remapNow := match c.nvm.remapCopy with | some k => k.val | none => []
      cache := cache } }

/-- How long the writes of one command can last, in periods of XTM: 512 are above 31 us, more than a frame of 64 words takes (R417, R427). -/
def flightLife : Nat := 512

/-- A reset meets the array (R419, R420, R427, R433): a running scrub has come as far as a free value says, and of the latest writes only
those before a pulse that a free value names are done. -/
def Chip.cut (c : Chip) : Chip :=
  let c :=
    if !c.nvm.scrubbing then c
    else
      let (v, d) := c.dev.free
      let upto := c.nvm.scrubNext + v % (0x401 - c.nvm.scrubNext)
      let c := { c with dev := d }
      if upto = c.nvm.scrubNext then c
      else ((c.scrubTo (upto - 1)).onNvm fun n => { n with flight := [], flightAt := c.dev.now }).scrubTo upto
  if c.nvm.flight.isEmpty || c.nvm.flightAt + flightLife < c.dev.now then c
  else
    let (v, d) := c.dev.free
    { dev := d
      nvm := match c.nvm.flight[v % (c.nvm.flight.length + 1)]? with
        | some x => { c.nvm with toStored := x }
        | none => c.nvm }

/-- A reset of PD1 SUP at a time (R419, R444): what is in progress is abandoned; the open page stays marked open, so it is TORN. -/
def Nvm.abandon (n : Nvm) (t : Nat) : Nvm :=
  { n with openPage := none, remapRun := none, scrubbing := false, scrubNext := 0, scrubDirty := [], scrubTally := (0, 0, 0), scans := []
           flight := [], flightAt := t }

/-! ## Record slots (R438-R442) -/

/-- The 64 bytes of a record slot (R439). -/
def slotBytes (seq area : Nat) (payload : List Byte) : List Byte :=
  let head := leBytes 4 seq ++ [BitVec.ofNat 8 area, BitVec.ofNat 8 payload.length, 0, 0] ++ payload ++
    List.replicate (48 - payload.length) 0
  head ++ leBytes 4 (crc32c head).toNat ++ [0, 0, 0, 0]

/-- The window offset of a slot of an area. -/
def slotOff (first slot : Nat) : Nat := 256 * first + 64 * slot

/-- The bytes of a slot as read with the corrections of R422 (R440). -/
def Nvm.slotRead (n : Nvm) (first slot : Nat) : List Byte :=
  let p := slotOff first slot / 256
  ((n.decode (n.phys p) (n.openPage == some p)).data.drop (slotOff first slot % 256)).take 64

/-- Whether a slot is valid for its area (R440). -/
def slotGood (area : Nat) (b : List Byte) : Bool :=
  leNat ((b.drop 56).take 4) == (crc32c (b.take 56)).toNat && (b.getD 4 0).toNat == area && decide ((b.getD 5 0).toNat ≤ 48)

def slotSeq (b : List Byte) : Nat := leNat (b.take 4)

/-- Whether a SEQ is newer than another (R440). -/
def seqNewer (a b : Nat) : Bool := let d := (a + 2 ^ 32 - b) % 2 ^ 32; decide (1 ≤ d) && decide (d < 2 ^ 31)

/-- The newest of the valid slots (R440): the one newer than every other. -/
def newestOf (l : List (Nat × Nat)) : Option (Nat × Nat) :=
  l.find? fun (e : Nat × Nat) => l.all fun (o : Nat × Nat) => o.1 == e.1 || seqNewer e.2 o.2

/-- Read pages one after another, with their counts: each page with whether it is TORN. -/
def Chip.readPages (c : Chip) : List Nat → List (Nat × PageRead × Bool) × Chip
  | [] => ([], c)
  | p :: r =>
    let (x, c') := c.readPage p [] fun _ => true
    let (l, c') := c'.readPages r
    ((p, x, x.torn && c.nvm.openPage != some p) :: l, c')

/-- What the pages of an area hold (R442). -/
def areaFound (area first : Nat) (l : List (Nat × PageRead × Bool)) : AreaScan :=
  let slots := l.flatMap fun (e : Nat × PageRead × Bool) =>
    (List.range 4).map fun j => (4 * (e.1 - first) + j, (e.2.1.data.drop (64 * j)).take 64)
  let good := slots.filter fun (e : Nat × List Byte) => slotGood area e.2
  { valid := good.map (·.1), newest := newestOf (good.map fun (e : Nat × List Byte) => (e.1, slotSeq e.2))
    torn := (l.filter fun (e : Nat × PageRead × Bool) => e.2.2).map (·.1) }

/-- The result later commands use: the scan since the latest reset or RDEF, made anew where its newest slot no longer
checks (R442). -/
def Chip.areaScan (c : Chip) (area first pages : Nat) : AreaScan × Chip :=
  let fresh :=
    let (l, c) := c.readPages ((List.range pages).map (first + ·))
    (areaFound area first l, c.onNvm fun n => { n with scans := SMap.insert area (areaFound area first l) n.scans })
  match SMap.find c.nvm.scans area with
  | none => fresh
  | some s =>
    match s.newest with
    | some (k, q) => let b := c.nvm.slotRead first k
                     if slotGood area b && slotSeq b == q then (s, c) else fresh
    | none => (s, c)

/-- Write the slot after the newest valid record and close its page (R441); the SEQ and the slot. -/
def Chip.recordWrite (c : Chip) (area first pages : Nat) (payload : List Byte) : (Nat × Nat) × Chip :=
  let (s, c) := c.areaScan area first pages
  let (slot, seq) := match s.newest with
    | some (k, q) => ((k + 1) % (4 * pages), (q + 1) % 2 ^ 32)
    | none => (0, 1)
  let off := slotOff first slot
  let c := ((c.onNvm Nvm.closeOpen).store off (slotBytes seq area payload)).onNvm Nvm.closeOpen
  let s' : AreaScan := { valid := if s.valid.contains slot then s.valid else slot :: s.valid, newest := some (slot, seq)
                         torn := s.torn.filter (· != off / 256) }
  ((seq, slot), c.onNvm fun n => { n with scans := SMap.insert area s' n.scans })

end Sys2Proof.Machine
end

