-- ==== Sys2Proof/Machine/Reference.lean ====
section
/-! DEFINITION. What the reference programs of the ROM compute: their terms, cycle quantities, spread payments and result registers
(R264, R265, R270, R272, R273, R289-R291; log entry 51). -/
namespace Sys2Proof.Machine

/-! ## Terms (R270, R289, R290) -/

/-- The voltage ports (the first less the second, where there are two) and the current port of each term of a program. -/
def refTerms : Fin 3 → List (List Nat × Nat)
  | 0 => [([0], 4), ([1], 5), ([2], 6)]
  | 1 => [([0, 1], 4), ([2, 1], 6)]
  | 2 => [([0], 4), ([0], 5), ([0], 6)]

/-- The constants in an engine's table (R290). -/
structure RefConsts where
  table : SMap DWord

def RefConsts.word (c : RefConsts) (n : Nat) : Int := (SMap.get 0 c.table n).toInt
def RefConsts.k (c : RefConsts) (t : Nat) : Int := c.word t
def RefConsts.phc (c : RefConsts) (t : Nat) : Int := c.word (4 + t)
def RefConsts.creep (c : RefConsts) : Int := c.word 16
def RefConsts.dcOut (c : RefConsts) : Bool := (SMap.get 0 c.table 17).getLsbD 0

/-- Whether the words that must be zero are (R290). -/
def RefConsts.ok (c : RefConsts) : Bool :=
  decide ((SMap.get 0 c.table 17).toNat < 2) && (List.range 46).all fun i => SMap.get 0 c.table (18 + i) == 0

/-- A frame's voltage of a term, from the ports or from their companions (`off` 8). -/
def refVolt (f : Frame) (off : Nat) : List Nat → Int
  | [] => 0
  | [a] => f.ports.getD (off + a) 0
  | a :: b :: _ => f.ports.getD (off + a) 0 - f.ports.getD (off + b) 0

/-- Whether a term is skipped on a frame, by the rule of R268 (R270); with the flag of word 17, which samples count as DC samples is
not stated. -/
def RefProg.skips (r : RefProg) (c : RefConsts) (t : Nat) (x : List Nat × Nat) (f : Frame) : Bool :=
  let bad := fun (f : Frame) => (x.2 :: x.1).any fun p => (f.flags p).skip
  bad f || (c.phc t != 0 && match r.prev with | some p => bad p | none => true)
    || (c.dcOut && Config.dcSample (refVolt f 0 x.1) (f.ports.getD x.2 0))

/-- The phase-trimmed voltage and current of a term, in units of 2^-38 (R267). -/
def RefProg.trimmed (r : RefProg) (c : RefConsts) (t : Nat) (x : List Nat × Nat) (f : Frame) : Int × Int :=
  let a := c.phc t
  let trim := fun (now old : Int) (on : Bool) => now * 2 ^ 15 - (if on then a.natAbs * (now - old) else 0)
  let old := fun (g : Frame → Int) => match r.prev with | some p => g p | none => 0
  (trim (refVolt f 0 x.1) (old fun p => refVolt p 0 x.1) (decide (0 ≤ a)),
   trim (f.ports.getD x.2 0) (old fun p => p.ports.getD x.2 0) (decide (a < 0)))

/-- MUL: rounded and saturated (R232, R233). -/
def mulSat (a b : Int) : Int := satI 48 (mulRound a b)

/-- A product of the coefficient and two values by two MUL steps, in an order that is not stated (R270). -/
def refProduct (p : Fin 3) (k v i : Int) : Int :=
  match Config.refMuls p.val % 3 with
  | 0 => mulSat k (mulSat v i)
  | 1 => mulSat (mulSat k v) i
  | _ => mulSat (mulSat k i) v

/-- A frame's products of one term enter its sums (R264); `q` is the companion of its voltage, `iM` its current of M frames before. -/
def RefTerm.add (s : RefTerm) (p : Fin 3) (k v i q iM : Int) (phase : Nat) : RefTerm :=
  let (cs, sn) := cosSin (phase * 2 ^ 36)
  { e := s.e + refProduct p k (satI 48 (v * 2 ^ 8)) (satI 48 (i * 2 ^ 8)), q := s.q + refProduct p k (satI 48 (q * 2 ^ 23)) (satI 48 (iM * 2 ^ 8))
    vv := s.vv + v * v, ii := s.ii + i * i, vc := s.vc + v * cs, vs := s.vs + v * sn, ic := s.ic + i * cs, is := s.is + i * sn }

/-! ## The values of a cycle (R264, R265) -/

/-- A value to the resolution of an accumulator: the multiple of 2^-46 at or next above its floor (the last place is not stated). -/
def refLast (which : Nat) (floor : Int) (exact : Bool) : Int := if exact then floor else floor + Config.refPlace which floor % 2

/-- num / den to the resolution. -/
def refQuot (which : Nat) (num : Int) (den : Nat) : Int := refLast which (num / den) (num % den == 0)

def RefProg.pC (r : RefProg) : Int := r.terms.foldl (fun a s => a + s.e) 0
def RefProg.qC (r : RefProg) : Int := r.terms.foldl (fun a s => a + s.q) 0

/-- S_A: the sum of K_t times the root of the sums of squares, its terms taken 32 bits finer. -/
def RefProg.sA (r : RefProg) (c : RefConsts) : Int :=
  let term := fun (t : Nat) (s : RefTerm) =>
    let k := c.k t
    let m : Int := isqrt (k.natAbs * k.natAbs * (s.vv * s.ii).toNat * 2 ^ 64)
    if k < 0 then -m else m
  let x := (r.terms.mapIdx term).foldl (fun a v => a + v) 0
  refQuot 0 x (2 ^ 108)

/-- S_V. -/
def RefProg.sV (r : RefProg) : Int :=
  let n := (r.pC * r.pC + r.qC * r.qC).toNat
  refLast 1 (isqrt n) (isqrt n * isqrt n == n)

/-- P1. -/
def RefProg.p1 (r : RefProg) (c : RefConsts) : Int :=
  refQuot 2 ((r.terms.mapIdx fun t s => c.k t * 2 * (s.vc * s.ic + s.vs * s.is)).foldl (fun a v => a + v) 0) (Nat.max 1 r.n * 2 ^ 168)

/-- Q1. -/
def RefProg.q1 (r : RefProg) (c : RefConsts) : Int :=
  refQuot 3 ((r.terms.mapIdx fun t s => c.k t * 2 * (s.vc * s.is - s.vs * s.ic)).foldl (fun a v => a + v) 0) (Nat.max 1 r.n * 2 ^ 168)

/-- Whether a value of the cycle passes the creep test (R265). -/
def RefProg.live (r : RefProg) (c : RefConsts) (x : Int) : Bool := decide (r.n * c.creep ≤ x.natAbs)

/-- A value for the register of its sign: the pair at `plus` or the one at `minus`. -/
def bySign (plus minus : Nat) (x : Int) : List (Nat × Int) := if 0 ≤ x then [(plus, x)] else [(minus, -x)]

/-- What each register receives of the cycle that ends (R265): by the number of its first result register (R291). -/
def RefProg.received (r : RefProg) (c : RefConsts) : List (Nat × Int) :=
  let p := r.pC
  let q := r.qC
  let when_ := fun (b : Bool) (l : List (Nat × Int)) => if b then l else []
  when_ (r.live c p) (bySign 0 2 p) ++
  when_ (r.live c q) [(if 0 ≤ p then (if 0 ≤ q then 4 else 10) else (if 0 ≤ q then 6 else 8), q.natAbs), (14, r.sV)] ++
  when_ (r.live c (r.sA c)) [(12, r.sA c)] ++
  when_ (r.live c (r.p1 c)) (bySign 16 18 (r.p1 c)) ++
  when_ (r.live c (r.q1 c)) (bySign 20 22 (r.q1 c)) ++
  when_ (r.prog == 2) ((r.terms.mapIdx fun t s => when_ (r.live c s.e) (bySign (44 + 4 * t) (46 + 4 * t) s.e)).flatten)

/-- The result register pairs of the energies (R291). -/
def refPairs (p : Fin 3) : List Nat :=
  [0, 2, 4, 6, 8, 10, 12, 14, 16, 18, 20, 22] ++ if p = 2 then [44, 46, 48, 50, 52, 54] else []

/-- The spread quantities and the register each follows (R272). -/
def refSpreads (p : Fin 3) : List (Nat × Nat) :=
  [(2, 4), (3, 6), (4, 8), (5, 10), (6, 12), (7, 14), (8, 16), (9, 18), (10, 20), (11, 22)] ++
    if p = 2 then [(12, 44), (13, 48), (14, 52)] else []

/-! ## Spread payments (R273) -/

/-- What a spread quantity pays on a frame, and what stays of it. -/
def RefSpread.pay (s : RefSpread) : Int × RefSpread :=
  let now := min s.rate s.rest
  (s.carry + now, { s with rest := s.rest - now, carry := 0 })

/-- A cycle's value takes the place of the one before, whose unpaid part is paid with the first payment (R273). -/
def RefSpread.renew (s : RefSpread) (v : Int) (n : Nat) : RefSpread :=
  { rest := v, rate := v / (Nat.max 1 n : Nat), carry := s.carry + s.rest }

/-! ## The handlers (R272, R291) -/

/-- At the boundary frame, before its own products: the registers take the values of the cycle that ends, and the spread quantities
begin to pay them. -/
def RefProg.close (r : RefProg) (c : RefConsts) : RefProg :=
  let got := r.received c
  { r with
    totals := got.foldl (fun m x => SMap.set 0 m x.1 (SMap.get 0 m x.1 + acc96 x.2)) r.totals
    spread := (refSpreads r.prog).foldl (fun m x =>
      SMap.insert x.1 (((SMap.find m x.1).getD RefSpread.none).renew (((got.find? fun y => y.1 == x.2).map Prod.snd).getD 0) r.n) m) r.spread
    last := r.terms, lastN := r.n, lastCreep := !r.live c r.pC, terms := r.terms.map fun _ => RefTerm.zero, n := 0 }

/-- The result registers of the energies, a pair each. -/
def RefProg.pairs (r : RefProg) : List (Nat × DWord) :=
  (refPairs r.prog).flatMap fun n =>
    let a := (SMap.get 0 r.totals n).toNat
    [(n, BitVec.ofNat 48 a), (n + 1, BitVec.ofNat 48 (a / 2 ^ 48))]

/-- The products of a frame enter the sums of the cycle; also Σ_t e_t of the frame. -/
def RefProg.frame (r : RefProg) (c : RefConsts) (m : Nat) (f : Frame) : RefProg × Int :=
  let ts := refTerms r.prog
  let cur := ts.mapIdx fun t x => (r.trimmed c t x f).2
  let past := (cur :: r.past).take 257
  let one := fun (t : Nat) (s : RefTerm) =>
    match ts[t]? with
    | none => s
    | some x =>
      if r.skips c t x f then s
      else
        let (v, i) := r.trimmed c t x f
        s.add r.prog (c.k t) v i (refVolt f 8 x.1) (((past[m]?.getD [])[t]?).getD 0) (fld f.finfo 25 16)
  let terms := r.terms.mapIdx one
  let e := terms.foldl (fun a s => a + s.e) 0 - r.pC
  let missed := (List.range ts.length).any fun t => match ts[t]? with | some x => r.skips c t x f | none => false
  ({ r with terms := terms, n := r.n + 1, past := past, prev := some f, skipped := if missed then r.skipped + 1 else r.skipped }, e)

/-- What a SAMPLE of the program stages, with M frames of companion delay (R272, R291). -/
def RefProg.sample (r : RefProg) (c : RefConsts) (m : Nat) (f : Frame) : RefProg × SMap Int × List (Nat × DWord) :=
  let bnd := bit f.finfo 31
  let r := if bnd then r.close c else r
  let pays := r.spread.map fun (x : Nat × RefSpread) => (x.1, x.2.pay.1)
  let r := { r with spread := r.spread.map fun (x : Nat × RefSpread) => (x.1, x.2.pay.2) }
  let (r, e) := r.frame c m f
  (r, (0, e) :: (1, -e) :: pays, if bnd then r.pairs else [])

/-- The root of the mean of squares times its scale (R290, R291). -/
def RefProg.rms (r : RefProg) (which : Nat) (scale sq : Int) : DWord :=
  let num := (scale * scale * sq).toNat
  let den := Nat.max 1 r.lastN * 2 ^ 76
  let m := isqrt (num / den)
  let x := refLast (4 + which) m (m * m * den == num)
  BitVec.ofInt 48 (satI 48 (if scale < 0 then -x else x))

/-- What a CYCLE of the program stages (R291). -/
def RefProg.cycle (r : RefProg) (c : RefConsts) (figs : CycFigs) : List (Nat × DWord) :=
  let s := fun t => r.last.getD t RefTerm.zero
  ((List.range 4).flatMap fun t =>
    [(24 + t, r.rms t (c.word (8 + t)) (s t).vv), (28 + t, r.rms (4 + t) (c.word (12 + t)) (s t).ii),
     (32 + t, Config.refQuanta (s t).e), (36 + t, Config.refQuanta (s t).q)]) ++
  [(40, BitVec.ofNat 48 figs.freq), (41, BitVec.ofNat 48 r.skipped), (42, BitVec.ofNat 48 (figs.valid.toNat + 2 * r.lastCreep.toNat))]

/-- The stage a reference program leaves when a handler of it ends: its own for SAMPLE and CYCLE. -/
def RefProg.staged (r : RefProg) (c : RefConsts) (m : Nat) (figs : CycFigs) (h : Handler) : RefProg × Stage :=
  match h.kind, h.frame with
  | .sample, some f =>
    let (r, pulses, res) := r.sample c m f
    (r, { h.stage with pulses := pulses, res := res, resAny := !res.isEmpty })
  | .cycle, _ => (r, { h.stage with res := r.cycle c figs, resAny := true, pulses := [] })
  | _, _ => (r, h.stage)

/-- The program starts from the known state of R231: a cycle's sums, the spread payments and the samples before begin anew, and the
energies go on (log entry 51). -/
def RefProg.restart (r : RefProg) : RefProg := { RefProg.zero r.prog with totals := r.totals, skipped := r.skipped }

end Sys2Proof.Machine
end

