-- ==== Sys2Proof/Machine/Engine.lean ====
section
/-! DEFINITION. The Escapement around an engine's instructions: frames, dispatch, commit, faults, hairspring, admission,
states and loading (R180-R214). -/
namespace Sys2Proof.Machine

/-! ## The admission bound (R196, R199, R201) -/

/-- B at 50 mV steps from 0.80 V, in units of 1/256 ns. -/
def boundTable : List Nat := [6144, 5018, 4096, 3482, 3072, 2765, 2535]

/-- B of a core setting in 10 mV steps, interpolated and rounded up. -/
def boundB (vcode : Nat) : Nat :=
  let i := vcode / 5
  let a := boundTable.getD i 2535
  let b := boundTable.getD (i + 1) 2535
  a - (a - b) * (vcode % 5) / 5

/-- B in force (ESC_BOUND.B, R473). -/
def Dev.boundNow (d : Dev) : Nat := boundB d.vBound

/-- A in paces at a frame preset and a bound: P is 62 500 D / 256 in units of 1/256 ns (R199). -/
def admitA (preset b : Nat) : Nat := 4 * (presetD preset * 62500 / b - 3) / 5

/-- W_SAMPLE + W_SEG of an engine. -/
def Dev.declared (d : Dev) (k : Nat) : Nat := d.rf (A.escEkW k) 15 0 + d.rf (A.escEkW k) 31 16

/-- Whether an engine's declared figures pass at a preset and a bound (R199). -/
def Dev.fits (d : Dev) (k preset b : Nat) : Bool := decide (d.declared k ≤ admitA preset b)

/-- The engines whose admission a change of voltage or preset must keep (R201, R202): ARMED, RUNNING or SHADOW, and the
destination of a SNAP under way. -/
def Dev.allFit (d : Dev) (preset b : Nat) : Bool :=
  (List.range 5).all fun k => match (d.eng k).st with
    | .armed | .running | .shadow => d.fits k preset b
    | _ => true

/-! ## State codes -/

/-- The code of a state with PD5 ESC on (R204). -/
def EState.code : EState → Nat
  | .idle => 1 | .armed => 2 | .running => 3 | .faulting => 4 | .faulted => 5 | .snap => 6 | .shadow => 7 | .released => 8

/-- STATE follows the engine. -/
def Dev.setSt (d : Dev) (k : Nat) (s : EState) : Dev :=
  (d.modEng k fun e => { e with st := s }).putFld (A.escEkStat k) 23 20 s.code

/-- The engine starts from the known state (R211, R231). -/
def Engine.fresh (e : Engine) : Engine :=
  { e with d := [], a := [], x := [], z := false, n := false, v := false, c := false, s := false, stack := [], cur := none,
           susp := none, evCycle := false, evBlock := false, evSecond := false, evMail := false, evFault := false, fifo := [],
           mailCopied := [], mailServed := [], stopping := false, quiet := false, relUpto := none, roleFrom := 0,
           ref := e.ref.map RefProg.restart }

/-- The groups whose role an engine holds. -/
def Dev.rolesOf (d : Dev) (k : Nat) : List (Fin 4) :=
  [0, 1, 2, 3].filter fun g => decide (g.val < d.fuses.groups) && (d.holder g).val == k

/-- The groups whose role an engine holds, or has taken while the old holder works off its queue (R217). -/
def Dev.carries (d : Dev) (k : Nat) : List (Fin 4) :=
  d.rolesOf k ++ match d.er.passing with | some (n, _) => if n.val = k then [d.er.group] else [] | none => []

/-! ## Queued table words (R208) -/

/-- Whether a word can be written where no handler runs: its point has passed, and so has the RET of the background handler it fell
in (R208, R222). -/
def Engine.wordDue (e : Engine) (w : TableEntry) : Bool := w.ready && (!w.held || e.susp.isNone)

/-- Between handlers the words that are due are written, in the order they were queued. -/
def Engine.flushTable (e : Engine) : Engine :=
  if e.cur.isSome then e
  else { e with
    table := (e.tqueue.filter e.wordDue).foldl (fun t w => SMap.set 0 t w.word.val w.data) e.table
    tqueue := e.tqueue.filter fun w => !e.wordDue w }

/-- Words about to be written change the constant region, which CFGSUM covers (R207, R382). -/
def Dev.noteTable (d : Dev) (k : Nat) : Dev :=
  let e := d.eng k
  if e.cur.isNone && e.tqueue.any fun w => e.wordDue w && decide (w.word.val < 64 * d.af (A.escEkCfg k) 4 0) then d.restartScan else d

/-- Bound words are written between handlers (R208, R222; log entry 17). -/
def Dev.queuedTableWrite (d : Dev) (k : Nat) : Dev := (d.noteTable k).modEng k Engine.flushTable

/-- A word whose apply point passes now. -/
def Engine.nowReady (e : Engine) (w : TableEntry) : TableEntry :=
  { w with ready := true, held := e.cur.any fun h => h.kind.background }

/-- The words bound to apply points that meet a condition become ready; an engine between handlers that will not dispatch
before takes them at its next dispatch. -/
def Dev.tableReady (d : Dev) (p : ApplyAt → Bool) : Dev :=
  { d with engines := d.engines.mapIdx fun _ e => { e with tqueue := e.tqueue.map fun w =>
      match w.bind with
      | some b => if p b && !w.ready then e.nowReady w else w
      | none => w } }

/-! ## Frames (R185, R186) -/

/-- The states that take frames (R204). -/
def Engine.takes (e : Engine) : Bool :=
  (match e.st with | .running | .faulting | .shadow => true | _ => false) && !e.stopping && e.relUpto.isNone

/-- Non-zero contributions of a commit, for the comparison of R216. -/
def pulseKey (p : SMap Int) : SMap Int := p.filter fun e => e.2 != 0

/-- The comparison of a shadowing engine and the holder: one of the pair committed frame s, or lost it (`none`). A frame
that only one commits is a difference (R216). -/
def Dev.compareCommit (d : Dev) (k s : Nat) (p : Option (SMap Int)) : Dev :=
  match d.er.shadow with
  | none => d
  | some sh =>
    let mine := sh.val == k
    if s < d.er.since || !(mine || (d.holder d.er.group.val).val == k) then d
    else
      let other := if mine then d.er.theirs else d.er.ours
      match other.find? fun e => e.1 == s with
      | some (_, q) =>
        let rest := other.filter fun e => e.1 != s
        let d := { d with er := if mine then { d.er with theirs := rest } else { d.er with ours := rest } }
        if p = q || d.rb A.escRlfStat 5 then d else (d.putBit A.escRlfStat 5 true).setReg A.escRlfDivseq (wd s)
      | none =>
        { d with er := if mine then { d.er with ours := d.er.ours ++ [(s, p)] } else { d.er with theirs := d.er.theirs ++ [(s, p)] } }

/-- A frame of group g enters the FIFO of an engine (R185, R186). -/
def Dev.pushFrame (d : Dev) (g : Fin 4) (k : Nat) (f : Frame) : Dev :=
  let e := d.eng k
  if !e.takes then d
  else match e.fifo with
    | old :: rest =>
      if 4 ≤ e.fifo.length then
        let d := d.setEng k { e with fifo := rest ++ [f] }
        let d := (d.count (A.escEkOvrcnt k) 31 0 1).raiseSq (A.escEkStat k) 0x10
        let d := d.compareCommit k old.seq none
        if (d.carries k).contains g then (d.modGroup g fun x => { x with agrBroken := true }).fallbackHdone g k 2 else d
      else d.setEng k { e with fifo := e.fifo ++ [f] }
    | [] => d.setEng k { e with fifo := [f] }

/-- The engines that a group's frames come to: its own, and E4 where engine relief last named the group (R181, R185, R215). -/
def Dev.takersOf (d : Dev) (g : Fin 4) : List Nat := if d.er.group = g then [g.val, 4] else [g.val]

/-! ## Dispatch (R189-R192) -/

/-- The dispatch-table index of a handler (R188). -/
def HKind.index : HKind → Nat
  | .sample => 0 | .cycle => 1 | .block => 2 | .second => 3 | .mail => 4 | .fault => 5

/-- A handler starts: depth 0, empty stage, Z, N, V and C clear (R190). -/
def Engine.start (e : Engine) (kind : HKind) (f : Option Frame) : Engine :=
  { e with
    cur := some { kind := kind, base := e.stack.length, paces := 0
                  stage := { res := [], resAny := false, pulses := [], evts := [] }, frame := f }
    pc := (SMap.get 0 e.prog kind.index).toNat % 4096
    z := false, n := false, v := false, c := false }

/-- The interrupted background handler continues after its YIELD with what was saved (R191). -/
def Engine.resume (e : Engine) (s : Susp) : Engine :=
  { e with cur := some { s.h with paces := 0 }, susp := none, pc := s.pc, z := s.z, n := s.n, v := s.v, c := s.c }

/-- The background event to dispatch, in the order of R189. -/
def Engine.nextEvent (e : Engine) : Option HKind :=
  if e.evCycle && e.entryOn 1 then some .cycle
  else if e.evBlock && e.entryOn 2 then some .block
  else if e.evSecond && e.entryOn 3 then some .second
  else if e.evMail && e.entryOn 4 then some .mail
  else none

/-- A pending flag clears as its handler starts; MAIL serves what was copied before (R397). -/
def Engine.takeEvent (e : Engine) : HKind → Engine
  | .cycle => { e with evCycle := false }
  | .block => { e with evBlock := false }
  | .second => { e with evSecond := false }
  | .mail => { e with evMail := false, mailServed := e.mailCopied }
  | .fault => { e with evFault := false }
  | .sample => e

/-- One dispatch (R189). -/
def Engine.dispatch (e : Engine) : Engine :=
  if e.cur.isSome then e
  else
    let e := e.flushTable
    match e.st with
    | .faulting => if e.evFault then (e.takeEvent .fault).start .fault none else e
    | .running | .shadow =>
      match e.fifo with
      | f :: rest => { e with fifo := rest }.start .sample (some f)
      | [] => match e.susp with
        | some s => e.resume s
        | none => match e.nextEvent with
          | some k => (e.takeEvent k).start k none
          | none => e
    | _ => e

/-- A YIELD in a background handler (R191): with a frame queued the handler is set aside, else a new segment begins. -/
def Engine.yieldPoint (e : Engine) : Engine :=
  match e.cur with
  | none => e
  | some h =>
    if e.fifo.isEmpty then { e with cur := some { h with paces := 0 } }
    else { e with susp := some { h := h, pc := e.pc, z := e.z, n := e.n, v := e.v, c := e.c }, cur := none }

/-! ## Commit (R187, R192-R194, R203) -/

/-- Whether commits change no result register: the freeze of R383 holds from the frame after the mismatch. -/
def Dev.frozen (d : Dev) : Bool := match d.freeze with | some n => decide (n < d.frameSeq) | none => false

/-- The staged results of a handler (R193, R194). -/
def Dev.commitRes (d : Dev) (k : Nat) (s : Stage) : Dev :=
  if d.frozen then d
  else
    let d := d.modEng k fun e => { e with results := s.res.foldl (fun r x => SMap.set 0 r x.1 x.2) e.results }
    if s.resAny then d.countMod (A.escEkResseq k) 31 0 1 else d

/-- The staged events of a handler enter the EVT block (R253, R316); those of a shadowing engine are discarded (R216). -/
def Dev.commitEvts (d : Dev) (k : Nat) (quiet : Bool) (s : Stage) : Dev :=
  if quiet then d else s.evts.foldl (fun d e => d.queueRec 1 0 e.code.toNat k e.seq e.stamp e.payload) d

/-- An event after a SAMPLE commit: pending, or lost and counted (R192). `field`: the low bit of its EVLOST field. -/
def Dev.raiseEv (d : Dev) (k : Nat) (kind : HKind) (field : Nat) (get : Engine → Bool) (set : Engine → Engine) : Dev :=
  let e := d.eng k
  let runs := (e.cur.any fun h => h.kind == kind) || (e.susp.any fun s => s.h.kind == kind)
  if !e.entryOn kind.index then d
  else if get e || runs then (d.count (A.escEkEvlost k) (field + 7) field 1).raiseSq (A.escEkStat k) 0x20
  else d.setEng k (set e)

/-- The events a committed frame raises (R192). -/
def Dev.frameEvents (d : Dev) (k : Nat) (f : Frame) : Dev :=
  let d := if bit f.finfo 31 then d.raiseEv k .cycle 0 (·.evCycle) (fun e => { e with evCycle := true }) else d
  let d := if bit f.finfo 29 then d.raiseEv k .block 8 (·.evBlock) (fun e => { e with evBlock := true }) else d
  if bit f.finfo 28 then d.raiseEv k .second 16 (·.evSecond) (fun e => { e with evSecond := true }) else d

/-- The slack of a frame committed at time t (R203). -/
def Dev.slack (d : Dev) (k : Nat) (f : Frame) (t : Nat) : Dev :=
  let s := satI 16 ((presetP d.framePreset : Int) - ((t : Int) - f.tIn))
  let old := sextN 16 (d.rf (A.escEkSlack k) 15 0)
  let d := d.setReg (A.escEkSlack k) (wd (toField 16 s * 2 ^ 16 + toField 16 (if s < old then s else old)))
  d.raiseIf (decide (s < sextN 16 (d.rf (A.escEkSlacklim k) 15 0))) (A.escEkStat k) 0x40

/-- The group whose frames an engine processes: the one whose role it holds or takes over, or the one it shadows. -/
def Dev.groupOf (d : Dev) (k : Nat) : Option (Fin 4) :=
  match d.er.shadow, d.er.passing with
  | some s, p => if s.val = k then some d.er.group else match p with
      | some (n, _) => if n.val = k then some d.er.group else (d.rolesOf k).head?
      | none => (d.rolesOf k).head?
  | none, some (n, _) => if n.val = k then some d.er.group else (d.rolesOf k).head?
  | none, none => (d.rolesOf k).head?

/-- The result view of group g passes to the new holder with its first commit at or after f (R221); a freeze holds the view (R383). -/
def Dev.viewPass (d : Dev) (g : Fin 4) (k s : Nat) : Dev :=
  match d.er.viewOld with
  | some (old, f) => if d.er.group = g && old.val ≠ k && f ≤ s && !d.frozen then { d with er := { d.er with viewOld := none } } else d
  | none => d

/-- The commit of a SAMPLE (R187, R193, R203, R216, R217). -/
def Dev.commitSample (d : Dev) (k t : Nat) (h : Handler) (f : Frame) : Dev :=
  let g := d.groupOf k
  let counts := (d.eng k).st == .running && !(d.eng k).mute h && (match g with | some g => (d.carrier g f.seq).val == k | none => false)
  let d := (d.commitRes k h.stage).modEng k fun e => { e with hdone := f.seq, hdoneAny := true, lastFigs := f.figs, lastStamp := f.stamp }
  let d := (d.slack k f t).commitEvts k (!counts) h.stage
  let d := match g with
    | some g =>
      if counts then ((d.viewPass g k f.seq).bimCommit g f.seq h.stage.pulses).agrCommit g f.seq (d.eng k) else d
    | none => d
  (d.compareCommit k f.seq (some (pulseKey h.stage.pulses))).frameEvents k f

/-- A STOP whose boundary has passed ends once no frame waits and no handler runs (R210). -/
def Dev.finishStop (d : Dev) (k : Nat) : Dev :=
  let e := d.eng k
  if e.stopping && e.st == .running && e.fifo.isEmpty && !e.busy then
    (d.setEng k { e with stopping := false }).setSt k .idle
  else d

/-- The engine enters FAULTED and drops its FIFO (R213, R214). -/
def Dev.enterFaulted (d : Dev) (k : Nat) : Dev :=
  (d.modEng k fun e => { e with cur := none, susp := none, fifo := [], evFault := false, stack := [], stopping := false }).setSt k .faulted

/-- What a handler that ends has staged, and the reference program after it: where the engine runs one with the constants that R290
asks for, the stage is what R272 and R291 say of it. -/
def Dev.stageOf (d : Dev) (e : Engine) (h : Handler) : Option RefProg × Stage :=
  match e.ref with
  | some r =>
    if RefConsts.ok ⟨e.table⟩ then let (r, s) := r.staged ⟨e.table⟩ (presetM d.framePreset) e.lastFigs h; (some r, s)
    else (some r, h.stage)
  | none => (none, h.stage)

/-- A handler ends with RET at depth 0 at time t (R190, R193); `e` is the engine with the RET's paces charged. -/
def Dev.commit (d : Dev) (k t : Nat) (e : Engine) : Dev :=
  match e.cur with
  | none => d
  | some h =>
    let (ref, st) := d.stageOf e h
    let h := { h with stage := st }
    let d := d.setEng k { e with cur := none, ref := ref }
    let d := match h.kind, h.frame with
      | .sample, some f => d.commitSample k t h f
      | .fault, _ => ((d.commitRes k h.stage).commitEvts k (e.mute h) h.stage).enterFaulted k
      | .mail, _ => ((d.commitRes k h.stage).commitEvts k (e.mute h) h.stage).mailCommit k
      | _, _ => (d.commitRes k h.stage).commitEvts k (e.mute h) h.stage
    d.finishStop k

/-! ## Faults (R213, R214, R218) -/

/-- The new holder enters RUNNING, its role beginning at frame f: its mailboxes are copied again, and the agreement check starts
afresh (R287, R397). -/
def Dev.enterRunning (d : Dev) (k f : Nat) : Dev :=
  let d := (d.modEng k fun e => { e with mailCopied := [], quiet := false, roleFrom := f }).setSt k .running
  let d := d.raiseSq (A.escEkStat k) 0x2
  match d.groupOf k with
  | some g => d.modGroup g fun x => { x with agrFirst := true }
  | none => d

/-- E4 takes the role of a faulted engine from the first frame above its HDONE on (R218). -/
def Dev.autoTake (d : Dev) (k : Nat) : Dev :=
  let g := d.er.group
  match d.er.shadow with
  | some s =>
    if d.rb A.escRlfCmd 25 && s == 4 && (d.eng 4).st == .shadow && k != 4 && (d.holder g).val == k && !d.rb A.escRlfStat 5 then
      let f := (d.eng k).hdone + 1
      let d := { d with
        roles := d.roles.setIfInBounds g.val 4
        er := { d.er with shadow := none, takeBound := none, abortDue := false, ours := [], theirs := [],
                          viewOld := some (Fin.ofNat 5 k, f) } }
      (d.enterRunning 4 f).raiseSq A.escRlfStat 0x10
    else d
  | none => d

/-- A shadowing engine that faults shadows no longer; a change of role bound to it is discarded (log entry 18). -/
def Dev.shadowFaults (d : Dev) (k : Nat) : Dev :=
  match d.er.shadow with
  | some s =>
    if s.val = k then
      let bound := d.er.takeBound.isSome || d.er.handBound.isSome
      let d := { d with er := { d.er with shadow := none, takeBound := none, handBound := none, abortDue := false, ours := [], theirs := [] } }
      if bound then (d.putFld A.escRlfStat 19 16 2).raiseSq A.escRlfStat 0x2 else d
    else d
  | none => d

/-- An instruction of engine k faults with a code at an address; PC holds that of the latest such instruction (R213, R214, R256; log
entry 18). -/
def Dev.engFault (d : Dev) (k code pc : Nat) : Dev :=
  let e := d.eng k
  match e.cur with
  | none => d
  | some h =>
    if h.kind == .fault then
      (((d.putBit (A.escEkFault k) 31 true).putFld (A.escEkFault k) 27 24 code).putFld (A.escEkFault k) 11 0 pc).enterFaulted k
    else
      let seq := match h.kind, h.frame with | .sample, some f => f.seq | _, _ => e.hdone
      let d := (d.setReg (A.escEkFault k) (wd (code * 2 ^ 16 + pc % 4096))).setReg (A.escEkFaultseq k) (wd seq)
      let d := d.raiseSq (A.escEkStat k) 0x8
      let held := d.carries k
      let d := d.setEng k { e with cur := none, susp := none, stack := [], evFault := true }
      let d := if e.entryOn 5 then d.setSt k .faulting else d.enterFaulted k
      let d := if e.st == .running then held.foldl (fun d g => d.fallbackHdone g k 1) d else d
      (d.autoTake k).shadowFaults k

/-! ## One instruction on the device (R256) -/

/-- The declared figure of the running handler (R199, R200). -/
def Dev.paceLimit (d : Dev) (k : Nat) : Nat :=
  match (d.eng k).cur with
  | some h => if h.kind == .sample then d.rf (A.escEkW k) 15 0
    else if h.kind == .fault then d.rf (A.escEkWfault k) 15 0
    else d.rf (A.escEkW k) 31 16
  | none => 0

/-- What an instruction of engine k takes from the device. -/
def Dev.opEnv (d : Dev) (k : Nat) (tpe : Bool) : OpEnv :=
  let e := d.eng k
  { figs := match e.cur with | some { frame := some f, .. } => f.figs | _ => e.lastFigs
    paceNow := d.rf (A.escEkPace k) 15 0, bound := d.boundNow, limit := d.paceLimit k, tsplit := d.af (A.escEkCfg k) 4 0, tpe := tpe }

/-- Engine k executes the instruction a command names; `t` is the time of a commit. -/
def Dev.engStep (d : Dev) (k : Nat) (pe tpe : Bool) (t : Nat) (o : Op) : Dev :=
  if !d.on 5 then d
  else match (d.eng k).run (d.opEnv k tpe) pe o with
    | .idle => d
    | .ok e => d.setEng k e
    | .fault code pc => d.engFault k code pc
    | .commit e => { d with now := Nat.max d.now t }.commit k t e
    | .yield e => d.setEng k e.yieldPoint

/-- A dispatch of engine k (R189). -/
def Dev.dispatch (d : Dev) (k : Nat) : Dev := if d.on 5 then (d.noteTable k).modEng k Engine.dispatch else d

/-! ## The hairspring (R195-R198, R624) -/

/-- A measurement of engine k completes with a pace in 1/256 ns. -/
def Dev.hairspring (d : Dev) (k : Nat) (pace : BitVec 16) : Dev :=
  if !(d.on 5 && d.xtmOk && d.fuses.engine k) then d
  else
    let p := pace.toNat
    let d := d.setReg (A.escEkPace k) (wd (Nat.max (d.rf (A.escEkPace k) 31 16) p * 2 ^ 16 + p))
    let d := (d.putBit (A.escEkStat k) 15 true).raiseIf (decide (d.boundNow < p)) (A.escEkStat k) 0x80
    let e := d.eng k
    let sum := e.normSum + Config.paceNorm (d.rf A.pwrVcore 4 0) p (d.tcfTemp.getD 0)
    if e.normCount + 1 = 2 ^ 20 then
      (d.setEng k { e with normSum := 0, normCount := 0 }).putFld (A.escEkPacenorm k) 15 0 (satNat 16 (sum / 2 ^ 20))
    else d.setEng k { e with normSum := sum, normCount := e.normCount + 1 }

/-- PACEMAXRST: the highest measurement starts again from none (R195). -/
def Dev.paceMaxReset (d : Dev) (k : Nat) : Dev := d.putFld (A.escEkPace k) 31 16 0

/-- SLACKRST. -/
def Dev.slackReset (d : Dev) (k : Nat) : Dev := d.putFld (A.escEkSlack k) 15 0 0x7FFF

/-! ## Commands of an engine (R188, R209-R211) -/

/-- A refusal with its cause. -/
def Dev.engRefuse (d : Dev) (k cause : Nat) : Dev := (d.putFld (A.escEkStat k) 19 16 cause).raiseSq (A.escEkStat k) 0x4

/-- Whether the dispatch table breaks R188. -/
def Engine.tableBad (e : Engine) : Bool :=
  let w := fun i => SMap.get 0 e.prog i
  !bit (w 0) 31 || (w 6 != 0) || (w 7 != 0) || (List.range 6).any fun i =>
    (w i).toNat % 2 ^ 31 / 2 ^ 12 != 0 || (bit (w i) 31 && decide ((w i).toNat % 4096 < 8))

/-- A TAKEOVER or HANDBACK of the group is pending (R211). -/
def Dev.rolePending (d : Dev) (g : Nat) : Bool :=
  d.er.group.val == g && (d.er.takeBound.isSome || d.er.handBound.isSome || d.er.handWait || d.er.passing.isSome)

/-- The frame preset, and those that staged changes of the grouped channels bring (R22, R129, R222). -/
def Dev.presetsDue (d : Dev) : List Nat :=
  d.framePreset :: (d.staged.flatMap Staged.vals).filterMap fun e =>
    if (d.fuses.grouped.filter d.chanOn).any fun k => A.fltCHkCfg k == e.1 then some (fld e.2 1 0) else none

/-- ADMIT (R209, R211), its refusals in the order of R209; its figures must pass at a preset that is staged already, as well (R222). -/
def Dev.engAdmit (d : Dev) (k : Fin 5) : Dev :=
  let e := d.eng k.val
  if k = 4 || e.st != .idle then d.engRefuse k 4
  else if !d.rb (A.escEkStat k) 15 then d.engRefuse k 2
  else if e.tableBad then d.engRefuse k 5
  else if !(d.presetsDue.all fun p => d.fits k p d.boundNow) then d.engRefuse k 3
  else if d.rolePending k.val then d.engRefuse k 7
  else ((d.setSt k .armed).raiseSq (A.escEkStat k) 0x1).bind (.admitting k)

/-- An ADMIT at its boundary frame f (R209, R211, R231). -/
def Dev.admitApply (d : Dev) (k : Fin 5) : Dev :=
  if (d.eng k.val).st != .armed then d
  else
    let d := (d.modEng k.val Engine.fresh).epochUp (3 + k.val)
    if (d.holder k.val).val = k.val then d.enterRunning k.val d.frameSeq
    else
      let d := (d.modEng k.val fun e => { e with quiet := true }).setSt k.val .shadow
      let d := { d with er := { d.er with group := Fin.ofNat 4 k.val, shadow := some k, ours := [], theirs := [], since := d.frameSeq } }
      ((d.putBit A.escRlfStat 5 false).putFld A.escRlfStat 7 6 k.val)

/-- STOP (R210). -/
def Dev.engStop (d : Dev) (k : Fin 5) : Dev :=
  match (d.eng k.val).st with
  | .armed => (d.unbind (· == .admitting k)).setSt k .idle
  | .running =>
    if (d.carries k.val).any fun g => !(d.group g).base then d.engRefuse k 6
    else (d.unbind (· == .stop k)).bind (.stop k)
  | _ => d.engRefuse k 4

/-- An accepted STOP at its boundary (R210). -/
def Dev.stopApply (d : Dev) (k : Fin 5) : Dev :=
  if (d.eng k.val).st == .running then (d.modEng k.val fun e => { e with stopping := true }).finishStop k.val else d

/-- CLEAR (R211). -/
def Dev.engClear (d : Dev) (k : Fin 5) : Dev :=
  match (d.eng k.val).st with
  | .faulted | .released => ((d.modEng k.val Engine.fresh).setSt k .idle).epochUp (3 + k.val)
  | _ => d.engRefuse k 4

/-- A write of ESC_Ek_CMD with GO (R209). -/
def Dev.engCommand (d : Dev) (k : Fin 5) (w : Word) : Dev :=
  match fld w 30 28 with
  | 1 => d.engAdmit k
  | 2 => d.engStop k
  | 3 => d.engClear k
  | _ => d.engRefuse k 1

/-! ## Loading (R204, R205, R208) -/

/-- Whether an engine's state lets masters write its program and its table directly (R204). -/
def Engine.direct (e : Engine) : Bool := match e.st with | .idle | .faulted | .released => true | _ => false

/-- A completed table word: written directly, queued, or refused with its cause (R204, R208). -/
def Dev.tableWord (d : Dev) (k : Nat) (n : Fin 2048) (v : DWord) : Except Nat Dev :=
  let e := d.eng k
  if e.direct then
    .ok ((if n.val < 64 * d.af (A.escEkCfg k) 4 0 then d.restartScan else d).setEng k { e with table := SMap.set 0 e.table n.val v })
  else match e.st with
    | .armed | .running =>
      if 16 ≤ e.tqueue.length then .error 9
      else .ok (d.setEng k { e with tqueue := e.tqueue ++ [{ word := n, data := v, bind := none, ready := false, held := false }] })
    | _ => .error 11

/-- A REG_UPDATE names update group `ug`: the unbound words of the engines in it are bound to the group's apply point (R208). -/
def Dev.tableBind (d : Dev) (ug : Nat) (p : ApplyAt) (now : Bool) : Dev :=
  { d with engines := d.engines.mapIdx fun k e =>
      if d.rf (A.escEkCfg k) 30 28 = ug then
        { e with tqueue := e.tqueue.map fun w => match w.bind with
          | none => if now then e.nowReady { w with bind := some p } else { w with bind := some p }
          | some _ => w }
      else e }

end Sys2Proof.Machine
end

