-- ==== Sys2Proof/Machine/EngineRelief.lean ====
section
/-! DEFINITION. Engine relief: snapshot, shadow, takeover, hand-back and abort (R215-R221). -/
namespace Sys2Proof.Machine

/-- A refusal or abort with its cause (ESC_RLF_STAT). -/
def Dev.rlfRefuse (d : Dev) (cause : Nat) : Dev := (d.putFld A.escRlfStat 19 16 cause).raiseSq A.escRlfStat 0x2

/-- The group's own engine. -/
def Dev.ownEng (d : Dev) : Nat := d.er.group.val

/-- The cause that refuses a copy of engine `src` into engine `dst` for its hairspring or its budget (R215, R219). -/
def Dev.copyRefuses (d : Dev) (src dst : Nat) : Option Nat :=
  if !d.rb (A.escEkStat dst) 15 then some 6
  else if !d.fits src d.framePreset d.boundNow then some 3
  else none

/-- SNAP of group g (R215). -/
def Dev.snap (d : Dev) (g : Fin 4) : Dev :=
  if (d.eng 4).st != .idle || (d.eng g).st != .running || (d.holder g).val != g.val || !(decide (g.val < d.fuses.groups)) then
    d.rlfRefuse 2
  else match d.copyRefuses g 4 with
    | some c => d.rlfRefuse c
    | none => ({ d with er := { d.er with group := g, snapWait := true } } : Dev).setSt 4 .snap

/-- The copy point: no handler running and an empty FIFO (R215). -/
def Engine.copyPoint (e : Engine) : Bool := e.st == .running && e.fifo.isEmpty && !e.busy

/-- Engine `src` copied into engine `dst`, which enters SHADOW (R215, R231). -/
def Dev.copyEngine (d : Dev) (src dst : Nat) : Dev :=
  let s := d.eng src
  let d := d.modEng dst fun e => { e with
    prog := s.prog, ref := s.ref, table := s.table, d := s.d, a := s.a, x := s.x, z := s.z, n := s.n, v := s.v, c := s.c, s := s.s
    stack := s.stack, results := s.results, hdone := s.hdone, hdoneAny := s.hdoneAny, lastFigs := s.lastFigs
    lastStamp := s.lastStamp, evCycle := s.evCycle, evBlock := s.evBlock, evSecond := s.evSecond, evMail := s.evMail
    evFault := s.evFault, fifo := [], cur := none, susp := none, mailCopied := s.mailCopied, mailServed := [], quiet := true
    stopping := false, relUpto := none, roleFrom := 0 }
  let d := (d.restartScan.setReg (A.escEkW dst) (d.reg (A.escEkW src))).setReg (A.escEkWfault dst) (d.reg (A.escEkWfault src))
  let d := ((d.setSt dst .shadow).putBit A.escRlfStat 5 false).putFld A.escRlfStat 7 6 d.er.group.val
  { d with er := { d.er with shadow := some (Fin.ofNat 5 dst), ours := [], theirs := [], since := s.hdone + 1, abortDue := false } }

/-- A waiting SNAP finds its copy point (R215). -/
def Dev.snapCopy (d : Dev) : Dev :=
  let g := d.ownEng
  if d.er.snapWait && (d.eng g).copyPoint then
    let d := { d with er := { d.er with snapWait := false } }
    (d.copyEngine g 4).raiseSq A.escRlfStat 0x1
  else d

/-- A SNAP finds no copy point within 1 s (R215). -/
def Dev.snapTimeout (d : Dev) : Dev :=
  if d.er.snapWait then (({ d with er := { d.er with snapWait := false } } : Dev).setSt 4 .idle).rlfRefuse 5 else d

/-- The apply point of a change of role: the next frame with NOW, else a cycle boundary (R217). -/
def Dev.rolePoint (d : Dev) (now : Bool) : ApplyAt := if now then .frame 0 else .cycle d.nextBoundary

/-- TAKEOVER (R217). -/
def Dev.takeover (d : Dev) (now force : Bool) : Dev :=
  if !(d.er.shadow == some 4 && (d.eng 4).st == .shadow) then d.rlfRefuse 2
  else if d.rb A.escRlfStat 5 && !force then d.rlfRefuse 4
  else { d with er := { d.er with takeBound := some (d.rolePoint now) } }

/-- HANDBACK (R219). -/
def Dev.handback (d : Dev) (now force : Bool) : Dev :=
  let g := d.ownEng
  if (d.holder g).val != 4 || d.er.passing.isSome then d.rlfRefuse 2
  else match (d.eng g).st with
    | .shadow =>
      if d.rb A.escRlfStat 5 && !force then d.rlfRefuse 4
      else { d with er := { d.er with handBound := some (d.rolePoint now) } }
    | .released | .idle =>
      match d.copyRefuses 4 g with
      | some c => d.rlfRefuse c
      | none => { d with er := { d.er with handWait := true, handNow := now } }
    | _ => d.rlfRefuse 2

/-- A waiting HANDBACK finds its copy point, and the return of the role is bound (R219). -/
def Dev.handbackCopy (d : Dev) : Dev :=
  let g := d.ownEng
  if d.er.handWait && (d.eng 4).copyPoint then
    let p := d.rolePoint d.er.handNow
    let d := d.copyEngine 4 g
    { d with er := { d.er with handWait := false, handBound := some p } }
  else d

/-- A HANDBACK finds no copy point within 1 s: the role stays with E4 (R219). -/
def Dev.handbackTimeout (d : Dev) : Dev :=
  if d.er.handWait then ({ d with er := { d.er with handWait := false } } : Dev).rlfRefuse 5 else d

/-- ABORT (R220). -/
def Dev.rlfAbort (d : Dev) : Dev :=
  let waits := d.er.snapWait || d.er.handWait
  if !waits && d.er.shadow.isNone then d.rlfRefuse 2
  else
    let d := if d.er.snapWait then d.setSt 4 .idle else d
    { d with er := { d.er with snapWait := false, handWait := false, abortDue := d.er.shadow.isSome } }

/-- The shadowing engine returns to IDLE at a frame (R220). -/
def Dev.abortNow (d : Dev) : Dev :=
  match d.er.shadow with
  | some s =>
    let d := (d.modEng s.val fun e => { e with fifo := [], cur := none, susp := none, quiet := false }).setSt s.val .idle
    { d with er := { d.er with shadow := none, abortDue := false, takeBound := none, handBound := none, ours := [], theirs := [] } }
  | none => { d with er := { d.er with abortDue := false } }

/-- The shadowing engine takes the role from frame f on; the old holder works off its queue below f (R217, R219). -/
def Dev.passRole (d : Dev) (f : Nat) : Dev :=
  match d.er.shadow with
  | some s =>
    let g := d.er.group
    let old := d.holder g
    if (d.eng s.val).st == .shadow then
      let d := { d with er := { d.er with shadow := none, takeBound := none, handBound := none, passing := some (s, f), ours := [],
                                          theirs := [], viewOld := some (old, f) } }
      let d := d.enterRunning s.val f
      let d := d.modEng old.val fun e => { e with relUpto := some f }
      d.modGroup g fun x => { x with agrBroken := true }
    else { d with er := { d.er with takeBound := none, handBound := none } }
  | none => { d with er := { d.er with takeBound := none, handBound := none } }

/-- What engine relief has bound to a cycle boundary with number n (R217); an ABORT that waits for the next frame comes first (R220;
log entry 42). -/
def Dev.relayCycle (d : Dev) (n : Nat) : Dev :=
  if d.er.abortDue then d
  else if d.er.takeBound == some (.cycle n) || d.er.handBound == some (.cycle n) then d.passRole d.frameSeq else d

/-- What engine relief has bound to the next frame (R217, R220). -/
def Dev.relayFrame (d : Dev) : Dev :=
  let d := if d.er.abortDue then d.abortNow else d
  if d.er.takeBound == some (.frame 0) || d.er.handBound == some (.frame 0) then d.passRole d.frameSeq else d

/-- Whether the old holder has processed its queued frames below f, or will not (R217). -/
def Engine.released (e : Engine) : Bool :=
  match e.st with
  | .running => e.fifo.isEmpty && !e.busy
  | .faulting => false
  | _ => true

/-- The old holder is done: it is RELEASED, or IDLE where it is E4, or stays FAULTED; the role and the mailboxes follow
(R217 step 5, R219, R398). -/
def Dev.engineReleased (d : Dev) : Dev :=
  match d.er.passing with
  | some (k, _) =>
    let g := d.er.group
    let old := d.holder g
    if (d.eng old.val).released then
      let st := (d.eng old.val).st
      let d := d.modEng old.val fun e => { e with relUpto := none, fifo := [] }
      let d := if st == .running then d.setSt old.val (if old = 4 then .idle else .released) else d
      let roleMb := fun (n : Fin 32) => d.mbRx n.val == 12 + g.val
      let d := { d with roles := d.roles.setIfInBounds g.val k, er := { d.er with passing := none } }
      let d := d.modEng k.val fun e => { e with mailCopied := e.mailCopied.filter fun n => !roleMb n }
      d.raiseSq A.escRlfStat (if k = 4 then 0x4 else 0x8)
    else d
  | none => d

/-- A write of ESC_RLF_CMD with GO (R215-R220). -/
def Dev.rlfCommand (d : Dev) (w : Word) : Dev :=
  match fld w 30 28 with
  | 1 => d.snap (Fin.ofNat 4 (fld w 17 16))
  | 2 => d.takeover (bit w 27) (bit w 26)
  | 3 => d.handback (bit w 27) (bit w 26)
  | 4 => d.rlfAbort
  | _ => d.rlfRefuse 1

end Sys2Proof.Machine
end

