-- ==== Sys2Proof/Machine/Relief.lean ====
section
/-! DEFINITION. Remontoire handover, patrol and system calibration (04). -/
namespace Sys2Proof.Machine

/-! ## Parts of a relief unit -/

def Dev.unit (d : Dev) (u : Nat) : Relief := d.relief.getD u Relief.idle
def Dev.modUnit (d : Dev) (u : Nat) (f : Relief → Relief) : Dev := { d with relief := d.relief.setIfInBounds u (f (d.unit u)) }
def Dev.setRl (d : Dev) (u st : Nat) : Dev := d.putFld (A.cnvRLxStat u) 23 20 st

/-- The target or visited channel of a unit. -/
def Dev.rlTarget (d : Dev) (u : Nat) : Nat := d.rf (A.cnvRLxJob u) 20 16

/-- A refusal with its cause (R139, R140). -/
def Dev.rlRefuse (d : Dev) (u cause : Nat) : Dev := (d.putFld (A.cnvRLxStat u) 19 16 cause).raiseSq (A.cnvRLxStat u) 0x4

/-- An abort's report (R139, R140). -/
def Dev.rlAborted (d : Dev) (u cause : Nat) : Dev := (d.putFld (A.cnvRLxStat u) 19 16 cause).raiseSq (A.cnvRLxStat u) 0x8

/-- The registers of patrol unit u. -/
def ptrlLast (u : Nat) : Nat := if u = 0 then A.cnvPtrlLasta else A.cnvPtrlLastb
def ptrlRatio (u : Nat) : Nat := if u = 0 then A.cnvPtrlRatioa else A.cnvPtrlRatiob
def ptrlDev (u : Nat) : Nat := if u = 0 then A.cnvPtrlDeva else A.cnvPtrlDevb
def ptrlOfs (u : Nat) : Nat := if u = 0 then A.cnvPtrlOfsa else A.cnvPtrlOfsb

/-- A window length below 4 acts as 4 (R144). -/
def winLen (n : Nat) : Nat := Nat.max 4 n

/-- Whether a unit has a START bound. -/
def Dev.startBound (d : Dev) (u : Nat) : Bool :=
  d.bound.any fun e => match e.2 with | .rlStart v _ _ _ => v.val == u | _ => false

/-- Whether a channel is the target of a handover, running or bound (R138, R169). -/
def Dev.isTarget (d : Dev) (k : Nat) : Bool :=
  ([0, 1].any fun u => 1 ≤ d.rlState u && d.rlState u ≤ 7 && d.rlTarget u == k) ||
  (d.bound.any fun e => match e.2 with | .rlStart _ t _ _ => t.val == k | _ => false)

/-! ## Connecting and disconnecting (R135, R143, R160) -/

/-- The tap bits of a channel's RBUS field. -/
def Dev.setTap (d : Dev) (k u : Nat) (on : Bool) : Dev := d.putBit (A.cnvCHkCfg k) (10 + u) on

/-- Step 2 of the forward handover: tap and input connect, the settings of the target load, the relief decimator
restarts (R143). -/
def Dev.rlConnect (d : Dev) (u t : Nat) : Dev :=
  let c := d.ownCfg t
  let d := d.setReg (A.cnvRLxJob u)
    (wd (2 ^ 31 + t * 2 ^ 16 + c.resp * 2 ^ 12 + c.rank * 2 ^ 8 + c.preset * 2 ^ 4 + c.kind * 2 ^ 3 + c.gain))
  let d := (d.setTap t u true).putFld (A.cnvCHkCfg (16 + u)) 11 10 1
  (d.restartChan (16 + u)).modUnit u fun r => { r with win := .settle, cycles := 0, b1 := false, sinceB1 := 0 }

/-- The tap turns off, the relief input is shorted again, the job ends and the unit's own settings return. -/
def Dev.rlDisconnect (d : Dev) (u : Nat) : Dev :=
  let d := (d.setTap (d.rlTarget u) u false).putFld (A.cnvCHkCfg (16 + u)) 11 10 0
  let d := d.putBit (A.cnvRLxJob u) 31 false
  (d.restartChan (16 + u)).modUnit u fun r => { r with win := .none, visiting := none }

/-- The unit ends its job: IDLE, or PATROL again where it came from patrol (R160, R168). -/
def Dev.rlToIdle (d : Dev) (u : Nat) : Dev := (d.rlDisconnect u).setRl u (if (d.unit u).patrolling then 8 else 0)

/-! ## Windows (R144) -/

/-- A window opens with empty sums. -/
def Relief.openWin (r : Relief) : Relief :=
  { r with win := .open, cycles := 0, total := 0, skipped := 0, n := 0, sx := ⟨0, 1⟩, sy := ⟨0, 1⟩, sxx := ⟨0, 1⟩,
           sxy := ⟨0, 1⟩, syy := ⟨0, 1⟩ }

/-- One pair of values into the sums. -/
def Relief.addPair (r : Relief) (x y : Frac) : Relief :=
  { r with n := r.n + 1, sx := Q.add r.sx x, sy := Q.add r.sy y, sxx := Q.add r.sxx (Q.mul x x),
           sxy := Q.add r.sxy (Q.mul x y), syy := Q.add r.syy (Q.mul y y) }

def Flags.any (f : Flags) : Bool := f.off || f.settling || f.disturb || f.ovr

/-- The unit's window takes the samples of an output instant (R144, R145, R159). -/
def Dev.rlFrame (d : Dev) (u : Nat) : Dev :=
  let r := d.unit u
  if r.win == .open && d.delivers (16 + u) then
    let c := d.chan (16 + u)
    let t := d.chan (d.rlTarget u)
    if c.flags.any || t.flags.any then d.modUnit u fun r => { r with total := r.total + 1, skipped := r.skipped + 1 }
    else
      let x := if d.rlState u = 6 then Q.ofInt c.y else Q.mul (Q.mul (Q.ofInt c.x4) (d.tcf (16 + u))) d.rcf
      d.modUnit u fun r => { r with total := r.total + 1 }.addPair x (Q.ofInt t.y)
  else d

/-- Whether a channel's settling has ended, in-phase and companion (R143 step 4). -/
def Dev.settled (d : Dev) (k : Nat) : Bool :=
  let c := d.chan k
  c.zeroLeft == 0 && c.flagLeft == 0 && c.compWin.all fun e => !e.2.skip

/-- The variance term of a window (R145). -/
def Relief.var (r : Relief) : Frac := Q.sub (Q.mul (Q.ofInt r.n) r.sxx) (Q.mul r.sx r.sx)

/-- Whether the signal reaches 5 % of full scale (R145). -/
def Relief.strong (r : Relief) : Bool := !Q.lt r.var (Q.ofInt (r.n * r.n * 349525 ^ 2))

/-- The slope of the fit (R145). -/
def Relief.slope (r : Relief) : Frac := Q.div (Q.sub (Q.mul (Q.ofInt r.n) r.sxy) (Q.mul r.sx r.sy)) r.var

/-- The residual rms of the fit in codes, saturated to the register (R145). -/
def Relief.resid (r : Relief) (g : Frac) : Nat :=
  let n : Frac := ⟨1, Nat.max r.n.toNat 1⟩
  let a := Q.add (Q.sub r.syy (Q.mul (Q.mul ⟨2, 1⟩ g) r.sxy)) (Q.mul (Q.mul g g) r.sxx)
  let b := Q.mul (Q.sub r.sy (Q.mul g r.sx)) n
  satNat 24 (Q.sqrtRound (let v := Q.sub (Q.mul a n) (Q.mul b b); if v.num < 0 then ⟨0, 1⟩ else v))

/-- A fraction as a signed field of 0.1 ppm units, saturating. -/
def tenthPpm (f : Frac) : Int := satI 24 (Q.round (Q.mul f ⟨10000000, 1⟩))

/-- The calibrated gain of a channel: CALG x TCF x RCF (R145). -/
def Dev.chGain (d : Dev) (k : Nat) : Frac :=
  Q.mul (Q.mul (Q.mk (d.af (A.fltCHkCalg k) 23 0) (2 ^ 22)) (d.tcf k)) d.rcf

/-- The intercept c of y = g x + c in output codes (R145, R159, R164; log entry 40). -/
def Relief.intercept (r : Relief) (g : Frac) : Int :=
  satI 24 (Q.round (Q.mul (Q.sub r.sy (Q.mul g r.sx)) ⟨1, Nat.max r.n.toNat 1⟩))

/-- A quotient less 1 in 0.1 ppm; over 0 the spec states none: a free value (log entry 7). -/
def Dev.deviation (d : Dev) (a b : Frac) : Int × Dev :=
  if b.num = 0 then let (f, d) := d.free; (sextN 24 f, d) else (tenthPpm (Q.sub (Q.div a b) ⟨1, 1⟩), d)

/-- MOFS in output codes; with a slope of 0 the spec states none: a free value (R145; log entry 7). -/
def Dev.matchOfs (d : Dev) (u : Nat) (g : Frac) : Int × Dev :=
  let r := d.unit u
  if g.num = 0 then let (f, d) := d.free; (sextN 24 f, d)
  else
    let s := Q.mul (Q.sub r.sx (Q.div r.sy g)) ⟨1, Nat.max r.n.toNat 1⟩
    (satI 24 (Q.round (Q.div s (Q.mul (d.tcf (16 + u)) d.rcf))), d)

/-- Whether RESID exceeds the unit's limit (R147). -/
def Dev.residBad (d : Dev) (u resid : Nat) : Bool := decide (resid > d.af (A.cnvRLxLim u) 15 0 * 16)

/-- A window ends with its report: MATCHDONE, DISAGREE (R147, R159). -/
def Dev.matchDone (d : Dev) (u st : Nat) (disagree : Bool) : Dev :=
  let d := ((d.putBit (A.cnvRLxStat u) 5 disagree).setRl u st).raiseSq (A.cnvRLxStat u) 0x1
  d.modUnit u fun r => { r with win := .none }

/-- The MATCH window closes at boundary n (R145-R147, R143 steps 7 and 8). -/
def Dev.matchClose (d : Dev) (u : Fin 2) (n : Nat) : Dev :=
  let r := d.unit u
  let held := !r.strong
  let gt := d.chGain (d.rlTarget u)
  let g := if held then gt else r.slope
  let (ofs, d) := d.matchOfs u g
  let (gdev, d) := d.deviation g gt
  let resid := r.resid g
  let d := d.setReg (A.cnvRLxMgain u) (wd (clampI 0 (2 ^ 24 - 1) (Q.round (Q.mul g ⟨2 ^ 22, 1⟩))).toNat)
  let d := d.setReg (A.cnvRLxMofs u) (wd (toField 24 ofs))
  let d := d.setReg (A.cnvRLxResid u) (wd resid)
  let d := d.setReg (A.cnvRLxGdev u) (wd (toField 24 gdev))
  let bad := d.residBad u resid
  let d := (d.putBit (A.cnvRLxStat u) 6 held).matchDone u 3 bad
  if r.autoswap && !bad && !held then { d with bound := d.bound ++ [(n + 1, .rlSwap u)] } else d

/-- The VERIFY window closes at boundary n (R159). A window without variance states no slope, so GDEV is a free value (log entry 7);
RESID is then the rms of the target's output about its mean, whatever the slope. -/
def Dev.verifyClose (d : Dev) (u : Fin 2) (n : Nat) : Dev :=
  let r := d.unit u
  let t := d.rlTarget u
  let gj : Nat := 2 ^ d.rf (A.cnvRLxJob u) 2 0
  let gt : Nat := 2 ^ (d.ownCfg t).gain
  let (gdev, resid, d) :=
    if r.var.num = 0 then
      let (a, d) := d.free
      (sextN 24 a, r.resid ⟨0, 1⟩, d)
    else (tenthPpm (Q.sub (Q.mul r.slope (Q.mk gj gt)) ⟨1, 1⟩), r.resid r.slope, d)
  let d := (d.setReg (A.cnvRLxGdev u) (wd (toField 24 gdev))).setReg (A.cnvRLxResid u) (wd resid)
  let bad := decide (gdev.natAbs > 10 * d.af (A.cnvRLxLim u) 31 16) || d.residBad u resid
  let held := d.rb (A.cnvRLxStat u) 6
  let d := d.matchDone u 7 bad
  if r.autoswap && !bad && !held then { d with bound := d.bound ++ [(n + 1, .rlSwap u)] } else d

/-- The visit's window closes with its report (R164-R166); a weak signal gives none. -/
def Dev.visitClose (d : Dev) (u : Fin 2) : Dev :=
  let r := d.unit u
  let k := d.rlTarget u
  if !r.strong then d
  else
    let g := r.slope
    let resid := r.resid g
    let (dv, d) := match SMap.find r.refs k with | some ref => d.deviation g ref | none => (0, d)
    let ref := (SMap.find r.refs k).getD g
    let visits := (r.visits + 1) % 65536
    let d := d.modUnit u fun r => { r with refs := SMap.insert k ref r.refs, visits := visits }
    let d := d.setReg (ptrlLast u) (wd (2 ^ 31 + k * 2 ^ 16 + visits))
    let d := d.setReg (ptrlRatio u) (wd (clampI 0 (2 ^ 24 - 1) (Q.round (Q.mul g ⟨2 ^ 22, 1⟩))).toNat)
    let d := (d.setReg (ptrlOfs u) (wd (toField 24 (r.intercept g)))).setReg (ptrlDev u) (wd (toField 24 dv))
    let d := (d.setReg (A.cnvRLxResid u) (wd resid)).raiseSq A.cnvPtrlStat (2 ^ u.val)
    d.raiseIf (decide (dv.natAbs > 10 * d.af A.cnvPtrlCfg 31 16) || d.residBad u resid) A.cnvPtrlDis (2 ^ k)

/-! ## Patrol (R163) -/

/-- Whether a listed channel can be visited (R163). -/
def Dev.visitable (d : Dev) (u k : Nat) : Bool :=
  d.ab A.cnvPtrlList (16 * u + k) && d.chanOn k && !d.isTarget k

/-- The next visit begins, with the channel after the last one, wrapping around (R163). A patrol started again after a PSTOP goes on
after the earlier patrol's last channel, which the spec leaves open (log entry 40). -/
def Dev.nextVisit (d : Dev) (u : Fin 2) : Dev :=
  let l := (List.range 16).filter (d.visitable u)
  let next := match (d.unit u).lastDone with
    | some k => match l.find? (k.val < ·) with | some j => some j | none => l.head?
    | none => l.head?
  match next with
  | some k =>
    if d.on 2 then (d.rlConnect u k).modUnit u fun r => { r with visiting := some (Fin.ofNat 16 k) } else d
  | none => d

/-- A visit ends, with or without a report, and the unit moves on (R164). -/
def Dev.visitEnd (d : Dev) (u : Fin 2) : Dev :=
  let k := (d.unit u).visiting
  (d.rlDisconnect u).modUnit u fun r => { r with lastDone := k }

/-! ## The boundary -/

/-- The channel whose settling a unit waits for: the relief channel, or the target on a return (R143, R158). -/
def Dev.settlesFor (d : Dev) (u : Nat) : Bool :=
  match d.rlState u with
  | 5 | 6 | 7 => d.settled (d.rlTarget u) && d.settled (16 + u)
  | _ => d.settled (16 + u) && d.settled (d.rlTarget u)

/-- A window opens at a boundary: SHADOW becomes MATCH, RSHADOW becomes VERIFY (R143 step 5, R158). -/
def Dev.rlOpen (d : Dev) (u : Nat) : Dev :=
  let d := d.modUnit u fun r => { r.openWin with b1 := true }
  match d.rlState u with
  | 1 => d.setRl u 2
  | 5 => d.setRl u 6
  | _ => d

/-- The windows of a unit at boundary n, with the values in force in the cycle just ended (R144, R145, R158, R164). -/
def Dev.rlWindow (d : Dev) (u : Fin 2) (n : Nat) : Dev :=
  let d := if (d.unit u).b1 then d.modUnit u fun r => { r with sinceB1 := r.sinceB1 + 1 } else d
  let r := d.unit u
  match r.win with
  | .none => d
  | .settle => if d.settlesFor u then d.rlOpen u else d
  | .waitOpen => d.rlOpen u
  | .open =>
    let len := winLen (if d.rlState u = 8 then d.af A.cnvPtrlCfg 15 8 else r.matchcyc)
    if r.cycles + 1 < len then d.modUnit u fun r => { r with cycles := r.cycles + 1 }
    else if 4 * r.skipped > r.total || r.n = 0 then d.modUnit u Relief.openWin
    else match d.rlState u with
      | 2 => d.matchClose u n
      | 6 => d.verifyClose u n
      | 8 => (d.visitClose u).visitEnd u
      | _ => d

/-- The groups whose frames carry a slot (R182). -/
def Dev.slotGroups (d : Dev) (k : Nat) : List (Fin 4) :=
  [0, 1, 2, 3].filter fun g => decide (g.val < d.fuses.groups) && (k < 4 || (d.fuses.groupCur g).contains k)

/-- A swap takes effect from the boundary frame (R149, R160). -/
def Dev.rlSwapNow (d : Dev) (u : Nat) : Dev :=
  let t := d.rlTarget u
  let mark := fun (d : Dev) => { d with swpMark := d.swpMark ++ d.slotGroups t }
  match d.rlState u with
  | 3 => mark (({ d with slots := d.slots.setIfInBounds t (Fin.ofNat 18 (16 + u)) } : Dev).setRl u 4 |>.raiseSq (A.cnvRLxStat u) 0x2)
  | 7 => mark ((({ d with slots := d.slots.setIfInBounds t (Fin.ofNat 18 t) } : Dev).rlToIdle u).raiseSq (A.cnvRLxStat u) 0x2)
  | _ => d

/-- An ABORT at its boundary (R162), or a timeout. R144 sends a timed-out handover to IDLE, and R158 runs VERIFY by R144; that a
timed-out VERIFY leaves the unit in RELIEVED, as an ABORT does, is the model's reading, since the target holds no slot (log
entry 40). -/
def Dev.rlAbortNow (d : Dev) (u cause : Nat) (report : Bool) : Dev :=
  let rep := fun (d : Dev) => if report then d.rlAborted u cause else d
  match d.rlState u with
  | 0 => rep d
  | 1 | 2 | 3 => rep (d.rlToIdle u)
  | 5 | 6 | 7 => rep ((d.setRl u 4).modUnit u fun r => { r with win := .none })
  | _ => d

/-- One bound action of relief units at its boundary; `acts` are all actions of the boundary (R162, R169). -/
def Dev.rlAct (d : Dev) (acts : List Bind) (b : Bind) : Dev :=
  match b with
  | .rlStart u t m a =>
    if acts.contains (.rlAbort u) && d.rlState u = 0 then d
    else if !(d.chanOn t.val && d.on 2) || d.goesOff 2 || d.goesOff (bankDom t.val) then d.rlRefuse u 3
    else
      let d := if d.rlState u = 8 && d.rlJob u then d.rlDisconnect u else d
      let d := d.modUnit u fun r => { r with autoswap := a, matchcyc := m }
      (d.rlConnect u t.val).setRl u 1
  | .rlSwap u => if acts.contains (.rlAbort u) then d else d.rlSwapNow u
  | .rlReturn u m a =>
    if d.rlState u = 4 then
      (d.modUnit u fun r => { r with autoswap := a, matchcyc := m, win := .settle, b1 := false, sinceB1 := 0 }).setRl u 5
    else d
  | .rlAbort u => d.rlAbortNow u 9 true
  | .rlTimeout u =>
    if acts.any fun b => match b with | .rlStart v _ _ _ => v == u | _ => false then d
    else if d.rlState u = 8 then (if d.rlJob u then d.visitEnd u else d) else d.rlAbortNow u 10 false
  | .rlPatrol u => if d.rlState u = 0 then (d.setRl u 8).modUnit u fun r => { r with patrolling := true } else d
  | .rlPstop u =>
    let d := d.modUnit u fun r => { r with patrolling := false }
    if d.rlState u = 8 then (if d.rlJob u then d.rlDisconnect u else d).setRl u 0 else d
  | _ => d

/-- Units in patrol that visit nothing begin a visit at this boundary (R163, R164). -/
def Dev.patrolNext (d : Dev) (u : Fin 2) : Dev := if d.rlState u = 8 && !d.rlJob u then d.nextVisit u else d

/-! ## Changes on a target (R169) -/

/-- A job setting of a channel changed at an apply point. -/
def Dev.rlSettings (d : Dev) (k u : Nat) : Dev :=
  if d.rlJob u && d.rlTarget u == k then
    match d.rlState u with
    | 1 | 2 | 3 => (d.rlToIdle u).rlAborted u 7
    | 8 => d.visitEnd (Fin.ofNat 2 u)
    | _ => d
  else d

/-- A calibration coefficient of a channel changed at an apply point. -/
def Dev.rlCoefs (d : Dev) (k : Nat) (u : Fin 2) : Dev :=
  if d.rlJob u && d.rlTarget u == k then
    let wait := fun (d : Dev) => (d.unbind (· == .rlSwap u)).modUnit u fun r => { r with win := if r.win == .settle then .settle else .waitOpen }
    match d.rlState u with
    | 2 | 6 => wait d
    | 3 => (wait d).setRl u 2
    | 7 => (wait d).setRl u 6
    | 8 => if (d.unit u).win == .open then wait d else d
    | _ => d
  else d

/-- A window in progress restarts at this boundary: a slice retirement on either channel, or a bandgap swap. -/
def Dev.rlRestart (d : Dev) (u : Nat) (hit : Nat → Bool) : Dev :=
  if (d.unit u).win == .open && (hit (16 + u) || hit (d.rlTarget u)) then d.modUnit u Relief.openWin else d

/-- A synchronising reset: a window restarts after both channels' settling (R169). -/
def Dev.rlSync (d : Dev) (u : Nat) : Dev :=
  d.modUnit u fun r => if r.win == .open || r.win == .waitOpen then { r with win := .settle } else r

/-! ## Commands of a relief unit (R140-R142, R148, R157, R162, R163, R167) -/

def Dev.rlStart (d : Dev) (u : Fin 2) (target matchcyc : Nat) (auto : Bool) : Dev :=
  if !(d.rlState u = 0 || d.rlState u = 8) || d.startBound u then d.rlRefuse u 5
  else if 16 ≤ target || !d.fuses.chan target then
    let d := d.rlRefuse u 2
    if target < 18 && !d.fuses.chan target then (d.setReg A.fltErrinfo (wd (target * 256 + 4))).raiseSq A.fltStat 0x1 else d
  else if !(d.chanOn target && d.on 2) || d.goesOff 2 || d.goesOff (bankDom target) then d.rlRefuse u 3
  else if d.isTarget target then d.rlRefuse u 4
  else d.bind (.rlStart u (Fin.ofNat 16 target) matchcyc auto)

def Dev.rlSwap (d : Dev) (u : Fin 2) (force : Bool) : Dev :=
  if !(d.rlState u = 3 || d.rlState u = 7) then d.rlRefuse u 5
  else if (d.rb (A.cnvRLxStat u) 5 || d.rb (A.cnvRLxStat u) 6) && !force then d.rlRefuse u 8
  else if d.bound.any fun e => e.2 == .rlSwap u then d else d.bind (.rlSwap u)

def Dev.rlReturn (d : Dev) (u : Fin 2) (matchcyc : Nat) (auto : Bool) : Dev :=
  if d.rlState u ≠ 4 then d.rlRefuse u 5
  else
    let c := d.ownCfg (d.rlTarget u)
    let j := d.chCfg (16 + u.val)
    if c.preset = j.preset && c.rank = j.rank && c.resp = j.resp then
      (d.unbindHere fun b => match b with | .rlReturn v _ _ => v == u | _ => false).bind (.rlReturn u matchcyc auto)
    else d.rlRefuse u 6

def Dev.rlPstop (d : Dev) (u : Fin 2) : Dev :=
  if d.rlState u = 8 then d.bind (.rlPstop u) else d.rlRefuse u 5

def Dev.rlAbort (d : Dev) (u : Fin 2) : Dev :=
  match d.rlState u with
  | 8 => d.rlPstop u
  | 4 => d.rlRefuse u 5
  | 0 => if d.startBound u then d.bind (.rlAbort u) else d.rlRefuse u 5
  | _ => d.bind (.rlAbort u)

def Dev.rlPatrol (d : Dev) (u : Fin 2) : Dev :=
  if d.rlState u = 0 then d.bind (.rlPatrol u) else d.rlRefuse u 5

/-- A write of CNV_RLx_CMD with GO (R140): OP and the fields. -/
def Dev.rlCommand (d : Dev) (u : Fin 2) (w : Word) : Dev :=
  match fld w 30 28 with
  | 1 => d.rlStart u (fld w 20 16) (fld w 15 8) (bit w 27)
  | 2 => d.rlSwap u (bit w 26)
  | 3 => d.rlReturn u (fld w 15 8) (bit w 27)
  | 4 => d.rlAbort u
  | 5 => d.rlPatrol u
  | 6 => d.rlPstop u
  | _ => d.rlRefuse u 1

/-- The limit of R144 passes: the handover aborts with CAUSE 10 and leaves its window at the next boundary. -/
def Dev.rlTimeout (d : Dev) (u : Fin 2) : Dev :=
  let r := d.unit u
  let st := d.rlState u
  let len := winLen (if st = 8 then d.af A.cnvPtrlCfg 15 8 else r.matchcyc)
  if (st = 2 || st = 6 || (st = 8 && d.rlJob u)) && decide (4 * len + 8 ≤ r.sinceB1)
      && !(d.bound.any fun e => e.2 == .rlTimeout u) then
    (if st = 8 then d else d.rlAborted u 10).bind (.rlTimeout u)
  else d

/-- REBASE of a unit: each channel's next visit sets its reference (R165). -/
def Dev.rebase (d : Dev) (u : Nat) : Dev := d.modUnit u fun r => { r with refs := [] }

/-! ## System calibration (R170-R179) -/

def Dev.setCalState (d : Dev) (st : Nat) : Dev := d.putFld A.cnvCalstat 23 20 st

/-- A refusal or failure with its cause (R171, R174). -/
def Dev.calFail (d : Dev) (cause : Nat) : Dev := (d.putFld A.cnvCalstat 19 16 cause).raiseSq A.cnvCalstat 0x4

/-- The measurement ends. -/
def Dev.calEnd (d : Dev) : Dev := { (d.setCalState 0).unbind (· == .cal) with cal := none }

/-- A ZERO or FULL step (R171, R172). -/
def Dev.calStart (d : Dev) (full : Bool) (ch : Nat) (short dc : Bool) (ncyc : Nat) : Dev :=
  if 16 ≤ ch || !d.fuses.chan ch then d.calFail 2
  else if !d.chanOn ch then d.calFail 3
  else if d.cal.isSome then d.calFail 4
  else if !full && short && (d.slots.toList.any fun k => k.val == ch) then d.calFail 5
  else if full && (SMap.find d.calZeros ch).isNone then d.calFail 6
  else
    let c : CalUnit := { full := full, ch := Fin.ofNat 16 ch, short := short && !full, dc := dc, ncyc := Nat.max 1 ncyc,
                         running := false, cycles := 0, since := 0, n := 0, sum := ⟨0, 1⟩, sq := ⟨0, 1⟩, restart := false }
    (({ d with cal := some c } : Dev).setCalState 1).putFld A.cnvCalinfo 31 16 0 |>.bind .cal

/-- STEP ABORT (R174). -/
def Dev.calAbort (d : Dev) : Dev := if d.cal.isSome then d.calEnd.calFail 10 else d

/-- A write of CNV_CALCMD with GO (R171). -/
def Dev.calCommand (d : Dev) (w : Word) : Dev :=
  match fld w 30 28 with
  | 1 => d.calStart false (fld w 20 16) (bit w 27) (bit w 26) (fld w 15 8)
  | 2 => d.calStart true (fld w 20 16) (bit w 27) (bit w 26) (fld w 15 8)
  | 3 => d.calAbort
  | _ => d.calFail 1

/-- The window is spoilt and restarts at the next boundary (R174). -/
def Dev.calSpoil (d : Dev) (c : CalUnit) : Dev :=
  if c.restart then d
  else ({ d with cal := some { c with restart := true } } : Dev).count A.cnvCalinfo 31 16 1

/-- A loss of lock spoils a window in AC mode (R174). -/
def Dev.calUnlocked (d : Dev) : Dev :=
  match d.cal with
  | some c => if c.running && c.full && !c.dc then d.calSpoil c else d
  | none => d

/-- The calibration window takes a sample of its channel (R173, R174). -/
def Dev.calFrame (d : Dev) : Dev :=
  match d.cal with
  | none => d
  | some c =>
    let k := c.ch.val
    if !c.running || c.restart || (d.chanOn k && !d.delivers k) then d
    else
      let s := d.chan k
      if s.flags.any || !d.chanOn k || (c.full && !c.dc && !d.locked) then d.calSpoil c
      else
        let x := if c.full then Q.mul (Q.mul (Q.ofInt (s.x4 - (SMap.find d.calZeros k).getD 0)) (d.tcf k)) d.rcf else Q.ofInt s.x4
        { d with cal := some { c with n := c.n + 1, sum := Q.add c.sum x, sq := Q.add c.sq (Q.mul x x) } }

/-- The results of a window (R173, R174). -/
def Dev.calClose (d : Dev) (c : CalUnit) : Dev :=
  let k := c.ch.val
  let n : Frac := ⟨1, Nat.max c.n.toNat 1⟩
  let d := d.calEnd.putFld A.cnvCalinfo 15 8 c.ncyc
  if c.full then
    let m : Int := if c.dc then Q.round (Q.mul c.sum n) else Q.sqrtRound (Q.mul c.sq n)
    let d := d.setReg A.cnvCalmeas1 (wd (toField 24 m))
    let tgt : Int := if c.dc then sextN 24 (d.rf A.cnvCaltgt 23 0) else d.rf A.cnvCaltgt 23 0
    if m.natAbs < 65536 then d.calFail 8
    else
      let g := Q.round (Q.div (Q.ofInt (tgt * 2 ^ 22)) (Q.ofInt m))
      if g < 0x300000 || 0x500000 < g then d.calFail 9
      else
        let d := d.setReg A.cnvCalresg (wd (2 ^ 31 + k * 2 ^ 24 + g.toNat))
        let d := d.setReg A.cnvCalreso (wd (2 ^ 31 + toField 24 ((SMap.find d.calZeros k).getD 0)))
        d.raiseSq A.cnvCalstat 0x2
  else
    let x0 := satI 24 (Q.round (Q.mul c.sum n))
    let d := { d with calZeros := SMap.insert k x0 d.calZeros }
    (d.setReg A.cnvCalmeas0 (wd (toField 24 x0))).raiseSq A.cnvCalstat 0x1

/-- The calibration unit at a cycle boundary (R172, R174); `due`: the bound step opens its window here (R179). -/
def Dev.calBoundary (d : Dev) (due : Bool) : Dev :=
  match d.cal with
  | none => d
  | some c =>
    let fresh : CalUnit := { c with running := true, restart := false, cycles := 0, n := 0, sum := ⟨0, 1⟩, sq := ⟨0, 1⟩ }
    if !c.running then
      if due then
        let d := if c.full then (d.putBit A.cnvCalresg 31 false).putBit A.cnvCalreso 31 false else d
        ({ d with cal := some fresh } : Dev).setCalState 2
      else d
    else if c.restart || c.n = 0 then { d with cal := some { fresh with since := c.since + 1 } }
    else if c.cycles + 1 < c.ncyc then { d with cal := some { c with cycles := c.cycles + 1, since := c.since + 1 } }
    else d.calClose c

/-- The limit of R174 passes. -/
def Dev.calTimeout (d : Dev) : Dev :=
  match d.cal with
  | some c => if c.running && decide (4 * c.ncyc + 8 ≤ c.since) then d.calEnd.calFail 7 else d
  | none => d

end Sys2Proof.Machine
end

