-- ==== Sys2Proof/Machine/Updates.lean ====
section
/-! DEFINITION. Buffered registers and update groups: the checks of a REG_UPDATE, staging, binding and applying (R130, R131,
R154, R371-R377). -/
namespace Sys2Proof.Machine

/-! ## Which group a register belongs to (R371) -/

/-- Whether a register is buffered: its type summary is BW. -/
def isBuffered (a : Nat) : Bool := match rowAt a with | some r => r.typ == .bw | none => false

/-- The update group of a buffered register. -/
def Dev.ugOf (d : Dev) (a : Nat) : Nat :=
  let o := a % 0x10000
  let ug := fun r => d.rf r 30 28
  match a / 0x10000 with
  | 0x3 => ug A.clkCyccfg
  | 0x4 => if 0x100 ≤ o then ug (A.fltCHkCfg ((o - 0x100) / 0x80)) else 0
  | 0x5 => ug (A.fltCHkCfg ((o - 0x100) / 0x80))
  | 0x6 => ug A.auxCfg
  | 0x7 => ug (A.escEkCfg ((o - 0x100) / 0x80))
  | 0xC => if o < 0x600 then ug (A.bimGgCfg ((o - 0x100) / 0x100)) else ug (A.bimCFnCfg ((o - 0x600) / 0x40))
  | 0xD => ug A.hrmCfg
  | 0xE => ug A.hrmCfg
  | _ => 0

/-- The registers that always apply at a cycle boundary (R376). -/
def cycleOnly (a : Nat) : Bool := a == A.clkCyccfg || a == A.cnvCtrl

/-- The buffered registers that meet a condition and do not stand at their reset values, in ascending address. -/
def Dev.bufKeys (d : Dev) (p : Nat → Bool) : List Nat :=
  ((((d.regs ++ d.act).map Prod.fst).filter fun a => isBuffered a && p a).foldl
    (fun (m : SMap Unit) a => SMap.insert a () m) []).map Prod.fst

/-- The pending values of the registers that meet a condition. -/
def Dev.pendingVals (d : Dev) (p : Nat → Bool) : SMap Word := (d.bufKeys p).map fun a => (a, d.reg a)

/-- The apply point of a group (REG_UGCFG): 0 immediate, 1 next frame, 2 next cycle boundary. -/
def Dev.ugApply (d : Dev) (n : Nat) : Nat := d.rf A.regUgcfg (2 * n + 1) (2 * n)

/-! ## The checks (R130, R131, R154) -/

/-- The settings the checks compare: the index reported, preset, rank and response. -/
structure Checked where
  ch : Nat
  preset : Nat
  rank : Nat
  resp : Nat
deriving DecidableEq, Repr

/-- The unit whose relief channel stands in a channel's frame slot (R153). -/
def Dev.releasedBy (d : Dev) (k : Nat) : Option Nat :=
  [0, 1].find? fun u => 4 ≤ d.rlState u && d.rlState u ≤ 7 && d.rlTarget u == k

/-- The settings a job fixes (R137, R154). -/
def Dev.jobChecked (d : Dev) (u : Nat) : Checked :=
  let c := d.chCfg (16 + u)
  ⟨16 + u, c.preset, c.rank, c.resp⟩

/-- The settings of a grouped channel that a word of FLT_CHk_CFG gives. -/
def checkedOf (k : Nat) (w : Word) : Checked := ⟨k, fld w 1 0, fld w 9 8, fld w 15 12⟩

/-- The grouped channels whose bank is on. -/
def Dev.groupedOn (d : Dev) : List Nat := d.fuses.grouped.filter d.chanOn

/-- The reference: the lowest-index grouped channel whose bank is on and whose own samples stand in its slot; where every slot is a
relief channel's, the first of these (R131, R153, R154; log entry 19). -/
def Dev.checkRef (d : Dev) (w : Nat → Word) : Option Checked :=
  match d.groupedOn.find? fun k => (d.releasedBy k).isNone with
  | some k => some (checkedOf k (w k))
  | none => (d.groupedOn.head?.bind d.releasedBy).map d.jobChecked

/-- What a REG_UPDATE of the groups in a mask would put in force. -/
def Dev.wouldBe (d : Dev) (mask : Nat) (a : Nat) : Word := if mask.testBit (d.ugOf a) then d.reg a else d.active a

/-- The cause and channel that reject an update with GROUP_CFG_ERR (R131). -/
def Dev.updateCheck (d : Dev) (mask : Nat) : Option (Nat × Nat) :=
  let w := fun k => d.wouldBe mask (A.fltCHkCfg k)
  match d.checkRef w with
  | none => none
  | some r =>
    let own := (d.groupedOn.filter fun k => (d.releasedBy k).isNone).map fun k => checkedOf k (w k)
    let jobs := ([0, 1].filter d.rlJob).map d.jobChecked
    let bad := fun (c : Checked) =>
      if c.preset ≠ r.preset then some 1 else if c.rank ≠ r.rank then some 2 else if c.resp = 13 then some 3 else none
    match (own ++ jobs).find? fun c => (bad c).isSome with
    | some c => (bad c).map fun cause => (cause, c.ch)
    | none =>
      if r.preset = d.framePreset then none
      else if d.groupedOn.any fun k => fld (w k) 1 0 ≠ d.af (A.fltCHkCfg k) 1 0 && d.ugApply (d.ugOf (A.fltCHkCfg k)) ≠ 2 then
        some (5, r.ch)
      else if !d.allFit r.preset d.boundNow then some (6, r.ch)
      else none

/-! ## Applying (R41, R53, R117, R129, R373) -/

/-- A change of a channel's input stage (R53). That a change of KIND alone settles as a change of the gain does is the model's choice
(R55, log entry 14). -/
def Dev.gainChanged (d : Dev) (k : Nat) : Dev :=
  let d := if d.chanOn k && !(16 ≤ k && d.rlJob (k - 16)) then d.settleGain k else d
  (d.rlSettings k 0).rlSettings k 1

/-- A change of a channel's chain settings (R117, R129). -/
def Dev.chainChanged (d : Dev) (k : Nat) (old new : Word) : Dev :=
  let job := 16 ≤ k && d.rlJob (k - 16)
  let preset := fld old 1 0 ≠ fld new 1 0
  let resp := fld old 9 8 ≠ fld new 9 8 || fld old 15 12 ≠ fld new 15 12
  let d := if job || !d.chanOn k then d else if resp then d.settleResp k else d
  let d := if job || !d.chanOn k || !preset then d else let cfg := d.chCfg k; let m := d.modCnt; d.modChan k fun c => c.moveGrid cfg m
  let d := if preset || resp then (d.rlSettings k 0).rlSettings k 1 else d
  [0, 1].foldl (fun d i =>
    if bit old (4 + i) && !bit new (4 + i) then
      (d.putBit (A.fltCHkStat k) (8 + i) false).modChan k fun c => if i = 0 then { c with run0 := 0 } else { c with run1 := 0 }
    else d) d

/-- What the change of one active value brings with it. -/
def Dev.changed (d : Dev) (a : Nat) (old new : Word) : Dev :=
  let o := a % 0x10000
  match a / 0x10000 with
  | 0x4 =>
    if 0x100 ≤ o && (o - 0x100) % 0x80 = 0 then (if (old ^^^ new) &&& 0x207#32 = 0#32 then d else d.gainChanged ((o - 0x100) / 0x80)) else d
  | 0x5 =>
    let k := (o - 0x100) / 0x80
    match (o - 0x100) % 0x80 with
    | 0x00 => d.chainChanged k old new
    | 0x10 => (d.rlCoefs k 0).rlCoefs k 1
    | 0x14 => (d.rlCoefs k 0).rlCoefs k 1
    | _ => d
  | 0xC =>
    if 0x600 ≤ o then (if (o - 0x600) % 0x40 = 0 && (old ^^^ new) &&& 0xFE0#32 ≠ 0#32 then d.retarget ((o - 0x600) / 0x40) else d)
    else if (o - 0x100) % 0x100 = 0 && !bit old 8 && bit new 8 then
      d.modGroup ((o - 0x100) / 0x100) fun x => { x with agrFirst := true }
    else d
  | 0x6 => if a = A.auxTRGnCfg 1 && !bit old 31 && bit new 31 then { d with aux := { d.aux with timerAt := d.now } } else d
  | 0xE => if a = A.evtCfg && !bit old 8 && bit new 8 then d.slideStart else d
  | _ => d

/-- FLT_FRAME takes the preset and rank length that a step puts in force: those of the lowest-index grouped channel that is on and
whose settings the step sets (R628; log entry 50). -/
def Dev.frameFollows (d : Dev) (vals : List (Nat × Word)) : Dev :=
  match (d.groupedOn.filter fun k => (d.releasedBy k).isNone && vals.any fun e => e.1 == A.fltCHkCfg k).head? with
  | some k =>
    let w := d.active (A.fltCHkCfg k)
    (d.putFld A.fltFrame 1 0 (fld w 1 0)).putFld A.fltFrame 9 8 (fld w 9 8)
  | none => d

/-- The grouped channels whose bank powered up since the update was staged hold the frame's former settings: they follow it, since
all grouped channels that are on hold one preset and rank length (R22, R108, R628; log entry 50). -/
def Dev.stragglers (d : Dev) : List (Nat × Word × Word) :=
  (d.groupedOn.filter fun k => (d.releasedBy k).isNone).filterMap fun k =>
    let a := A.fltCHkCfg k
    let w := setFld (setFld (d.active a) 1 0 d.framePreset) 9 8 d.frameRank
    if w = d.active a then none else some (a, d.active a, w)

/-- Values become active in one step. -/
def Dev.applyVals (d : Dev) (vals : List (Nat × Word)) : Dev :=
  let changes := (vals.map fun e => (e.1, d.active e.1, e.2)).filter fun c => c.2.1 != c.2.2
  let frame := d.reg A.fltFrame
  let d := (changes.foldl (fun d c => d.setActive c.1 c.2.2) d).frameFollows vals
  let late := if d.reg A.fltFrame = frame then [] else d.stragglers
  let d := late.foldl (fun d c => (d.setReg c.1 (setFld (setFld (d.reg c.1) 1 0 d.framePreset) 9 8 d.frameRank)).setActive c.1 c.2.2) d
  let d := if changes.isEmpty then d else d.restartScan
  (changes ++ late).foldl (fun d c => d.changed c.1 c.2.1 c.2.2) d

/-- The staged copies that meet a condition apply in one step (R41, R373). -/
def Dev.applyStaged (d : Dev) (p : ApplyAt → Bool) : Dev :=
  let due := d.staged.filter fun s => p s.pt
  if due.isEmpty then d
  else
    let bits := (List.range 8).foldl (fun a n => if due.any fun s => s.ug.val == n then a + 2 ^ (8 + n) else a) 0
    let d := { d with staged := d.staged.filter fun s => !p s.pt }
    (d.applyVals (due.foldl (fun l s => l ++ s.vals) [])).raiseSq A.regUpdstat bits

/-- Staged values of a range of registers whose domain was reset are lost (R377). -/
def Dev.dropStaged (d : Dev) (lo hi : Nat) : Dev :=
  { d with staged := d.staged.map fun s => { s with vals := SMap.dropRange lo hi s.vals } }

/-! ## REG_UPDATE (R373-R376) -/

/-- What a REG_UPDATE completing at time t stages for a group: its copy, and apart from it the registers that wait for a
boundary whatever the group's apply point. An immediate copy is bound to `frame 0`. -/
def Dev.stagings (d : Dev) (n : Fin 8) (t : Nat) : List Staged :=
  let mine := fun a => d.ugOf a == n.val
  let cyc := ApplyAt.cycle d.nextBoundary
  if d.ugApply n.val = 2 then [⟨n, false, cyc, d.pendingVals mine⟩]
  else
    let late := (d.pendingVals fun a => mine a && cycleOnly a).filter fun e => e.2 != d.active e.1
    ⟨n, false, if d.ugApply n.val = 1 then .frame (t + 33) else .frame 0, d.pendingVals fun a => mine a && !cycleOnly a⟩ ::
      (if late.isEmpty then [] else [⟨n, true, cyc, late⟩])

/-- Whether two apply points are one: the same boundary, or the same frame of the present grid. -/
def Dev.samePoint (d : Dev) (p q : ApplyAt) : Bool :=
  match p, q with
  | .cycle m, .cycle n => m == n
  | .frame s, .frame t =>
    let per := presetP d.framePreset
    (s - d.instT + per - 1) / per == (t - d.instT + per - 1) / per
  | _, _ => false

/-- Whether a staged copy stands against a new binding of its group (R374): one bound to another point; the part that waits for a
boundary whatever the apply point is, once the cut-off of that boundary has passed (R376). -/
def Dev.stagedElsewhere (d : Dev) (n : Fin 8) (new : List Staged) : Bool :=
  d.staged.any fun s => s.ug == n && (if s.late then !d.samePoint (.cycle d.nextBoundary) s.pt
    else !(new.any fun x => x.ug == n && !x.late && d.samePoint x.pt s.pt))

/-- A REG_UPDATE completes at time t. -/
def Dev.regUpdate (d : Dev) (mask t : Nat) : Dev :=
  let named := ([0, 1, 2, 3, 4, 5, 6, 7] : List (Fin 8)).filter fun n => mask.testBit n.val
  let new := named.flatMap fun n => d.stagings n t
  let bad := d.updateCheck mask
  let busy := named.any fun n => d.stagedElsewhere n new
  match bad, busy with
  | none, false =>
    let d := { d with staged := d.staged.filter (fun (s : Staged) => !named.contains s.ug) ++ new }
    let d := named.foldl (fun d n =>
      let p := match d.ugApply n.val with | 2 => ApplyAt.cycle d.nextBoundary | 1 => .frame (t + 33) | _ => .frame 0
      d.tableBind n.val p (d.ugApply n.val == 0)) d
    d.applyStaged (· == ApplyAt.frame 0)
  | _, _ =>
    let d := match bad with
      | some (cause, ch) => (d.setReg A.fltErrinfo (wd (ch * 256 + cause))).raiseSq A.fltStat 0x1
      | none => d
    d.raiseSq A.regUpdstat (bad.isSome.toNat + 2 * busy.toNat)

/-- REG_UPDSTAT.STAGED. -/
def Dev.stagedBits (d : Dev) : Nat := (List.range 8).foldl (fun a n => if d.staged.any fun s => s.ug.val == n then a + 2 ^ n else a) 0

end Sys2Proof.Machine
end

