-- ==== Sys2Proof/Machine/Lock.lean ====
section
/-! DEFINITION. The frequency-locked loop and the zero-crossing outputs (R293-R298, R43, R44). -/
namespace Sys2Proof.Machine

/-- The nominal frequency selected is 60 Hz (CLK_CYCCFG.NOM). -/
def Dev.nom60 (d : Dev) : Bool := d.ab A.clkCyccfg 4

/-- The slot whose channel locks CYC (CLK_CYCCFG.SRC). -/
def Dev.fllSrc (d : Dev) : Nat := d.af A.clkCyccfg 1 0

/-- The channel that fills the SRC slot (R293, R151). -/
def Dev.fllChan (d : Dev) : Nat := (d.slots.getD d.fllSrc 0).val

/-- The length of a free-running cycle in XTM periods (R255). -/
def nominalLen (nom60 : Bool) : Nat := if nom60 then 273067 else 327680

/-- Its frequency in units of 2^-16 Hz. -/
def nominalFreq (nom60 : Bool) : Nat := (if nom60 then 60 else 50) * 65536

def Dev.modFll (d : Dev) (f : Fll → Fll) : Dev := { d with fll := f d.fll }

/-- Lock is lost: CYC goes on from its present phase at the nominal frequency (R44, R295); the record carries the deciding cycle,
a calibration window in AC mode is spoilt (R174), and a conversion of the auxiliary converter was not locked throughout (R334). -/
def Dev.fllLose (d : Dev) (payload : Word) : Dev :=
  let src := d.fllSrc
  let d := d.calUnlocked
  let d := (d.putBit A.clkCycstat 3 false).raiseSq A.clkCycstat 0x2
  let nominal := nominalLen d.nom60
  let d := { d with aux := { d.aux with running := d.aux.running.map fun (r : AuxRun) => { r with locked := false } } }
  let t := d.now
  (d.modFll fun f => { f with
    run := 0, lockedAll := false, exempts := 0, afterExempt := false, period := nominal
    due := t + (Q.round (Q.mk ((f.due - t) * nominal) (Nat.max 1 (f.due - f.tick0)))).toNat }).lockRec 2 src payload

/-- Lock is gained with the third valid cycle in a row, which ends at tc: the next tick 0 is predicted one such cycle later (R43). -/
def Dev.fllGain (d : Dev) (tc len : Nat) : Dev :=
  let d := (d.putBit A.clkCycstat 3 true).raiseSq A.clkCycstat 0x1
  (d.modFll fun f => { f with period := len, due := tc + len }).lockRec 1 d.fllSrc (wd (2 ^ 31 + len))

/-- Whether a time lies in the settling interval of a synchronising reset (R295). -/
def Fll.inSettling (f : Fll) (t : Nat) : Bool :=
  match f.exemptFrom with
  | some s => decide (s < t) && (match f.exemptTo with | some e => decide (t ≤ e) | none => true)
  | none => false

/-- The range of lengths a cycle may have (R294). -/
def cycleInRange (len : Nat) : Bool := decide (237449 ≤ len) && decide (len ≤ 385505)

/-- Two lengths that agree within 2 % of the second. -/
def within2 (a b : Nat) : Bool := decide (50 * ((a : Int) - b).natAbs < b)

/-- The predicted tick 0 that belongs to a crossing. -/
def Fll.predicted (f : Fll) (tc : Nat) : Nat :=
  if 2 * ((tc : Int) - f.due).natAbs < f.period then f.due else f.tick0

/-- A positive-going crossing at time tc, detected on a sample flagged SETTLING or OFF or not (R294, R295). While locked, a
crossing that retimes tick 0 leaves its error in PERR (R296, log entry 39). -/
def Dev.fllCross (d : Dev) (tc : Nat) (bad : Bool) : Dev :=
  let f := d.fll
  let pt := f.predicted tc
  let len := tc - f.lastX.getD tc
  if d.locked then
    if f.inSettling pt then d.modFll fun f => { f with lastX := some pt, lastBad := false }
    else
      let d := d.modFll fun f => { f with lastX := some tc, lastBad := bad }
      if cycleInRange len && !bad && !f.lastBad && within2 len f.period then
        (d.modFll fun f => { f with period := len, due := tc + len }).putFld A.clkCycstat 23 8 (toField 16 (satI 16 ((pt : Int) - tc)))
      else d.fllLose (wd (len % 2 ^ 19))
  else
    let ok := f.lastX.isSome && cycleInRange len && !bad && !f.lastBad
    let run : Nat := if !ok then 0 else if 0 < f.run && within2 len f.lastLen then f.run + 1 else 1
    let d := d.modFll fun f => { f with lastX := some tc, lastBad := bad, lastLen := len, run := run }
    if run = 3 then d.fllGain tc len else d

/-- The sample of the SRC channel at an output instant t: its value and whether it is flagged SETTLING or OFF (R293). -/
def Dev.fllSample (d : Dev) (t : Nat) (y : Int) (bad : Bool) : Dev :=
  let f := d.fll
  let hys : Int := d.af A.clkCyccfg 15 8 * 256
  let d' := d.modFll fun f => { f with prev := some (y, t), armed := (f.armed && decide (y < 0)) || decide (y < -hys) }
  match f.prev with
  | some (y0, t0) =>
    if f.armed && decide (0 ≤ y) then
      d'.fllCross (t0 + (Q.round (Q.mk (((t : Int) - t0) * (-y0)) (y - y0).toNat)).toNat) bad
    else d'
  | none => d'

/-- The loop at an output instant: the sample of the channel in the SRC slot, which is code 0 with OFF while its bank is off;
the settling interval ends with that channel's last settling sample (R295). -/
def Dev.fllInstant (d : Dev) (t : Nat) (delivered : Bool) : Dev :=
  let k := d.fllChan
  let c := d.chan k
  let d := if d.chanOn k then (if delivered then d.fllSample t c.y c.flags.skip else d) else d.fllSample t 0 true
  if d.fll.exemptFrom.isSome && d.fll.exemptTo.isNone && (d.chan k).zeroLeft = 0 then
    d.modFll fun f => { f with exemptTo := some t }
  else d

/-- A synchronising reset starts a settling interval (R295). -/
def Dev.fllSync (d : Dev) : Dev :=
  if d.chanOn d.fllChan then let t := d.now; d.modFll fun f => { f with exemptFrom := some t, exemptTo := none } else d

/-- No crossing for 25.88 ms (R295). -/
def Dev.lockLossTimeout (d : Dev) (t : Nat) : Dev :=
  match d.fll.lastX with
  | some x => if d.locked && decide (x + 424056 ≤ t) then ({ d with now := Nat.max d.now t } : Dev).fllLose (wd 424056) else d
  | none => d

/-- The frequency of a cycle of a length, in units of 2^-16 Hz. -/
def freqOf (len : Nat) : Nat := (Q.round (Q.mk (2 ^ 16 * 16384000) (Nat.max 1 len))).toNat

/-- Where tick 0 falls (R37, R40, R44, R295, R296): while CYC runs free, or in the settling interval of a synchronising reset, where
the loop predicts it. While locked the loop places it on the crossing, at the time t that the boundary gives: within the 2 % that
keep the cycle valid, and in the frame interval for which the cut-off has passed (log entry 39). -/
def Dev.tickZero (d : Dev) (t : Nat) : Nat :=
  let f := d.fll
  if !d.locked || f.inSettling f.due then f.due
  else
    let t := Nat.max (f.due - f.period / 50) (Nat.min (f.due + f.period / 50) t)
    if d.cutoffPassed then Nat.max (d.instT + 1) (Nat.min (d.instT + presetP d.framePreset) t) else t

/-- Whether a frame's output instant t is the cut-off of the next boundary: the last one before its tick 0, the next being its
boundary frame (R40). -/
def Dev.isCutoff (d : Dev) (t : Nat) : Bool := decide (t < d.fll.due) && decide (d.fll.due ≤ t + presetP d.framePreset)

/-- The CYC tick count at time t: ticks 1 to 1023 divide the predicted cycle evenly (R184, R296). -/
def Dev.cycTick (d : Dev) (t : Nat) : Nat :=
  let f := d.fll
  Nat.min 1023 ((t - f.tick0) * 1024 / Nat.max 1 (f.due - f.tick0))

/-- CYC tick 0 at time t: the figures of the cycle that ends (R255, R294, R295), and whether it is valid. -/
def Dev.fllBoundary (d : Dev) (t : Nat) : Bool × Dev :=
  let f := d.fll
  let locked := d.locked
  let exempt := locked && f.inSettling t
  let valid := locked && f.lockedAll && !exempt && !f.afterExempt
  let len := if locked then t - f.tick0 else nominalLen d.nom60
  let freq := if locked then freqOf len else nominalFreq d.nom60
  let d := (d.setReg A.clkCyclen (wd (valid.toNat * 2 ^ 31 + len % 2 ^ 19))).setReg A.clkCycfreq (wd (freq % 2 ^ 23))
  let d := if valid then
      let sum := (d.reg A.clkCycsumLo).toNat + 2 ^ 32 * (d.reg A.clkCycsumHi).toNat + len
      ((d.countMod A.clkCyccnt 31 0 1).setReg A.clkCycsumLo (wd sum)).setReg A.clkCycsumHi (wd (sum / 2 ^ 32))
    else d
  let d := d.modFll fun f => { f with
    tick0 := t, due := t + (if locked then f.period else nominalLen d.nom60), cycLen := len, lockedAll := locked, afterExempt := exempt, exempts := if exempt then f.exempts + 1 else 0
    lastX := if exempt then some t else f.lastX, lastBad := !exempt && f.lastBad }
  if d.fll.exempts = 2 then (false, d.fllLose (wd (len % 2 ^ 19))) else (valid, d)

/-- A change of SRC or NOM applied at a boundary (R297); `old` is the value before. -/
def Dev.fllConfig (d : Dev) (old : Word) : Dev :=
  let new := d.active A.clkCyccfg
  let d :=
    if fld old 1 0 ≠ fld new 1 0 then
      let d := if d.locked then ((d.setActive A.clkCyccfg old).fllLose (d.reg A.clkCyclen)).setActive A.clkCyccfg new else d
      d.modFll fun f => { f with armed := false, prev := none, lastX := none, run := 0 }
    else d
  if bit old 4 != bit new 4 && !d.locked then let n := nominalLen d.nom60; d.modFll fun f => { f with period := n, due := f.tick0 + n }
  else d

/-- The level of ZXn (R298); ZX1 is absent on S. -/
def Dev.zxLevel (d : Dev) (n : Nat) : Bool :=
  let mode := d.rf A.clkZxcfg (4 * (2 * n) + 5) (4 * (2 * n) + 4)
  let k := d.rf A.clkZxcfg (8 * n + 1) (8 * n)
  let sign := decide (0 ≤ (d.chan k).y)
  if n = 1 && d.fuses.build == .s then false
  else match mode with
    | 0 => false
    | 1 => d.cycHigh
    | 2 => sign
    | _ => !sign

end Sys2Proof.Machine
end

