-- ==== Sys2Proof/Machine/AuxConv.lean ====
section
/-! DEFINITION. The auxiliary integrating converter (R319-R334). -/
namespace Sys2Proof.Machine

def Dev.setAux (d : Dev) (a : Aux) : Dev := { d with aux := a }

/-- Whether the converter is busy (R329). -/
def Aux.busy (a : Aux) : Bool := a.waiting.isSome || a.running.isSome || a.urgent.isSome

/-- The register of trigger n. -/
def auxTrg (n : Nat) : Nat := A.auxTRGnCfg n

/-- The end of a trigger's delay (R327). -/
def AuxTrig.due (x : AuxTrig) : Nat := x.t + (Q.round (Q.mk (x.delay * 16384) 1000)).toNat

/-- A trigger that is enabled arrives: accepted, held or merged; of two in one XTM period the lower is accepted (R329, R334). -/
def Dev.auxArrive (d : Dev) (x : AuxTrig) : Dev :=
  let a := d.aux
  if !a.busy then d.setAux { a with waiting := some x }
  else match a.held, a.waiting with
    | none, some w =>
      if w.t = x.t && x.src < w.src && a.running.isNone then d.setAux { a with waiting := some x, held := some w }
      else d.setAux { a with held := some x }
    | none, none => d.setAux { a with held := some x }
    | some _, _ => (d.count A.auxTriglost (8 * x.src + 7) (8 * x.src) 1).raiseSq A.auxStat 0x2

/-- An event of trigger source n at time t (R327). -/
def Dev.auxTrigger (d : Dev) (n t : Nat) : Dev :=
  if d.ab (auxTrg n) 31 then
    d.auxArrive { src := n, insel := d.af (auxTrg n) 27 24, t := t, delay := d.af (auxTrg n) 15 0 }
  else d

/-- When the TIMER source fires next: one period after it was enabled or last fired; PERIOD 0 acts as 1 (R327). -/
def Dev.auxTimerDue (d : Dev) : Nat := d.aux.timerAt + 16384 * Nat.max 1 (d.af A.auxTimer 15 0)

/-- The TIMER event, counted on XTM (R327). -/
def Dev.auxTimer (d : Dev) (t : Nat) : Dev :=
  let due := d.auxTimerDue
  if d.xtmOk && d.ab (auxTrg 1) 31 && decide (due ≤ t) then
    ({ d with now := Nat.max d.now t, aux := { d.aux with timerAt := due } } : Dev).auxTrigger 1 due
  else d

/-- A pulse on a GPIO ends (R328). -/
def Dev.auxPulse (d : Dev) (gpio : Nat) (high : Bool) (width t : Nat) : Dev :=
  if d.xtmOk && (d.fuses.build != .s || decide (gpio < 3)) && d.af A.auxPwcfg 2 0 = gpio && d.ab A.auxPwcfg 4 == high && decide (3 ≤ width) then
    (({ d with now := Nat.max d.now t } : Dev).setReg A.auxPwidth (wd (satNat 32 width))).auxTrigger 2 t
  else d

/-- An urgent request of an input, or a calibration step (`src` 3, 4 ZERO, 5 FULL) at time t (R331, R332). -/
def Dev.auxUrgent (d : Dev) (src insel t : Nat) : Dev :=
  if d.aux.urgent.isSome then d.raiseSq A.auxStat 0x4
  else d.setAux { d.aux with urgent := some { src := src, insel := insel, t := t, delay := 0 } }

/-- A write of AUX_CALCMD with GO (R332). -/
def Dev.auxCalCommand (d : Dev) (w : Word) (t : Nat) : Dev :=
  match fld w 30 28 with
  | 1 => d.auxUrgent 4 (fld w 25 24) t
  | 2 => d.auxUrgent 5 (fld w 25 24) t
  | _ => d.raiseSq A.auxStat 0x10

/-- The input a conversion takes: the urgent one's own, else the index in force at the start (R334). -/
def Dev.auxInput (d : Dev) (x : AuxTrig) : Nat := if 3 ≤ x.src then x.insel else d.af (auxTrg x.src) 27 24

/-- The start-up before the window of a mode, in XTM periods (R324). -/
def auxStartUp (mode : Nat) : Nat := if mode = 2 then 2949 else 0

/-- CYC ticks counted since reset at time t, the cycle's ticks dividing it evenly (R296). -/
def Dev.cycCount (d : Dev) (t : Nat) : Nat :=
  d.cycN * 1024 + (t - d.fll.tick0) * 1024 / Nat.max 1 (d.fll.due - d.fll.tick0)

/-- A conversion starts at time t, in the mode in force (R330, R334). -/
def Dev.auxBegin (d : Dev) (x : AuxTrig) (t : Nat) : Dev :=
  let mode := d.af A.auxCfg 1 0
  let run : AuxRun :=
    { trig := x, insel := d.auxInput x, locked := d.locked, late := (t - x.due) * 1000, mode := mode, byCyc := d.locked, start := t
      tick0 := d.cycCount (t + auxStartUp mode) }
  d.setAux { d.aux with running := some run }

/-- The time at which a conversion may start: at the end of its delay, or of the conversion before it where that is later (R330). -/
def Dev.auxMayStart (d : Dev) (x : AuxTrig) : Nat := Nat.max x.due d.aux.lastEnd

/-- A conversion starts, by time t, at the time it may: the urgent request first, then the accepted trigger (R330, R331). -/
def Dev.auxStart (d : Dev) (t : Nat) : Dev :=
  if d.aux.running.isSome || !d.xtmOk then d
  else match d.aux.urgent, d.aux.waiting with
    | some x, _ => if d.auxMayStart x ≤ t then (d.setAux { d.aux with urgent := none }).auxBegin x (d.auxMayStart x) else d
    | none, some x => if d.auxMayStart x ≤ t then (d.setAux { d.aux with waiting := none }).auxBegin x (d.auxMayStart x) else d
    | none, none => d

/-- Whether a conversion is over at time t: its start-up, its window and 40 µs have passed, to within one XTM period and, where CYC was
locked at its start, one CYC tick (R323, R324, R606). -/
def Dev.auxOver (d : Dev) (r : AuxRun) (t : Nat) : Bool :=
  let cycles := if r.mode = 1 then 2 else 1
  if r.byCyc then decide (r.tick0 + 1024 * cycles ≤ d.cycCount (t - 654) + 1)
  else decide (r.start + auxStartUp r.mode + 327680 * cycles + 655 ≤ t + 1)

/-- An exact quotient, or one of its two neighbours where the spec does not say how it rounds (log entry 9). -/
def Dev.ratio (d : Dev) (num : Int) (den : Nat) : Int × Dev :=
  if num % (den : Int) = 0 then (num / den, d)
  else let (f, d) := d.free; (num / den + (f % 2 : Nat), d)

/-- The calibration pair of an input for a trigger: CALG in 2^-22 and CALO (R325, R332). -/
def Dev.auxPair (d : Dev) (x : AuxTrig) (i : Nat) : Nat × Int :=
  if 4 ≤ x.src then (2 ^ 22, 0)
  else if i < 4 then (d.af (A.auxCALGi i) 23 0, sextN 24 (d.af (A.auxCALOi i) 23 0))
  else d.fuses.auxCal.getD (i - 4) (2 ^ 22, 0)

/-- The temperature reading of time t comes into force (R95, R326, R531). -/
def Dev.temperature (d : Dev) (code : Int) (t : Nat) : Dev :=
  { d with
    rtc := { d.rtc with tempInForce := some code, tempAt := t, tempPrev := d.rtc.tempInForce }, pnl := { d.pnl with tempOk := true } }

/-- What a calibration step makes of its result, and the sticky bits it sets (R332, R333). -/
def Dev.auxCalResult (d : Dev) (x : AuxTrig) (m : Int) (ovr : Bool) : Nat × Dev :=
  if x.src = 4 then
    if ovr then (0x10, d) else (0, d.setAux { d.aux with zeros := SMap.insert x.insel m d.aux.zeros })
  else if x.src = 5 then
    match SMap.find d.aux.zeros x.insel with
    | none => (0x10, d)
    | some x0 =>
      if ovr || m - x0 < 65536 then (0x10, d)
      else
        let g := Q.round (Q.mk (d.rf A.auxCaltgt 19 0 * 2 ^ 22) (m - x0).toNat)
        if g < 0x300000 || 0x500000 < g then (0x10, d)
        else
          let d := d.setReg A.auxCalresg (wd (2 ^ 31 + x.insel * 2 ^ 24 + g.toNat))
          (0x8, d.setReg A.auxCalreso (wd (2 ^ 31 + x.insel * 2 ^ 24 + toField 24 x0)))
  else (0, d)

/-- After a result the held trigger is accepted, unless an urgent request goes first (R331). -/
def Aux.next (a : Aux) : Aux :=
  if a.waiting.isNone && a.urgent.isNone then { a with waiting := a.held, held := none, running := none }
  else { a with running := none }

/-- The result of the running conversion is written (R321, R325, R330). -/
def Dev.auxResult (d : Dev) (raw : Int) (t : Nat) : Dev :=
  match d.aux.running with
  | none => d
  | some r =>
    if !d.xtmOk || !d.auxOver r t then d else
    let i := r.insel
    let off := 8 ≤ i && !d.on 7
    let (calg, calo) := d.auxPair r.trig i
    let (v, d) := d.ratio ((raw - calo) * calg) (2 ^ 22)
    let c := if i = 4 then satI 20 v else clampI 0 0xFFFFF v
    let ovr := !off && c != v
    let code : Int := if off then 0 else c
    let (late, d) := d.ratio r.late 16384
    let w := 2 ^ 31 + ovr.toNat * 2 ^ 30 + (r.locked && d.locked).toNat * 2 ^ 29 + off.toNat * 2 ^ 28
      + Nat.min 3 r.trig.src * 2 ^ 26 + toField 20 code
    let count := (d.rf A.auxLast 27 16 + 1) % 4096
    let d := ({ d with now := Nat.max d.now t } : Dev).setReg (A.auxRESi i) (wd w)
    let d := d.setReg A.auxLast (wd (i * 2 ^ 28 + count * 2 ^ 16 + satNat 16 late.toNat))
    let d := if i = 4 then d.temperature code t else d
    let (bits, d) := d.auxCalResult r.trig code ovr
    (d.setAux { d.aux.next with lastEnd := t }).raiseSq A.auxStat (1 + bits)

/-- AUX_STAT's BUSY, HELD and URGPEND. -/
def Dev.auxStatBits (d : Dev) : Nat :=
  d.aux.busy.toNat * 2 ^ 8 + d.aux.held.isSome.toNat * 2 ^ 9 + d.aux.urgent.isSome.toNat * 2 ^ 10

end Sys2Proof.Machine
end

