-- ==== Sys2Proof/Machine/Harmonics.lean ====
section
/-! DEFINITION. The harmonic units: streams, resampler, cycle and block spectra (R299-R310). -/
namespace Sys2Proof.Machine

def Dev.hrm (d : Dev) (g : Nat) : Harm := d.harm.getD g Harm.zero
def Dev.modHrm (d : Dev) (g : Nat) (f : Harm → Harm) : Dev := { d with harm := d.harm.setIfInBounds g (f (d.hrm g)) }

/-- Whether a group's unit runs (HRM_Gg_CFG.EN). -/
def Dev.hrmOn (d : Dev) (g : Nat) : Bool := d.on 5 && decide (g < d.fuses.groups) && d.ab (A.hrmGgCfg g) 8

/-- Points per cycle by preset (R300). -/
def hrmN : Nat → Nat | 0 => 64 | 1 => 128 | _ => 256

/-- The harmonic limit H by preset and nominal frequency (R300). -/
def hrmH (preset : Nat) (nom60 : Bool) : Nat :=
  match preset with
  | 0 => if nom60 then 25 else 31
  | 1 => if nom60 then 50 else 63
  | 2 => if nom60 then 100 else 127
  | _ => 127

/-- Cycles per block (R306). -/
def hrmB (nom60 : Bool) : Nat := if nom60 then 12 else 10

/-- The port of stream s of group g (R299). -/
def Dev.hrmPort (d : Dev) (g s : Nat) : Nat :=
  if s < 4 then s
  else if d.fuses.build == .s then
    let drop := 4 + d.af (A.hrmGgCfg g) 1 0
    if s < drop then s else s + 1
  else s

/-! ## Collecting frames (R299) -/

/-- The frames a unit keeps: those from 12 before `need` on. -/
def keepFrom (need : Nat) (l : List HPoint) : List HPoint :=
  let old := l.filter fun p => decide (p.t < need)
  old.drop (old.length - 13) ++ l.filter fun p => decide (need ≤ p.t)

/-- A frame at output instant t enters the unit of group g. -/
def Dev.hrmFrame (d : Dev) (g t : Nat) (f : Frame) : Dev :=
  if !d.hrmOn g then d
  else
    let ports := (List.range 7).map (d.hrmPort g)
    let p : HPoint := { t := t, codes := ports.map fun p => f.ports.getD p 0, flags := ports.map f.flags }
    let tick0 := d.fll.tick0
    d.modHrm g fun h =>
      let need := match h.wait with | c :: _ => c.t0 | [] => tick0
      { h with pts := keepFrom need (h.pts ++ [p]) }

/-- A cycle closes: it waits for the frames after its end. -/
def Dev.hrmClose (d : Dev) (g : Nat) (c : HCyc) : Dev :=
  if d.hrmOn g then d.modHrm g fun h => { h with wait := h.wait ++ [c] } else d

/-! ## The resampler (R300-R302) -/

/-- The 24 frames nearest to a time given as n / N in XTM periods, oldest first, and how far the time lies past the twelfth,
in units of 1/N period. -/
def nearest24 (pts : List HPoint) (num n : Nat) : List HPoint × Nat :=
  let before := pts.filter fun p => decide (p.t * n ≤ num)
  let l := before.drop (before.length - 12)
  let r := (pts.filter fun p => decide (num < p.t * n)).take 12
  (l ++ r, num - (l.getLastD { t := 0, codes := [], flags := [] }).t * n)

/-- One point of a stream in units of 2^-22 code, and whether it is valid, and used an OVR and a DISTURB sample. -/
def resample (preset : Nat) (w : List HPoint) (phase s : Nat) : Int × Bool × Bool × Bool :=
  let x := w.map fun p => (p.codes.getD s 0, p.flags.getD s Flags.none)
  let v := (x.foldl (fun (a : Int × Nat) e => (a.1 + Config.resampleTap preset a.2 phase * e.1, a.2 + 1)) (0, 0)).1
  (v, decide (w.length = 24) && x.all fun e => !e.2.skip, x.any fun e => e.2.ovr, x.any fun e => e.2.disturb)

/-- The points of a cycle. -/
def HCyc.transform (c : HCyc) (pts : List HPoint) : HRes :=
  let n := hrmN c.preset
  let ws := (List.range n).map fun j => nearest24 pts (c.t0 * n + j * (c.t1 - c.t0)) n
  let per := (List.range 7).map fun s => ws.map fun w => resample c.preset w.1 w.2 s
  { pts := per.map fun l => l.map Prod.fst
    ok := per.map fun l => l.all fun e => e.2.1
    ovr := per.map fun l => l.any fun e => e.2.2.1
    dist := per.map fun l => l.any fun e => e.2.2.2
    len := c.len, valid := c.valid, preset := c.preset, nom60 := c.nom60 }

/-! ## Transforms (R303, R307) -/

/-- The sum of x_j e^(-2πi k j / M), in units of 2^-68 code. -/
def dft (x : List Int) (k m : Nat) : Int × Int :=
  let r := x.foldl (fun (a : Int × Int × Nat) v =>
    let (c, s) := cosSin (Q.round (Q.mk (2 ^ 46 * ((k * a.2.2) % m)) m))
    (a.1 + v * c, a.2.1 - v * s, a.2.2 + 1)) (0, 0, 0)
  (r.1, r.2.1)

def normSq (y : Int × Int) : Int := y.1 * y.1 + y.2 * y.2

/-- C squared of a bin of M points, in code². -/
def binSq (m : Nat) (y : Int × Int) : Frac := Q.mk (2 * normSq y) (m * m * 2 ^ 136)

/-- A square in code² as a register value: the root in units of 1/256 code. -/
def rootWord (a : Frac) : Nat := satNat 32 (Q.sqrtRound (Q.mul ⟨65536, 1⟩ a))

/-- arg of a bin in turns/65536. -/
def argWord (y : Int × Int) : Nat := toField 16 (shrAway (atan2 y.2 y.1) 30)

/-- The mean of points, signed, in 1/256 code. -/
def meanWord (x : List Int) : Nat := toField 32 (Q.round (Q.mk (256 * x.foldl (· + ·) 0) (Nat.max 1 x.length * 2 ^ 22)))

/-- A reported value with the deviation its unstated rounding leaves open (log entry 9): `i` numbers the value. -/
def devWord (base i v : Nat) : Nat := satNat 32 (v + Config.freeValue (base + i) % 3 - 1)

/-- A reported angle with its deviation (log entry 9). -/
def devArg (base i v : Nat) : Nat := (v + Config.freeValue (base + i) % 3 + 65535) % 65536

/-- A reported signed mean with its deviation (log entry 9). -/
def devMean (base i v : Nat) : Nat := (v + Config.freeValue (base + i) % 3 + 0xFFFFFFFF) % 2 ^ 32

/-- The cycle's page words of a stream (R303): offset in the page and value. -/
def cyclePage (x : List Int) (n h base : Nat) : List (Nat × Nat) :=
  (0x2000, devMean base 0 (meanWord x)) :: (0x2004, 0) :: (List.range 127).flatMap fun i =>
    let o := i + 1
    if o ≤ h then
      let y := dft x o n
      [(0x2000 + 8 * o, devWord base o (rootWord (binSq n y))), (0x2004 + 8 * o, devArg base (128 + o) (argWord y))]
    else [(0x2000 + 8 * o, 0), (0x2004 + 8 * o, 0)]

/-- The sum of fractions. -/
def sumQ (l : List Frac) : Frac := l.foldl Q.add ⟨0, 1⟩

/-- The bins of a block, C squared by k. -/
structure Bins where
  sq : List Frac
  b : Nat
deriving DecidableEq, Repr

def Bins.at (s : Bins) (k : Nat) : Frac := s.sq.getD k ⟨0, 1⟩
def Bins.range (s : Bins) (lo hi : Nat) : Frac := sumQ ((List.range (hi + 1 - lo)).map fun i => s.at (lo + i))

/-- Squared harmonic subgroup (R307). -/
def Bins.sg (s : Bins) (h : Nat) : Frac := s.range (s.b * h - 1) (s.b * h + 1)

/-- Squared harmonic group (R307). -/
def Bins.grp (s : Bins) (h : Nat) : Frac :=
  let half := s.b / 2
  Q.add (s.range (s.b * h - half + 1) (s.b * h + half - 1)) (Q.mul ⟨1, 2⟩ (Q.add (s.at (s.b * h - half)) (s.at (s.b * h + half))))

/-- Squared interharmonic centred subgroup (R307). -/
def Bins.isg (s : Bins) (n : Nat) : Frac := s.range (s.b * n + 2) (s.b * n + s.b - 2)

/-- A total harmonic distortion in units of 2^-24, saturating (R308). -/
def thdWord (f : Nat → Frac) (ht : Nat) : Nat :=
  satNat 32 (Q.sqrtRound (Q.mul ⟨2 ^ 48, 1⟩ (Q.div (sumQ ((List.range (ht - 1)).map fun i => f (i + 2))) (f 1))))

/-- The block's page words of a stream, and LOWFUND (R307-R309). -/
def blockPage (x : List Int) (b n h ht msv base : Nat) : List (Nat × Nat) × Bool :=
  let m := b * n
  let top := Nat.max (b * h + b / 2) (Nat.min msv (b * (n / 2 - 1)))
  let s : Bins := { sq := (List.range (top + 1)).map fun k => binSq m (dft x k m), b := b }
  let low := Q.lt (s.sg 1) ⟨4943 * 4943, 1⟩
  let y1 := dft x b m
  let orders := (List.range 127).flatMap fun i =>
    let o := i + 1
    if o ≤ h then [(0x2400 + 8 * o, devWord base o (rootWord (s.sg o))), (0x2404 + 8 * o, devWord base (128 + o) (rootWord (s.grp o)))]
    else [(0x2400 + 8 * o, 0), (0x2404 + 8 * o, 0)]
  let inter := (List.range 50).map fun i =>
    (0x2800 + 4 * i, if i ≤ Nat.min 49 (h - 1) then devWord base (256 + i) (rootWord (s.isg i)) else 0)
  let rms := Q.mk (x.foldl (fun a v => a + v * v) 0) (Nat.max 1 m * 2 ^ 44)
  ((0x2400, devMean base 312 (meanWord x)) :: (0x2404, 0) :: orders ++ inter ++
    [(0x2900, devWord base 306 (rootWord rms)),
     (0x2904, if low then 0 else devWord base 307 (thdWord s.sg ht)),
     (0x2908, if low then 0 else devWord base 308 (thdWord s.grp ht)),
     (0x290C, if b * (n / 2 - 1) < msv then 0 else devWord base 309 (rootWord (s.at msv))),
     (0x2910, devWord base 310 (rootWord (s.at b))),
     (0x2914, devArg base 311 (argWord y1))], low)

/-! ## Posting (R304, R305, R310) -/

/-- The key of a page word of a stream. -/
def pageKey (s off : Nat) : Nat := s * 0x2000 + (off - 0x2000)

/-- Page words of a stream are posted. -/
def Harm.put (h : Harm) (s : Nat) (l : List (Nat × Nat)) : Harm :=
  { h with page := l.foldl (fun m e => SMap.set 0 m (pageKey s e.1) (wd e.2)) h.page }

/-- A 7-bit mask of a list of bits. -/
def mask7 (l : List Bool) : Nat := (List.range 7).foldl (fun a i => if l.getD i false then a + 2 ^ i else a) 0

/-- The results of the oldest waiting cycle of group g are posted once 12 frames after its end have come, or another cycle
waits behind it (R304, R305). -/
def Dev.hrmCyclePost (d : Dev) (g : Nat) : Dev :=
  let h := d.hrm g
  match h.wait with
  | [] => d
  | c :: rest =>
    if (h.pts.filter fun p => decide (c.t1 ≤ p.t)).length < 12 && rest.isEmpty then d
    else
      let r := c.transform h.pts
      let n := hrmN c.preset
      let lim := hrmH c.preset c.nom60
      let base := d.freeCtr
      let block := h.block ++ [r]
      let h := (List.range 7).foldl (fun h s => h.put s (cyclePage (r.pts.getD s []) n lim (base + 256 * s))) h
      let h := if c.ends = 0 then { h with block := block }
        else { h with block := [], blkWait := some (block, c.ends = 1 || c.ends != block.length) }
      let next := match rest with | x :: _ => x.t0 | [] => c.t1
      let d := ({ d with freeCtr := base + 1792 } : Dev).modHrm g fun _ => { h with wait := rest, pts := keepFrom next h.pts }
      let d := (d.setReg (A.hrmGgCseq g) (wd c.count)).setReg (A.hrmGgClen g) (wd c.len)
      let d := d.setReg (A.hrmGgCinfo g) (wd (r.valid.toNat * 2 ^ 31 + mask7 r.dist * 2 ^ 24 + mask7 r.ovr * 2 ^ 16 + mask7 r.ok))
      d.raiseSq (A.hrmGgStat g) 0x1

/-- The bits of a block: set in any cycle, or in every cycle. -/
def anyBits (b : List HRes) (f : HRes → List Bool) : Nat := mask7 ((List.range 7).map fun s => b.any fun r => (f r).getD s false)
def allBits (b : List HRes) (f : HRes → List Bool) : Nat := mask7 ((List.range 7).map fun s => b.all fun r => (f r).getD s false)

/-- The results of a closed block of group g are posted; a truncated block has no spectrum (R306, R310). -/
def Dev.hrmBlockPost (d : Dev) (g : Nat) : Dev :=
  let h := d.hrm g
  match h.blkWait with
  | none => d
  | some (b, trunc) =>
    let (preset, nom60) := match b with | r :: _ => (r.preset, r.nom60) | [] => (1, d.nom60)
    let n := hrmN preset
    let lim := hrmH preset nom60
    let ht := Nat.min (Nat.max 2 (d.af A.hrmCfg 7 0)) lim
    let msv := d.af A.hrmMsv 11 0
    let base := d.freeCtr
    let pages := if trunc then [] else (List.range 7).map fun s =>
      blockPage (b.flatMap fun r => r.pts.getD s []) b.length n lim ht msv (base + 320 * s)
    let h := pages.foldl (fun (a : Harm × Nat) p => (a.1.put a.2 p.1, a.2 + 1)) (h, 0) |>.1
    let seq := (h.blkSeq + 1) % 2 ^ 32
    let d := ({ d with freeCtr := base + 2240 } : Dev).modHrm g fun _ => { h with blkWait := none, blkSeq := seq }
    let valid := !trunc && b.all fun r => r.valid
    let d := (d.setReg (A.hrmGgBseq g) (wd seq)).setReg (A.hrmGgBlen g) (wd (b.foldl (fun a r => a + r.len) 0))
    let d := d.setReg (A.hrmGgBinfo g) (wd (valid.toNat * 2 ^ 31 + anyBits b HRes.dist * 2 ^ 24 + trunc.toNat * 2 ^ 23
      + anyBits b HRes.ovr * 2 ^ 16 + mask7 (pages.map Prod.snd) * 2 ^ 8 + allBits b HRes.ok))
    d.raiseSq (A.hrmGgStat g) (2 + 4 * trunc.toNat)

end Sys2Proof.Machine
end

