-- ==== Sys2Proof/Machine/Cycle.lean ====
section
/-! DEFINITION. The recurring boundaries: the frame with its builder, the cycle boundary with everything bound to it, the
block and the second, and the sync instant (R23, R24, R36-R42, R126, R129, R182-R185, R306). -/
namespace Sys2Proof.Machine

/-! ## The frame builder (R182-R184) -/

/-- In-phase code and flags, and companion code and flags, of the channel in a slot (R26, R149, R182). -/
def Dev.slotPorts (d : Dev) (k : Nat) : (Int × Flags) × (Int × Flags) :=
  let p := (d.slots.getD k 0).val
  if d.chanOn p then let c := d.chan p; ((c.y, c.flags), (c.yq, c.qflags))
  else ((0, ⟨true, false, false, false⟩), (0, ⟨true, false, false, false⟩))

/-- Ports 0-7 of group g with their companions; port 7 is empty on Q and T. -/
def Dev.groupPorts (d : Dev) (g : Nat) : List ((Int × Flags) × (Int × Flags)) :=
  let off : Int × Flags := (0, ⟨true, false, false, false⟩)
  (([0, 1, 2, 3] ++ d.fuses.groupCur g).map d.slotPorts ++ List.replicate 8 (off, off)).take 8

/-- A flag word (R183). -/
def flagWord (l : List Flags) : Word := wd (l.foldr (fun f a => 16 * a + f.code) 0)

/-- The cycle figures in force (R255). -/
def Dev.figs (d : Dev) : CycFigs :=
  { len := d.fll.cycLen, freq := d.rf A.clkCycfreq 22 0, count := d.escCycN, valid := d.rb A.clkCyclen 31
    locked := d.locked, frames := d.framesPrev }

/-- FINFO of group g's frame (R184). -/
def Dev.finfo (d : Dev) (g : Fin 4) (phase : Nat) : Word :=
  wd (d.cycMark.toNat * 2 ^ 31 + d.locked.toNat * 2 ^ 30 + d.blkMark.toNat * 2 ^ 29 + d.secMark.toNat * 2 ^ 28
    + (d.swpMark.contains g).toNat * 2 ^ 27 + phase * 2 ^ 16 + d.frameSeq % 2 ^ 16)

/-- The frame of group g at an output instant. -/
def Dev.buildFrame (d : Dev) (g : Fin 4) (i : Instant) : Frame :=
  let p := d.groupPorts g
  { seq := d.frameSeq, ports := p.map (fun e => e.1.1) ++ p.map fun e => e.2.1, flagi := flagWord (p.map fun e => e.1.2)
    flagq := flagWord (p.map fun e => e.2.2), finfo := d.finfo g (d.cycTick i.t), figs := d.figs, tIn := i.t }

/-- Group g's frame goes to the engines that take it, to the baseline integrator and to the harmonic unit (R24). -/
def Dev.deliverFrame (d : Dev) (g : Fin 4) (i : Instant) : Dev :=
  let f := d.buildFrame g i
  let d := (d.takersOf g).foldl (fun d k => d.pushFrame g k f) d
  (d.bimFrame g f d.fll.cycLen).hrmFrame g i.t f

/-- The frames of an output instant, and the records they decide (R24, R315, R456). -/
def Dev.frames (d : Dev) (i : Instant) (ev : List ThEvent) : Dev :=
  let f0 := d.buildFrame 0 i
  let half := d.cycMark || d.halfMark
  let d := if d.rtc.evfPend then { d.setReg A.rtcEvfseq (wd d.frameSeq) with rtc := { d.rtc with evfPend := false } } else d
  let d' := ((([0, 1, 2, 3] : List (Fin 4)).filter fun g => decide (g.val < d.fuses.groups))).foldl (fun d g => d.deliverFrame g i) d
  let d' := ((d'.queueLockDc f0).evtFrame f0 half d.cycMark d.blkMark).queueTh f0.seq f0.stamp ev
  { d' with
    frameSeq := d'.frameSeq + 1, framesCyc := d'.framesCyc + 1, cycMark := false, blkMark := false, secMark := false
    swpMark := [], halfMark := false }

/-! ## The output instant (R23) -/

/-- Whether an apply point is a frame at or before time t. -/
def ApplyAt.byFrame (t : Nat) : ApplyAt → Bool
  | .frame s => decide (s ≤ t)
  | .cycle _ => false

/-- Whether an apply point is a cycle boundary numbered n or below. -/
def ApplyAt.byCycle (n : Nat) : ApplyAt → Bool
  | .frame _ => false
  | .cycle m => decide (m ≤ n)

/-- What an output instant of the frame preset does (R24, R40): the copies bound to the frame apply, the samples are taken, and the
frames are built of them. -/
def Dev.frameInstant (d : Dev) (i : Instant) : Dev :=
  let d := { d with instT := i.t }
  let d := (d.applyStaged (ApplyAt.byFrame i.t)).tableReady (ApplyAt.byFrame i.t)
  let d := if d.on 5 then d.relayFrame else d
  let src := d.delivers d.fllChan
  let (d, ev) := d.sampleAll
  let d := (((d.fllInstant i.t src).rlFrame 0).rlFrame 1).calFrame
  let d := if d.on 5 then d.frames i ev
    else { d with cycMark := false, blkMark := false, secMark := false, swpMark := [], halfMark := false }
  { d with cutoffPassed := d.cutoffPassed || d.isCutoff i.t }

/-- An output instant of no frame: the channels outside the groups whose own preset has one deliver their samples (R23, R130), and
the records that these decide carry the frame to come (log entry 14). -/
def Dev.sideInstant (d : Dev) (t : Nat) : Dev :=
  let (d, ev) := d.sampleAll
  let d := d.calFrame
  let f := d.buildFrame 0 ⟨t, []⟩
  if d.on 5 then d.queueTh f.seq f.stamp ev else d

/-- An output instant; there is none while CK3 MOD stands still (R36, R484). -/
def Dev.outputInstant (d : Dev) (i : Instant) : Dev :=
  if !d.modOn then d
  else
    let d := ({ d with now := Nat.max d.now i.t } : Dev).feed i.clk
    if instantAt d.framePreset d.modCnt then d.frameInstant i else d.sideInstant i.t

/-! ## The cycle boundary (R38, R41) -/

/-- The on-die temperature in whole degrees times 1024 against the bounds of a band (R531): the band in force moves only past
a bound by 1 °C. -/
def bandOf (t : Int) : Nat :=
  let b := fun (c : Int) => decide (c * 1024 ≤ t)
  if b 70 then 7 else if b 55 then 6 else if b 40 then 5 else if b 25 then 4 else if b 10 then 3 else if b (-5) then 2
  else if b (-20) then 1 else 0

/-- The reading that a cycle boundary at time t uses: one of the same XTM period applies at the following boundary (R334). -/
def Rtc.tempBefore (r : Rtc) (t : Nat) : Option Int := if r.tempAt < t then r.tempInForce else r.tempPrev

/-- The band in force is chosen from the temperature reading (R326, R531). -/
def Dev.bandUpdate (d : Dev) (temp : Option Int) : Dev :=
  if !d.on 7 || !d.pnl.tempOk || temp.isNone then d
  else
    let t := temp.getD 0
    let old := d.rf A.pnlStat 18 16
    let none := d.rb A.pnlStat 15
    let up := bandOf (t - 1024)
    let down := bandOf (t + 1024)
    let new := if none then bandOf t else if old < up then up else if down < old then down else old
    (d.putFld A.pnlStat 18 16 new).putBit A.pnlStat 15 false

/-- The gain temperature compensation and the companion correction of the cycle that begins (R94, R95, R113). -/
def Dev.cycleGains (d : Dev) (temp : Option Int) : Dev :=
  let q := if d.locked then some (Nat.max 340 (Nat.min 552 (Q.round (Q.mk 131072000 (Nat.max 1 d.fll.period))).toNat)) else none
  let d := { d with tcfTemp := temp, qfreq := q }
  d.setReg A.fltQcorr (wd (d.qcorrOf d.framePreset))

/-- The block count at a cycle boundary (R306): the new count, whether a block boundary falls here, and how the cycle that
ends closes the block (0 no, 1 truncated, else complete with that many cycles). `sync`: a block sync, a preset change or a
change of NOM applies here; `b` is the block length that held. -/
def blockAt (count b : Nat) (sync : Bool) : Nat × Bool × Nat :=
  if count + 1 = b then (0, true, b) else if sync then (0, true, 1) else (count + 1, false, 0)

/-- The blocks of the harmonic units at a boundary that closes a cycle. -/
def Dev.blockBoundary (d : Dev) (t0 t1 : Nat) (valid : Bool) (preset b : Nat) (sync : Bool) : Dev :=
  if !d.on 5 then d
  else
    let (count, mark, ends) := blockAt d.blkCount b sync
    let c : HCyc :=
      { t0 := t0, t1 := t1, count := d.escCycN, len := d.fll.cycLen, valid := valid, preset := preset, nom60 := b == 12, ends := ends }
    let d := (List.range d.fuses.groups).foldl (fun d g => d.hrmClose g c) d
    { d with blkCount := count, blkMark := mark }

/-- The channels whose slices a boundary retired. -/
def retiredHere (before after : Dev) (k : Nat) : Bool :=
  slicesAll.any fun i => after.retired k i && !before.retired k i

/-- The actions bound to a boundary that are not update groups, channel actions or windows. -/
def Dev.boundAct (d : Dev) (acts : List Bind) (b : Bind) : Dev :=
  match b with
  | .admitting e => d.admitApply e
  | .stop e => d.stopApply e
  | .srcEngine g => d.srcReturn g
  | .retire _ _ | .autoRetire _ _ | .restore _ _ | .measofs _ | .bgSwap | .cal | .blkSync => d
  | .rlStart _ _ _ _ | .rlSwap _ | .rlReturn _ _ _ | .rlAbort _ | .rlPatrol _ | .rlPstop _ | .rlTimeout _ => d.rlAct acts b

/-- A CNV_CTRL bound to boundary n governs its rotation and its retirements (R67, R376). -/
def Dev.ctrlFirst (d : Dev) (n : Nat) : Dev :=
  ((d.staged.filter fun s => ApplyAt.byCycle n s.pt).flatMap Staged.vals).foldl
    (fun d e => if e.1 = A.cnvCtrl then d.setActive e.1 e.2 else d) d

/-- What the cycle just ended gives, with the settings that held in it (R63, R70, R144, R173, R314). -/
def Dev.cycleEnds (d : Dev) (b : Boundary) (n : Nat) (valid : Bool) (acts : List Bind) : Dev :=
  let d := d.creepLatch
  let d := ([0, 1, 2, 3, 4, 5, 6, 7, 8, 9, 10, 11, 12, 13, 14, 15, 16, 17] : List (Fin 18)).foldl
    (fun d k => d.chanBoundary k b n valid acts) d
  let d := (List.range 16).foldl (fun d k => d.dcDetect k) d
  ((d.rlWindow 0 n).rlWindow 1 n).calBoundary (acts.contains .cal)

/-- CYC tick 0 (R38, R41): the cycle that ends is latched, then everything bound to the boundary applies in one step. While
CK2 XTM stands still there is none (R484). -/
def Dev.cycleBoundary (d : Dev) (b : Boundary) : Dev :=
  if !d.xtmOk then d
  else
    let at0 := d.tickZero b.t
    let d := ({ d with now := Nat.max d.now at0 } : Dev).feed b.clk
    let n := d.cycN + 1
    let t0 := d.fll.tick0
    let clkOld := d.active A.clkCyccfg
    let presetOld := d.framePreset
    let (valid, d) := d.fllBoundary at0
    let acts := (d.bound.filter fun e => decide (e.1 ≤ n)).map Prod.snd
    let d := { d with
      bound := d.bound.filter fun e => decide (n < e.1)
      cycN := n, escCycN := if d.on 5 then (d.escCycN + 1) % 2 ^ 32 else d.escCycN
      cutoffPassed := false, cycMark := true, cycHigh := true, framesPrev := d.framesCyc, framesCyc := 0 }
    let before := d
    let d := d.ctrlFirst n
    let d := d.cycleEnds b n valid acts
    let ended := d
    -- what is bound to the boundary
    let d := d.applyStaged (ApplyAt.byCycle n)
    let d := d.fllConfig clkOld
    let d := if acts.contains .bgSwap then d.bgSwap else d
    let temp := d.rtc.tempBefore at0
    let d := (d.cycleGains temp).bandUpdate temp
    let sync := acts.contains .blkSync || d.framePreset != presetOld || bit clkOld 4 != d.nom60
    let d := d.blockBoundary t0 at0 valid presetOld (hrmB (bit clkOld 4)) sync
    let hit := fun k => acts.contains .bgSwap || retiredHere before ended k
    let d := (d.rlRestart 0 hit).rlRestart 1 hit
    let d := acts.foldl (fun d a => d.boundAct acts a) d
    let d := (d.relayCycle n).tableReady (ApplyAt.byCycle n)
    (d.patrolNext 0).patrolNext 1

/-! ## The other instants -/

/-- The sync instant s: the channels restart, and what rests on their samples (R126, R169, R295). It lies as many MOD clocks, of 4
XTM periods each, after the latest instant as the event brings. -/
def Dev.syncInstant (d : Dev) (clks : List ModClock) : Dev :=
  let d := ({ d with now := d.now + 4 * clks.length } : Dev).feed clks
  if 0 < d.syncDue && d.modOn then ((d.syncReset.fllSync).rlSync 0).rlSync 1 else d

/-- A second boundary (R42). -/
def Dev.secondBoundary (d : Dev) : Dev := if d.xtmOk then { d with secMark := true } else d

/-- CYC tick 512, once in a cycle (R298, R311). -/
def Dev.cycTick512 (d : Dev) : Dev := if d.xtmOk && d.cycHigh then { d with halfMark := true, cycHigh := false } else d

/-- A block sync binds to a boundary; several bound to one are one sync (R306, R318). -/
def Dev.blkSync (d : Dev) : Dev :=
  if d.bound.any fun e => e.1 == d.nextBoundary && e.2 == .blkSync then d else d.bind .blkSync

end Sys2Proof.Machine
end

