-- ==== Sys2Proof/Machine/Rtc.lean ====
section
/-! DEFINITION. The real-time clock, its alarms and periodic events, clock sources and backup switchover (R445-R466, R594). -/
namespace Sys2Proof.Machine

/-! ## The calendar (R445) -/

/-- Ticks in a day. -/
def dayTicks : Nat := 22118400

/-- Whether a year of the calendar, counted from 2000, is a leap year. -/
def leap (y : Nat) : Bool := y % 4 == 0 && y != 100

def yearDays (y : Nat) : Nat := if leap y then 366 else 365

def monthDays (y m : Nat) : Nat :=
  if m = 2 then (if leap y then 29 else 28) else if m = 4 || m = 6 || m = 9 || m = 11 then 30 else 31

/-- The year and the day in it of a day counted from the epoch. -/
def yearOf : Nat → Nat → Nat → Nat × Nat
  | 0, y, n => (y, n)
  | fuel + 1, y, n => if n < yearDays y then (y, n) else yearOf fuel (y + 1) (n - yearDays y)

/-- The month and the day in it, from 1, of a day of a year. -/
def monthOf (y : Nat) : Nat → Nat → Nat → Nat × Nat
  | 0, m, n => (m, n + 1)
  | fuel + 1, m, n => if n < monthDays y m then (m, n + 1) else monthOf y fuel (m + 1) (n - monthDays y m)

/-- Year, month and day of a day counted from the epoch. -/
def dateOf (day : Nat) : Nat × Nat × Nat :=
  let (y, n) := yearOf 200 0 day
  let (m, n) := monthOf y 12 1 n
  (y, m, n)

/-- The day of a date counted from the epoch. -/
def dayOf (y m n : Nat) : Nat :=
  ((List.range y).map yearDays).foldl (· + ·) 0 + ((List.range (m - 1)).map fun i => monthDays y (i + 1)).foldl (· + ·) 0 + (n - 1)

/-- The number of ticks of the calendar. -/
def calendarEnd : Nat := 73049 * dayTicks

/-- Seconds of the day as the fields of RTC_TIME. -/
def timeWord (sec : Nat) : Nat := sec / 3600 * 2 ^ 16 + sec / 60 % 60 * 2 ^ 8 + sec % 60

/-- RTC_SUBSEC, RTC_TIME, RTC_DATE and RTC_YEAR of a tick; TIMELOST is added where they are read. -/
def calendarWords (ticks : Nat) : Nat × Nat × Nat × Nat :=
  let (y, m, n) := dateOf (ticks / dayTicks)
  (ticks % 256, timeWord (ticks % dayTicks / 256), (5 + ticks / dayTicks) % 7 * 2 ^ 16 + m * 2 ^ 8 + n, y)

/-- A time in the layouts of RTC_STIME and RTC_SDATE, as ticks; none where it is no valid time (R449). -/
def setTime (t s : Word) : Option Nat :=
  let (h, mi, se) := (fld t 20 16, fld t 13 8, fld t 5 0)
  let (y, mo, da) := (fld s 23 16, fld s 11 8, fld s 4 0)
  if h < 24 && mi < 60 && se < 60 && y < 200 && 1 ≤ mo && mo ≤ 12 && 1 ≤ da && da ≤ monthDays y mo then
    some (dayOf y mo da * dayTicks + (h * 3600 + mi * 60 + se) * 256 + fld t 31 24)
  else none

/-- A tick in the layouts of RTC_STIME and RTC_SDATE (R463). -/
def stampWords (ticks : Nat) : Nat × Nat :=
  let (y, m, n) := dateOf (ticks / dayTicks)
  (ticks % 256 * 2 ^ 24 + timeWord (ticks % dayTicks / 256), y * 2 ^ 16 + m * 2 ^ 8 + n)

/-! ## Alarms (R451-R454) -/

def Dev.modRtc (d : Dev) (f : Rtc → Rtc) : Dev := { d with rtc := f d.rtc }

/-- A compared field, where its mask bit is set. -/
def alarmField (w : Word) (mask hi lo : Nat) : Option Nat := if bit w mask then some (fld w hi lo) else none

def fieldIs (f : Option Nat) (v : Nat) : Bool := match f with | some x => x == v | none => true

/-- Whether the date fields of alarm n match a day. -/
def Dev.alarmDay (d : Dev) (n day : Nat) : Bool :=
  let w := d.reg (A.rtcALMnDate n)
  let (_, m, da) := dateOf day
  fieldIs (alarmField w 31 11 8) m && fieldIs (alarmField w 30 4 0) da && fieldIs (alarmField w 29 18 16) ((5 + day) % 7)

/-- The hour, minute and second that alarm n compares. -/
def Dev.alarmTod (d : Dev) (n : Nat) : Option Nat × Option Nat × Option Nat :=
  let w := d.reg (A.rtcALMnTime n)
  (alarmField w 31 20 16, alarmField w 30 13 8, alarmField w 29 5 0)

/-- Whether alarm n matches a second. -/
def Dev.alarmMatch (d : Dev) (n sec : Nat) : Bool :=
  let (h, m, s) := d.alarmTod n
  let t := sec % 86400
  d.alarmDay n (sec / 86400) && fieldIs h (t / 3600) && fieldIs m (t / 60 % 60) && fieldIs s (t % 60)

/-- The largest value a field takes that is at most `lim` and at most `top`. -/
def fieldMax (f : Option Nat) (top lim : Nat) : Option Nat :=
  match f with
  | some v => if v ≤ lim && v ≤ top then some v else none
  | none => some (Nat.min lim top)

/-- The largest value below v that a field takes. -/
def fieldBelow (f : Option Nat) (top v : Nat) : Option Nat := if v = 0 then none else fieldMax f top (v - 1)

/-- The latest second of the day at or before `hi` that the three fields match. -/
def latestTod (h m s : Option Nat) (hi : Nat) : Option Nat :=
  let fullMin := (fieldMax m 59 59).bind fun mi => (fieldMax s 59 59).map fun se => mi * 60 + se
  let inMinute := fun (mi lim : Nat) => (fieldMax s 59 lim).map fun se => mi * 60 + se
  let inHour := fun (lim : Nat) =>
    let here := if fieldIs m (lim / 60) then inMinute (lim / 60) (lim % 60) else none
    here.orElse fun _ => (fieldBelow m 59 (lim / 60)).bind fun mi => inMinute mi 59
  let here := if fieldIs h (hi / 3600) && hi / 3600 < 24 then (inHour (hi % 3600)).map (hi / 3600 * 3600 + ·) else none
  here.orElse fun _ => (fieldBelow h 23 (hi / 3600)).bind fun x => fullMin.map (x * 3600 + ·)

/-- The latest second that alarm n matches after second `lo` and at or before second `hi`, by days downwards. -/
def Dev.latestMatch (d : Dev) (n : Nat) : Nat → Nat → Nat → Option Nat
  | 0, _, _ => none
  | fuel + 1, lo, hi =>
    let day := hi / 86400
    let (h, m, s) := d.alarmTod n
    let hit := if d.alarmDay n day then (latestTod h m s (hi % 86400)).map (day * 86400 + ·) else none
    match hit with
    | some x => if lo < x then some x else none
    | none => if day = 0 || day * 86400 ≤ lo then none else d.latestMatch n fuel lo (day * 86400 - 1)

def Rtc.last (r : Rtc) (n : Nat) : Option Nat := if n = 0 then r.last0 else r.last1
def Dev.setLast (d : Dev) (n : Nat) (v : Option Nat) : Dev :=
  d.modRtc fun r => if n = 0 then { r with last0 := v } else { r with last1 := v }

/-- Whether alarm n is armed (RTC_STAT.ARMEDn). -/
def Dev.armed (d : Dev) (n : Nat) : Bool := d.rb A.rtcStat (10 + n)

/-- Alarm n fires for a second (R452); `skipped`: at a release (R453). -/
def Dev.alarmFire (d : Dev) (n sec : Nat) (skipped : Bool) : Dev :=
  if d.armed n && (match d.rtc.last n with | some l => decide (l < sec) | none => true) then
    let d := (d.setLast n (some sec)).raiseSq A.rtcStat (2 ^ (1 + n) + (if skipped then 2 ^ (3 + n) else 0))
    if d.rb (A.rtcALMnDate n) 28 then d else d.putBit A.rtcStat (10 + n) false
  else d

/-- Whether alarm n has fired at the tick in progress. -/
def Dev.firedNow (d : Dev) (n : Nat) : Option (Bool × Option Nat) := SMap.find d.rtc.fired n

/-- Alarm n fires at the tick just made, which keeps what a DISARM in the same tick gives back (R466). -/
def Dev.tickFire (d : Dev) (n sec : Nat) : Dev :=
  let was := (n, d.rb A.rtcStat (1 + n), d.rtc.last n)
  let e := d.alarmFire n sec false
  if e.rtc.last n = d.rtc.last n then e else e.modRtc fun r => { r with fired := was :: r.fired }

/-- RTC_CMD.ARMn. In the tick of a match the command applies first: the alarm fires (R452, R466). -/
def Dev.arm (d : Dev) (n : Nat) : Dev :=
  let sec := d.rtc.ticks / 256
  let e := (d.putBit A.rtcStat (10 + n) true).setLast n none
  if !(d.rtc.newSec && d.alarmMatch n sec) then e
  else match d.firedNow n with
    | some _ => (e.setLast n (some sec)).putBit A.rtcStat (10 + n) (d.rb (A.rtcALMnDate n) 28)
    | none => e.tickFire n sec

/-- RTC_CMD.DISARMn. In the tick of a match the command applies first: a firing at that tick has not taken place (R452, R466). -/
def Dev.disarm (d : Dev) (n : Nat) : Dev :=
  let e := d.putBit A.rtcStat (10 + n) false
  match d.firedNow n with
  | none => e
  | some (alm, last) =>
    ((e.putBit A.rtcStat (1 + n) (alm && d.rb A.rtcStat (1 + n))).setLast n last).modRtc fun r => { r with fired := SMap.erase n r.fired }

/-! ## The tick (R446, R448, R455, R594) -/

/-- The tamper inputs at a tick, `true` for a level above VIL (R594); TAMP1 is not bonded on S and rests high. -/
def Dev.tamper (d : Dev) (t0 t1 : Bool) : Dev :=
  let t1 := t1 || d.fuses.build == .s
  let bits := (!t0 && !d.rb A.rtcTamper 8).toNat + 2 * (!t1 && !d.rb A.rtcTamper 9).toNat
  ((d.putBit A.rtcTamper 8 t0).putBit A.rtcTamper 9 t1).raiseIf (bits != 0) A.rtcTamper bits

/-- The phase accumulator of the trim (R446; log entry 20): the periods the tick that begins takes. -/
def Rtc.trim (r : Rtc) (onLrc : Bool) : Rtc :=
  if onLrc then { r with periods := 128 }
  else
    let a := r.trimAcc + r.trimNow * 128
    if 10000000 ≤ a then { r with trimAcc := a - 10000000, periods := 127 }
    else if a ≤ -10000000 then { r with trimAcc := a + 10000000, periods := 129 }
    else { r with trimAcc := a, periods := 128 }

/-- The calendar moves on one tick, with its alarms (R445, R451, R452). -/
def Dev.calendarTick (d : Dev) : Dev :=
  let next := d.rtc.ticks + 1
  let d := if next = calendarEnd then (d.modRtc fun r => { r with ticks := 0 }).putBit A.rtcStat 15 true
    else d.modRtc fun r => { r with ticks := next }
  let t := d.rtc.ticks
  if t % 256 = 0 then
    let trim := sextN 16 (d.rf A.rtcTrim 15 0)
    let d := d.modRtc fun r => { r with trimNow := trim }
    [0, 1].foldl (fun d n => if d.alarmMatch n (t / 256) then d.tickFire n (t / 256) else d) (d.modRtc fun r => { r with newSec := true })
  else d

/-- Whether a periodic event falls on the tick just made, none while the calendar is halted; `count` ticks have passed since EN was set,
halted or not (R455). -/
def Dev.periodicFalls (d : Dev) (count : Nat) : Bool :=
  let n := Nat.max 1 (d.rf A.rtcPer 23 0)
  d.rb A.rtcPer 31 && !d.rb A.rtcCtrl 0 && (if d.rb A.rtcPer 30 then decide (d.rtc.ticks % dayTicks % n = 0) else decide (count % n = 0))

/-- VBAT may have recovered by a tick: no command shows it, so a free value says when (R461, log entry 45). -/
def Dev.vbatBack (d : Dev) : Dev :=
  if !d.rtc.vbatLow then d
  else
    let (v, d) := d.free
    if v % 2 = 0 then d else (d.modRtc fun r => { r with vbatLow := false }).putBit A.rtcStat 12 false

/-- A tick of the clock (R446): halted, it is only counted. -/
def Dev.rtcTick (d : Dev) (t0 t1 : Bool) : Dev :=
  let d := ((d.tamper t0 t1).vbatBack).modRtc fun r => { r with newSec := false, fired := [] }
  let back := d.rtc.xtPend && d.rb A.rtcStat 13
  let d := if back then d.putBit A.rtcStat 14 false else d
  let d := d.modRtc fun r => { r with xtPend := false }
  let lrc := d.rb A.rtcStat 14
  let d := (if d.rb A.rtcCtrl 0 then d.count A.rtcHaltticks 31 0 1 else d.calendarTick).modRtc (·.trim lrc)
  let count := d.rtc.perCount + 1
  let due := d.periodicFalls count
  d.modRtc fun r => { r with perCount := count, perDue := r.perDue || due }

/-- The periodic event at time t of CK2 XTM (R456, R306, R327). -/
def Dev.periodicEvent (d : Dev) (t : Nat) : Dev :=
  if d.rtc.perDue then
    let d := (d.modRtc fun r => { r with perDue := false, evfPend := d.on 5 }).raiseSq A.rtcStat 0x20
    let d := if d.xtmOk then d.auxTrigger 0 t else d
    if d.on 5 && d.ab A.hrmCfg 8 then d.blkSync else d
  else d

/-! ## Registers with a meaning of their own when written (R446, R448, R449, R455, R459) -/

/-- The time a release loads: the set time, with the halted ticks when CATCHUP is set. -/
def Dev.releaseTime (d : Dev) (w : Word) : Option Nat :=
  match setTime (d.reg A.rtcStime) (d.reg A.rtcSdate) with
  | some t =>
    let n := t + (if bit w 2 then (d.reg A.rtcHaltticks).toNat else 0)
    if n < calendarEnd then some n else none
  | none => none

/-- The cause that refuses a write of an RTC register: a bad release, TRIM or TICKS, or XTRETURN without XTOK. -/
def Dev.rtcRefuses (d : Dev) (a : Nat) (w : Word) : Option Nat :=
  if a = A.rtcCtrl then
    if d.rb A.rtcCtrl 0 && !bit w 0 && bit w 1 && (d.releaseTime w).isNone then some 8 else none
  else if a = A.rtcTrim then
    let v := sextN 16 (fld w 15 0)
    if v < -5000 || 5000 < v then some 8 else none
  else if a = A.rtcPer then
    let n := fld w 23 0
    if n < 2 || 16588800 < n || (bit w 30 && dayTicks % n != 0) then some 8 else none
  else if a = A.rtcCmd then (if bit w 5 && !d.rb A.rtcStat 13 then some 8 else none)
  else none

/-- A release with LOAD = 1 that loads tick `n` (R449, R450, R453, R454). -/
def Dev.load (d : Dev) (n : Nat) : Dev :=
  let th := d.rtc.ticks
  let d := ((d.modRtc fun r => { r with ticks := n, newSec := false }).putBit A.rtcStat 15 false).raiseSq A.rtcStat 0x1
  if th < n then
    [0, 1].foldl (fun d k => match d.latestMatch k 73050 (th / 256) (n / 256) with
      | some sec => d.alarmFire k sec true
      | none => d) d
  else d

/-- The effect of an accepted write of RTC_CTRL; `old` is its value before (R448, R449). -/
def Dev.rtcCtrl (d : Dev) (old w : Word) : Dev :=
  match bit old 0, bit w 0 with
  | false, true => d.setReg A.rtcHaltticks 0
  | true, false => if bit w 1 then (match d.releaseTime w with | some n => d.load n | none => d) else d
  | _, _ => d

/-- The effect of an accepted write of RTC_PER: the write that sets EN starts the count (R455). -/
def Dev.rtcPer (d : Dev) (old w : Word) : Dev :=
  if bit w 31 && !bit old 31 then d.modRtc fun r => { r with perCount := 0 }
  else if bit w 31 then d else d.modRtc fun r => { r with perDue := false }

/-- The effect of RTC_CMD (R452, R459, R465); `clr`: CLRREC is allowed to the writer. -/
def Dev.rtcCmd (d : Dev) (w : Word) (clr : Bool) : Dev :=
  let d := [0, 1].foldl (fun d n =>
    let d := if bit w (2 * n) then d.arm n else d
    if bit w (2 * n + 1) then d.disarm n else d) d
  let d := if bit w 5 then d.modRtc fun r => { r with xtPend := true } else d
  if bit w 6 && clr then d.putFld A.rtcFswDate 31 30 0 else d

/-! ## Coherent reading (R447) -/

/-- The live calendar words. -/
def Dev.calendarNow (d : Dev) : Word × Word × Word × Word :=
  let (s, t, da, y) := calendarWords d.rtc.ticks
  (wd s, wd t, wd da, wd ((d.rb A.rtcStat 15).toNat * 2 ^ 31 + y))

/-- What a master's read of RTC_TIME, RTC_DATE or RTC_YEAR returns from. -/
def Dev.calendarFor (d : Dev) (m : Nat) : Word × Word × Word × Word := (SMap.find d.rtc.shadows m).getD d.calendarNow

/-- A read of RTC_SUBSEC by master m freezes its shadow. -/
def Dev.subsecRead (d : Dev) (m : Nat) : Word × Dev :=
  let w := d.calendarNow
  (w.1, d.modRtc fun r => { r with shadows := SMap.insert m w r.shadows })

/-- A master's shadow is released. -/
def Dev.shadowRelease (d : Dev) (m : Nat) : Dev := d.modRtc fun r => { r with shadows := SMap.erase m r.shadows }

/-! ## Clock sources and switchover (R457-R464) -/

/-- XT32 has failed (R457). -/
def Dev.xt32Fail (d : Dev) : Dev :=
  let d := d.modRtc fun r => { r with xtPend := false }
  ((d.putBit A.rtcStat 13 false).putBit A.rtcStat 14 true).raiseSq A.rtcStat 0x40

/-- XT32 has run for 1 s without failure (R459). -/
def Dev.xt32Stable (d : Dev) : Dev := d.putBit A.rtcStat 13 true

/-- LRC was measured against XTM (R458). -/
def Dev.lrcTrim (d : Dev) (div : BitVec 16) : Dev := if d.xtmOk then d.setReg A.rtcLrctrim (wd div.toNat) else d

/-- A reset of PD0 AON (R462): the clock at its reset values, the temperature in force lost (R95). The supplies are as they are. -/
def Dev.rtcReset (d : Dev) : Dev :=
  let r := d.rtc
  let div := d.fuses.lrcDiv.toNat
  ((d.resetRange 0x110000 0x120000).modRtc fun _ => { Rtc.zero with vddLow := r.vddLow, vbatLow := r.vbatLow }).setReg A.rtcLrctrim (wd div)

/-- VDD below V_SW: PD0 AON moves to VBAT, which is a loss where VBAT is low already (R460, R461, R463). BATLOW shows VBAT only on VDD. -/
def Dev.switchover (d : Dev) : Dev :=
  if d.rtc.vddLow then d
  else
    let d := (d.modRtc fun r => { r with vddLow := true }).putBit A.rtcStat 12 false
    if d.rtc.vbatLow then d.rtcReset
    else
      let (t, s) := stampWords d.rtc.ticks
      let d := if d.rf A.rtcFswDate 31 30 = 0 then (d.setReg A.rtcFswTime (wd t)).setReg A.rtcFswDate (wd (2 ^ 30 + s)) else d
      (d.count A.rtcSwpend 7 0 1).raiseSq A.rtcStat 0x80

/-- PD0 AON returns to VDD (R460), with BATLOW where VBAT is low (R461). -/
def Dev.vddReturn (d : Dev) : Dev := (d.modRtc fun r => { r with vddLow := false }).putBit A.rtcStat 12 d.rtc.vbatLow

/-- VBAT falls below V_BATLOSS: on VBAT, a reset of PD0 AON; on VDD, BATLOW (R461). -/
def Dev.vbatLoss (d : Dev) : Dev :=
  if d.rtc.vddLow then (d.modRtc fun r => { r with vbatLow := true }).rtcReset
  else (d.modRtc fun r => { r with vbatLow := true }).putBit A.rtcStat 12 true

end Sys2Proof.Machine
end

