-- ==== Sys2Proof/Machine/Security.lean ====
section
/-! DEFINITION. Privilege levels, the protection map, key slots, sessions, the metrology seal, the legal event log and the
counters (R344-R347, R569-R586). -/
namespace Sys2Proof.Machine

/-! ## Levels and the protection map (R344, R345, R569, R578) -/

/-- SYS_ID. -/
def Fuses.sysId (f : Fuses) : Nat := 0x5A080000 + f.die.toNat * 2 ^ 8 + f.variant

/-- The present level of HS, HI or CL (SEC_LEVEL). -/
def Dev.level (d : Dev) (m : Nat) : Nat :=
  if m = 0 then d.rf A.secLevel 1 0 else if m = 1 then d.rf A.secLevel 3 2 else if m = 8 then d.rf A.secLevel 5 4 else 3

/-- Whether the map has no entry for a block index: 22 and 23 are reserved, and those of a fused-off block act as reserved bits (R10):
PLC, PNL, and the window of an absent engine (the one at 11 always shows one, E3 or E4). -/
def Fuses.noEntry (f : Fuses) (blk : Nat) : Bool :=
  decide (22 ≤ blk) || (blk == 18 && !f.plc) || (blk == 19 && !f.dom 7) || (8 ≤ blk && blk ≤ 10 && !f.engine (blk - 8))

/-- A map word with the entry of SEC at 0x77 and the entries that are not there at 0 (R10, R578). -/
def Fuses.pmapWord (f : Fuses) (n : Nat) (w : Word) : Word :=
  if n = 0 then setFld w 15 8 0x77
  else (List.range 4).foldl (fun w i => if f.noEntry (4 * n + i) then setFld w (8 * i + 7) (8 * i) 0 else w) w

/-- SEC_PMAPn as it stands. -/
def Dev.pmap (d : Dev) (n : Nat) : Word := d.fuses.pmapWord n (d.reg (A.secPMAPn n))

/-- The protection-map entry of a block index. -/
def Dev.pmapEntry (d : Dev) (blk : Nat) : Nat := fld (d.pmap (blk / 4)) (8 * (blk % 4) + 7) (8 * (blk % 4))

/-- Whether a master at a level may reach a block (RLEV). -/
def Dev.reachAt (d : Dev) (m level blk : Nat) : Bool :=
  let e := d.pmapEntry blk
  if m = 2 then true
  else if m = 8 then decide (level ≤ e / 2 ^ 4 % 4)
  else if m < 2 then decide (level ≤ e % 4)
  else blk == 15

/-- Whether a master at a level is privileged for a block (PLEV): SV for every block, engines for MBX. -/
def Dev.privAt (d : Dev) (m level blk : Nat) : Bool :=
  let e := d.pmapEntry blk
  if m = 2 then true
  else if m = 8 then decide (level ≤ e / 2 ^ 6 % 4)
  else if m < 2 then decide (level ≤ e / 2 ^ 2 % 4)
  else blk == 15

def Dev.mayReach (d : Dev) (m blk : Nat) : Bool := d.reachAt m (d.level m) blk
def Dev.privileged (d : Dev) (m blk : Nat) : Bool := d.privAt m (d.level m) blk

/-- A write ignored under R345. -/
def Dev.guardDenied (d : Dev) (m a : Nat) : Dev :=
  (d.setReg A.secDenyinfo (wd (m * 2 ^ 28 + a % 2 ^ 24))).count A.secGuardDenied 31 0 1

/-- A write refused under R346. -/
def Dev.sealDenied (d : Dev) (m a : Nat) : Dev :=
  (d.setReg A.secDenyinfo (wd (m * 2 ^ 28 + 2 ^ 27 + a % 2 ^ 24))).count A.secSealdenied 31 0 1

def Dev.sealed (d : Dev) : Bool := d.rb A.secSealstat 0

/-! ## Sessions of the host masters (R570, R574) -/

/-- 0 no session, 1 challenge issued, 2 session open. -/
def Dev.sessState (d : Dev) (m : Nat) : Nat := fld (d.ireg m A.secSesstat) 23 20

def Dev.session (d : Dev) (m : Nat) : Session := SMap.get Session.zero d.sess m

/-- The level of a master's open session, or 0. -/
def Dev.sessLevel (d : Dev) (m : Nat) : Nat := if d.sessState m = 2 then (d.session m).level else 0

/-- A kind of change enters the mask of the master's open session (R584). -/
def Dev.markChange (d : Dev) (m bits : Nat) : Dev :=
  if d.sessState m = 2 then
    let s := d.session m
    { d with sess := SMap.insert m { s with mask := s.mask ||| BitVec.ofNat 4 bits } d.sess }
  else d

/-- A refusal in the master's SEC_SESSTAT (R575). -/
def Dev.secFail (d : Dev) (m cause : Nat) : Dev := (d.putIfld m A.secSesstat 19 16 cause).raiseIsq m A.secSesstat 0x2

/-- The challenge of a master is consumed. -/
def Dev.dropChallenge (d : Dev) (m : Nat) : Dev :=
  ((List.range 8).foldl (fun (d : Dev) (n : Nat) => d.setIreg m (A.secCHALn n) 0) d).putIfld m A.secSesstat 23 20 0

/-- The field of a host master in SEC_LEVEL. -/
def Dev.putLevel (d : Dev) (m lev : Nat) : Dev := if m = 0 then d.putFld A.secLevel 1 0 lev else d.putFld A.secLevel 3 2 lev

/-! ## Counters and the log (R583, R584) -/

/-- The seven calendar bytes of an entry: YEAR, MONTH, DAY, HOUR, MIN, SEC, SUBSEC. -/
def Dev.logCalendar (d : Dev) : List Byte :=
  let t := d.rtc.ticks
  let (y, mo, da) := dateOf (t / dayTicks)
  let s := t % dayTicks / 256
  [y, mo, da, s / 3600, s / 60 % 60, s % 60, t % 256].map (BitVec.ofNat 8)

/-- Write an entry of the legal event log with RC1 incremented (R584). A write cut short leaves no entry in its place. -/
def Chip.log (c : Chip) (kind m level arg : Nat) : Chip :=
  let c := c.increment 1
  let b := leBytes 8 (c.nvm.rc 1) ++ [BitVec.ofNat 8 kind, BitVec.ofNat 8 m, BitVec.ofNat 8 level, BitVec.ofNat 8 arg] ++
    leBytes 8 (c.nvm.rc 0) ++ c.dev.logCalendar ++ [BitVec.ofNat 8 (c.dev.rb A.rtcStat 15).toNat]
  c.sysStore .log [fun x => { x with log := x.log.drop (x.log.length - 63) }] fun x =>
    { x with log := (x.log ++ [b ++ leBytes 4 (crc32c b).toNat]).drop (x.log.length - 63) }

/-- The entry RC1 - n, where it is still held and its CRC matches (R585). -/
def Nvm.logEntry (n : Nvm) (k : Nat) : Option LogEntry :=
  if n.rc 1 ≤ k then none
  else (n.log.find? fun (b : LogEntry) => leNat (b.take 8) == n.rc 1 - k).filter fun b =>
    leNat (b.drop 28) == (crc32c (b.take 28)).toNat

/-- RC0 counts a change, and the master's session notes its kind (R583, R584). -/
def Chip.countSeal (c : Chip) (m bits : Nat) : Chip := (c.increment 0).onDev fun d => d.markChange m bits

/-! ## Key slots (R571, R572) -/

/-- The key of a slot; none where it is absent or blank. -/
def Chip.key (c : Chip) (slot : Nat) : Option Nat :=
  let k := if slot = 0 then c.dev.fuses.key0.toNat else if slot = 1 then c.dev.fuses.key1.toNat
    else if slot < 8 then (SMap.get 0 c.nvm.keys slot).toNat else 0
  if k = 0 then none else some k

/-- The response words of a master as 32 bytes. -/
def Dev.respBytes (d : Dev) (m : Nat) : List Byte := wordBytes ((List.range 8).map fun n => d.ireg m (A.secRESPn n))

/-- A key slot's four codewords of a write cut short after the first w. -/
def keyMix (old new w : Nat) : BitVec 256 := BitVec.ofNat 256 (old / 2 ^ (64 * w) * 2 ^ (64 * w) + new % 2 ^ (64 * w))

/-- A SEC_KEYCMD with GO (R572): RC0, the slot, the master's RESP words cleared, the log entry. -/
def Chip.keyCommand (c : Chip) (m slot : Nat) : Chip :=
  if slot < 2 || 8 ≤ slot then c.onDev fun d => d.secFail m 3
  else
    let k := leNat (c.dev.respBytes m)
    let put := fun (w : Nat) (x : Stored) =>
      { x with keys := SMap.set 0 x.keys slot (keyMix (SMap.get 0 x.keys slot).toNat k w) }
    let c := (c.countSeal m 0x4).sysStore .keys [put 1, put 2, put 3] (put 4)
    let c := c.onDev fun d => (List.range 8).foldl (fun (d : Dev) (n : Nat) => d.setIreg m (A.secRESPn n) 0) d
    c.log 6 m (c.dev.sessLevel m) slot

/-! ## Opening a session (R573-R576) -/

/-- The highest level a slot grants. -/
def slotGrant (slot : Nat) : Nat := if slot < 4 then 1 else 2

/-- Whether a level cannot be asked of a slot (R575, code 2). -/
def badLevel (level slot : Nat) : Bool := level == 0 || level == 3 || decide (level < slotGrant slot)

/-- OPEN (R574, R575): the refusal with the lowest code, MASTER before all; else a challenge. -/
def Chip.openCommand (c : Chip) (m level slot : Nat) (chal : BitVec 256) (t : Nat) : Chip :=
  c.onDev fun d =>
    if 1 < m then d.secFail m 8
    else if badLevel level slot then d.secFail m 2
    else if (c.key slot).isNone then d.secFail m 3
    else if d.sessState m ≠ 0 then d.secFail m 4
    else if c.nvm.locked.contains (Fin.ofNat 8 slot) then d.secFail m 7
    else
      let d := (List.range 8).foldl (fun (d : Dev) (n : Nat) => d.setIreg m (A.secCHALn n) (wd (chal.toNat / 2 ^ (32 * n) % 2 ^ 32))) d
      { d.putIfld m A.secSesstat 23 20 1 with
        sess := SMap.insert m { Session.zero with chalT := t, reqLevel := level, reqSlot := slot } d.sess }

/-- The message a response is made over (R573). -/
def Dev.proofMessage (d : Dev) (m level slot : Nat) : List Byte :=
  wordBytes ((List.range 8).map fun n => d.ireg m (A.secCHALn n)) ++ leBytes 4 d.fuses.sysId ++
    [d.fuses.id.toNat, m, level, slot].map (BitVec.ofNat 8)

/-- A challenge lasts 10 s (R574). -/
def challengeLife : Nat := 163840000

/-- A failed proof counts; from the eighth on it locks the slot (R576). -/
def Chip.badProof (c : Chip) (m slot : Nat) : Chip :=
  let k := SMap.get 0 c.nvm.lockFails slot + 1
  let c := c.sysStore .fails [] fun x => { x with lockFails := SMap.insert slot k x.lockFails }
  if k < 8 then c
  else
    let sl := Fin.ofNat 8 slot
    (c.log 7 m 0 slot).onNvm fun n => { n with locked := if n.locked.contains sl then n.locked else sl :: n.locked }

/-- PROVE (R574, R575): the challenge is consumed; on a pass the OPEN entry, then the level. -/
def Chip.proveCommand (c : Chip) (m level slot t : Nat) : Chip :=
  let s := c.dev.session m
  if 1 < m then c.onDev fun d => d.secFail m 8
  else if badLevel level slot then c.onDev fun d => d.secFail m 2
  else match c.key slot with
    | none => c.onDev fun d => d.secFail m 3
    | some k =>
      if c.dev.sessState m ≠ 1 || level ≠ s.reqLevel || slot ≠ s.reqSlot then c.onDev fun d => d.secFail m 4
      else
        let r := hmac (leBytes 32 k) (c.dev.proofMessage m level slot)
        let pass := r == c.dev.respBytes m
        let c := c.onDev fun d => d.dropChallenge m
        if challengeLife < t - s.chalT then c.onDev fun d => d.secFail m 5
        else if !pass then (c.onDev fun d => d.secFail m 6).badProof m slot
        else
          let c := if SMap.get 0 c.nvm.lockFails slot = 0 then c
            else c.sysStore .fails [] fun x => { x with lockFails := SMap.erase slot x.lockFails }
          let c := c.log 1 m level slot
          c.onDev fun d =>
            let d := { d with sess := SMap.insert m { Session.zero with level := level, slot := slot } d.sess }
            ((d.putLevel m level).putIfld m A.secSesstat 23 20 2).raiseIsq m A.secSesstat 0x1

/-! ## Ending a session (R577) -/

/-- A session ends: its entry, its level back to L3, CLOSED. -/
def Chip.endSession (c : Chip) (m kind cause : Nat) : Chip :=
  let s := c.dev.session m
  (c.log kind m s.level (16 * cause + s.mask.toNat)).onDev fun d =>
    let d := { d with sess := SMap.erase m d.sess }
    ((d.putLevel m 3).putIfld m A.secSesstat 23 20 0).raiseIsq m A.secSesstat 0x4

/-- A session that is open ends with an END entry. -/
def Chip.endIfOpen (c : Chip) (m cause : Nat) : Chip := if c.dev.sessState m = 2 then c.endSession m 3 cause else c

/-- CLOSE (R577). -/
def Chip.closeCommand (c : Chip) (m : Nat) : Chip :=
  if c.dev.sessState m = 2 then c.endSession m 2 0
  else if c.dev.sessState m = 1 then c.onDev fun d => d.dropChallenge m
  else c

/-- A SEC_SESSCMD with GO, as its word gives it; a challenge is drawn from the free values (R574, log entry 7). -/
def Chip.sessCommand (c : Chip) (m : Nat) (w : Word) : Chip :=
  let level := fld w 25 24
  let slot := fld w 19 16
  match fld w 30 28 with
  | 1 =>
    let chal := (List.range 8).foldl (fun (v : Nat) (k : Nat) => v * 2 ^ 32 + Config.freeValue (c.dev.freeCtr + k) % 2 ^ 32) 0
    (c.onDev fun d => { d with freeCtr := d.freeCtr + 8 }).openCommand m level slot (BitVec.ofNat 256 chal) c.dev.now
  | 2 => c.proveCommand m level slot c.dev.now
  | 3 => c.closeCommand m
  | _ => c.onDev fun d => d.secFail m (if 1 < m then 8 else 1)

/-! ## The seal (R580-R582) -/

/-- A seal change, in the order of R581. -/
def Chip.sealChange (c : Chip) (m : Nat) (v : Bool) : Chip :=
  let c := c.countSeal m 0x8
  let put := fun (f : Copy Bool × Copy Bool) (x : Stored) => { x with sealA := f.1, sealB := f.2 }
  let c := c.sysStore .seals [fun x => put (Copy.torn sealImage x.sealA x.sealB) x] fun x => put (Copy.put sealImage x.sealA x.sealB v) x
  let c := c.log (if v then 4 else 5) m (c.dev.sessLevel m) 0
  c.onDev fun d => d.putBit A.secSealstat 0 v

/-- SEC_SEALCMD with one of its bits (R580). OPEN asks for a session proved with slot 0. -/
def Chip.sealCommand (c : Chip) (m : Nat) (v : Bool) : Chip :=
  if !v && !(c.dev.sessState m == 2 && (c.dev.session m).slot == 0) then c.onDev fun d => d.secFail m 9
  else if c.dev.sealed == v then c
  else c.sealChange m v

/-! ## The protection map (R578, R579) -/

/-- Whether the entries of a map word hold a level code 0. -/
def Fuses.pmapBad (f : Fuses) (n : Nat) (w : Word) : Bool :=
  (List.range 16).any fun k => !f.noEntry (4 * n + k / 4) && fld (f.pmapWord n w) (2 * k + 1) (2 * k) == 0

/-- An accepted write of SEC_PMAPn: RC0, the map, and its stored copy (R578, R583). -/
def Chip.pmapSet (c : Chip) (m n : Nat) (w : Word) : Chip :=
  let c := (c.countSeal m 0x2).onDev fun d => d.setReg (A.secPMAPn n) (d.fuses.pmapWord n w)
  let put := fun (f : Copy (List Word) × Copy (List Word)) (x : Stored) => { x with pmapA := f.1, pmapB := f.2 }
  let map := (List.range 6).map c.dev.pmap
  c.sysStore .maps [fun x => put (Copy.torn wordBytes x.pmapA x.pmapB) x] fun x => put (Copy.put wordBytes x.pmapA x.pmapB map) x

/-! ## Reset and power-up (R576, R577, R579, R582) -/

/-- A reset of PD1 SUP ends open sessions; their END entries are written at the next power-up. -/
def Chip.sessionsAtReset (c : Chip) : Chip :=
  let ends := [(0, Master.hs), (1, Master.hi)].filterMap fun (e : Nat × Master) =>
    if c.dev.sessState e.1 = 2 then some (e.2, (c.dev.session e.1).level, (c.dev.session e.1).mask) else none
  { dev := { c.dev with sess := [] }, nvm := { c.nvm with endPend := c.nvm.endPend ++ ends } }

/-- The END entries of sessions that a reset ended (R577). -/
def Chip.endEntries (c : Chip) : List (Master × Nat × BitVec 4) → Chip
  | [] => c
  | e :: r => (c.log 3 e.1.id e.2.1 (0x30 + e.2.2.toNat)).endEntries r

/-- Step 3 of R479: the map and the seal from their newest copies, the END entries, and the locks of slots with eight
failures. -/
def Chip.secPowerUp (c : Chip) : Chip :=
  let d := match c.nvm.pmapCopy with
    | some k => (List.range 6).foldl (fun (d : Dev) (n : Nat) => d.setReg (A.secPMAPn n) (k.val.getD n 0xBBBBBBBB#32)) c.dev
    | none => c.dev
  let d := match c.nvm.sealCopy with
    | some k => d.putBit A.secSealstat 0 k.val
    | none => d
  let fails : List (Nat × Nat) := c.nvm.lockFails.filter fun (e : Nat × Nat) => decide (8 ≤ e.2)
  let ends := c.nvm.endPend
  let n := { c.nvm with locked := fails.map fun (e : Nat × Nat) => Fin.ofNat 8 e.1, endPend := [] }
  ({ dev := d, nvm := n } : Chip).endEntries ends

end Sys2Proof.Machine
end

