-- ==== Sys2Proof/Machine/Chain.lean ====
section
/-! DEFINITION. The Dolzu chain: LNK and SYNC, the ring, chain messages and pulse aggregation (17). -/
namespace Sys2Proof.Machine

def Dev.modChn (d : Dev) (f : Chn → Chn) : Dev := { d with chn := f d.chn }

/-! ## LNK and SYNC (R547-R550) -/

/-- LNKOK as it reads: the master drives LNK from its own XTM (R547, R568; log entry 27). -/
def Dev.lnkPresent (d : Dev) : Bool := if d.isMaster then d.xtmOk else d.chn.lnkOk

/-- On a member without LNK every channel reports OFF (R548). -/
def Dev.linkOff (d : Dev) : Dev :=
  if d.lnkPresent || d.isMaster then d
  else (List.range 18).foldl (fun (d : Dev) (k : Nat) =>
    if d.chanOn k then
      (d.modChan k fun c => { c with flags := { c.flags with off := true }, qflags := { c.qflags with off := true } }).putBit
        (A.fltCHkSample k) 31 true
    else d) d

/-- The link goes DOWN, or stays so (R556): full chain mailboxes are held, outputs drop their TOTAL reference. -/
def Dev.linkDown (d : Dev) : Dev :=
  let was := d.chn.up
  let d := d.modChn fun c => { c with up := false, good := 0, bad := 0 }
  let d := { d with outs := d.outs.mapIdx fun _ (o : PulseOut) => { o with aggRef := none } }
  if was then (d.raiseSq A.chnStat 0x2).mbStale (· == 8) else d

/-- The link comes UP: the CL epoch advances (R392, R556). -/
def Dev.linkUp (d : Dev) : Dev :=
  let d := { d with outs := d.outs.mapIdx fun _ (o : PulseOut) => { o with aggRef := none } }
  ((d.modChn fun c => { c with up := true, bad := 0 }).epochUp 8).raiseSq A.chnStat 0x1

/-- A member loses LNK (R548). -/
def Dev.lnkLoss (d : Dev) : Dev :=
  if d.isMaster || !d.chn.lnkOk then d
  else
    let d := ({ d with modOn := false, syncDue := 0 } : Dev).modChn fun c => { c with lnkOk := false, synced := false }
    ((d.raiseSq A.chnStat 0x8).linkDown).linkOff

/-- LNK is present again at a member; MOD waits for a SYNC (R548). -/
def Dev.lnkReturn (d : Dev) : Dev := if d.isMaster then d else d.modChn fun c => { c with lnkOk := true }

/-- A run of high SYNC samples at a member (R550). -/
def Dev.syncReceived (d : Dev) (run : Nat) : Dev :=
  if d.isMaster || !d.chn.lnkOk then d
  else if run < 4 || 12 < run then d.count A.chnSyncglitch 31 0 1
  else
    let d := { d with modOn := d.xtmOk, syncDue := d.syncDue + 1 }
    (d.modChn fun c => { c with synced := true }).raiseSq A.chnStat 0x4

/-! ## Message slots (R557) -/

/-- An empty slot. -/
def noSlot : RingSlot := ⟨0, 0, 0, 0, 0, false, false, false, false, 0, 0⟩

/-- The low n bits of a number, least significant first. -/
def bitsOf (n v : Nat) : List Bool := (List.range n).map (Nat.testBit v)

/-- One bit into the CRC-8 of polynomial 0x07. -/
def crc8Bit (c : BitVec 8) (b : Bool) : BitVec 8 := if c.getLsbD 7 != b then (c <<< 1) ^^^ 0x07#8 else c <<< 1

/-- SCRC: over items 1-9 in order of sending. -/
def slotCrc (s : RingSlot) : BitVec 8 :=
  (bitsOf 32 s.data.toNat ++ bitsOf 4 s.w ++ bitsOf 5 s.mbx ++ bitsOf 3 s.dst ++ bitsOf 3 s.src ++
    [s.nodata, s.go, s.toggle, s.full]).foldl crc8Bit 0

def Dev.myId (d : Dev) : Nat := d.fuses.id.toNat

/-- The slot a lane sends: its next data word, or the GO once all have been acknowledged (R558). -/
def Dev.laneSlot (d : Dev) (l : Lane) : RingSlot :=
  let go := decide (l.len ≤ l.next)
  let s : RingSlot := { data := if go then 0 else d.reg (mbDataAt l.mbx.val l.next), w := if go then 0 else l.next, mbx := l.dmbx
                        dst := l.dst, src := d.myId, nodata := go && l.len == 0, go := go, toggle := l.toggle, full := true
                        scrc := 0, result := 0 }
  { s with scrc := slotCrc s }

/-- The route of a mailbox: device and mailbox (CHN_ROUTE). -/
def Dev.route (d : Dev) (n : Nat) : Nat × Nat :=
  let b := 8 * (n % 4)
  (d.rf (A.chnROUTEn (n / 4)) (b + 7) (b + 5), d.rf (A.chnROUTEn (n / 4)) (b + 4) b)

/-- The mailboxes an idle lane may take up: full, addressed to CL, with another route than the other lane's message. -/
def Dev.chainReady (d : Dev) (other : Option Lane) : List Nat :=
  (List.range 32).filter fun n => (d.mb n).full && d.mbRx n == 8 &&
    match other with | some l => l.mbx.val != n && (l.dst, l.dmbx) != d.route n | none => true

/-- A lane takes up a message; which of several is a free choice (log entry 28). Each message to a destination mailbox toggles
T (R558). -/
def Dev.laneStart (d : Dev) (other : Option Lane) : Dev × Option Lane :=
  match d.chainReady other with
  | [] => (d, none)
  | cs =>
    let (v, d) := if cs.length = 1 then (0, d) else d.free
    let n := cs.getD (v % cs.length) 0
    let (dst, dm) := d.route n
    let t := !(SMap.get false d.chn.togglesTx (32 * dst + dm))
    (d.modChn fun c => { c with togglesTx := SMap.set false c.togglesTx (32 * dst + dm) t },
      some { mbx := Fin.ofNat 32 n, dst := dst, dmbx := dm, len := (d.mb n).high, toggle := t, next := 0, sent := false, waited := 0 })

/-- Idle lanes take up messages while the link is UP; what the two owned slots then carry (R557, R560). A device that found its
ID in use writes nothing (R555). -/
def Dev.lanesSend (d : Dev) : Dev × RingSlot × RingSlot :=
  if !d.chn.up || d.chn.dupId then (d, noSlot, noSlot)
  else
    let (d, l0) := match d.chn.lane0 with | some l => (d, some l) | none => d.laneStart d.chn.lane1
    let (d, l1) := match d.chn.lane1 with | some l => (d, some l) | none => d.laneStart l0
    let mark := fun (l : Option Lane) => l.map fun (x : Lane) => { x with sent := true }
    let slot := fun (l : Option Lane) => match l with | some x => d.laneSlot x | none => noSlot
    (d.modChn fun c => { c with lane0 := mark l0, lane1 := mark l1 }, slot l0, slot l1)

/-- A message fails (R560). -/
def Dev.msgFail (d : Dev) (n cause : Nat) : Dev :=
  ((d.setReg A.chnMsgfail (wd (2 ^ 31 + n * 2 ^ 16 + cause))).raiseSq A.chnStat 0x10).mbFree n

/-- A returned slot in a valid round (R560): the lane after it, none when its message completed or failed. -/
def Dev.laneResult (d : Dev) (lane : Option Lane) (s : RingSlot) : Dev × Option Lane :=
  match lane with
  | none => (d, none)
  | some l =>
    if !l.sent then (d, some l)
    else
      let result := if ({ s with result := 0 } : RingSlot) == d.laneSlot l then s.result else 0
      match result with
      | 0 => if 64 ≤ l.waited + 1 then (d.msgFail l.mbx.val 6, none) else (d, some { l with waited := l.waited + 1 })
      | 1 => if l.len ≤ l.next then (d.mbFree l.mbx.val, none) else (d, some { l with next := l.next + 1, waited := 0 })
      | 2 => (d, some { l with waited := 0 })
      | c => (d.msgFail l.mbx.val c, none)

/-- The two returned slots of a valid round. -/
def Dev.lanesResult (d : Dev) (slots : List RingSlot) : Dev :=
  let k := d.myId
  let (d, l0) := d.laneResult d.chn.lane0 (slots.getD k noSlot)
  let (d, l1) := d.laneResult d.chn.lane1 (slots.getD (k + 8) noSlot)
  d.modChn fun c => { c with lane0 := l0, lane1 := l1 }

/-- Whether CL may write mailboxes (R344, R559). -/
def Dev.chainMayWrite (d : Dev) : Bool := d.mayReach 8 15 && d.privileged 8 15

/-- The write a slot asks for, and its RESULT (R559): 1 done, 2 FULL, 3 RXOFF, 4 DENIED, 5 UNMAPPED. A GO taken before is done. -/
def Dev.slotWrite (d : Dev) (s : RingSlot) : Nat × Dev :=
  let n := s.mbx % 32
  let key := 32 * s.src + n
  if s.go then
    if SMap.find d.chn.togglesRx key == some s.toggle then (1, d)
    else if !d.chainMayWrite then (4, d)
    else match d.mbPost 8 n with
      | .ok d' => (1, d'.modChn fun c => { c with togglesRx := SMap.insert key s.toggle c.togglesRx })
      | .error c => (if c = 12 then 2 else 3, d)
  else if d.mbSize n ≤ s.w then (5, d)
  else if !d.chainMayWrite then (4, d)
  else match d.mbRefuses n with
    | some c => (if c = 12 then 2 else 3, d)
    | none => (1, (d.setReg (mbDataAt n s.w) s.data).mbWrote 8 n s.w)

/-- Whether a device takes a slot (R559). -/
def Dev.takesSlot (d : Dev) (s : RingSlot) : Bool := s.full && s.dst == d.myId && s.scrc == slotCrc s && s.result == 0

/-- The device takes the slots addressed to it, in order of passing. -/
def Dev.takeSlots (d : Dev) : List RingSlot → Dev × List RingSlot
  | [] => (d, [])
  | s :: r =>
    let (x, d) := if d.takesSlot s then (let (x, d) := d.slotWrite s; (some x, d)) else (none, d)
    let (d, r) := d.takeSlots r
    (d, (match x with | some v => { s with result := v } | none => s) :: r)

/-- Sixteen slots with a device's own two replaced. -/
def ownSlots (k : Nat) (slots : List RingSlot) (a b : RingSlot) : List RingSlot :=
  (List.range 16).map fun (j : Nat) => if j = k then a else if j = k + 8 then b else slots.getD j noSlot

/-! ## Aggregation (R562-R564) -/

/-- The part of a backlog that goes into a round: whole units of 2^-32 quantum, at most 2^28 quanta. -/
def contribution (b : Int) : Int := clampI (-(2 ^ 74)) (2 ^ 74) (Int.tdiv b (2 ^ 14) * 2 ^ 14)

/-- An amount is reported unresolved (R563). -/
def Dev.unresolved (d : Dev) (f : Flight) : Dev :=
  let a := A.chnAGGaUnres f.ch.val
  d.setReg a (wd (toField 32 (satI 32 (sextN 32 (d.rf a 31 0) + f.amount / 2 ^ 30))))

/-- An amount returns to its backlog. -/
def Dev.giveBack (d : Dev) (f : Flight) : Dev :=
  d.modChn fun c => { c with backlog := c.backlog.mapIdx fun (a : Nat) (b : Int) =>
    if a = f.ch.val then (acc96 (b + f.amount)).toInt else b }

/-- A valid round shows the fate of what is in flight (R563). -/
def Dev.settle (d : Dev) (rnum okmap : BitVec 8) : Dev :=
  let place := fun (f : Flight) => (rnum - 1 - f.rnum).toNat
  let fl := d.chn.flight
  let d := d.modChn fun c => { c with flight := [] }
  fl.foldl (fun (d : Dev) (f : Flight) =>
    if 8 ≤ place f then d.unresolved f
    else if okmap.getLsbD (place f) then d
    else d.giveBack f) d

/-- A round has gone by bad; what eight rounds have not settled is unresolved. -/
def Dev.ageFlight (d : Dev) : Dev :=
  let fl := d.chn.flight.map fun (f : Flight) => { f with age := f.age + 1 }
  let d := d.modChn fun c => { c with flight := fl.filter fun (f : Flight) => decide (f.age < 8) }
  (fl.filter fun (f : Flight) => decide (8 ≤ f.age)).foldl (fun (d : Dev) (f : Flight) => d.unresolved f) d

/-- The device contributes to the four cells of a round, while its link is UP (R562). -/
def Dev.contribute (d : Dev) (rnum : BitVec 8) : Dev × Vector Int 4 :=
  if !d.chn.up || d.chn.dupId then (d, Vector.replicate 4 0)
  else
    let cs := d.chn.backlog.mapIdx fun _ (b : Int) => contribution b
    let new := (cs.toList.mapIdx fun (a : Nat) (v : Int) => ({ ch := Fin.ofNat 4 a, rnum := rnum, age := 0, amount := v } : Flight)).filter fun f => f.amount != 0
    (d.modChn fun c => { c with
      backlog := c.backlog.mapIdx fun _ (b : Int) => b - contribution b
      flight := c.flight ++ new }, cs.mapIdx fun _ (v : Int) => v / 2 ^ 14)

/-- An output that follows an aggregate channel takes the TOTAL of a valid round (R564). -/
def Dev.applyTotal (d : Dev) (n : Nat) : Dev :=
  if d.cfSrc n then
    let t := d.chn.total.getD (d.cfQ n % 4) 0
    d.modOut n fun (o : PulseOut) => { o with aggRef := some t, p := o.p + (match o.aggRef with | some r => (t - r).toInt * 2 ^ 14 | none => 0) }
  else d

/-- A valid round's TOTALs are applied (R564); while the link is DOWN no output follows them. -/
def Dev.applyTotals (d : Dev) : Dev :=
  let d := (List.range 4).foldl (fun (d : Dev) (a : Nat) =>
    let t := (d.chn.total.getD a 0).toNat
    (d.setReg (A.chnAGGaTotlo a) (wd (t % 2 ^ 32))).setReg (A.chnAGGaTothi a) (wd (t / 2 ^ 32))) d
  if d.chn.up && d.on 5 then (List.range d.fuses.cfs).foldl (fun (d : Dev) (n : Nat) => d.applyTotal n) d else d

/-! ## A round on the wire (R552, R554) -/

/-- A device's status word. -/
def ringWord (s : RingStatus) : Nat := s.present.toNat * 2 ^ 31 + s.seen.toNat * 2 ^ 30 + s.up.toNat * 2 ^ 29 + s.variant % 16 * 2 ^ 25

/-- An aggregate cell: COLLECT, then TOTAL. -/
def cellWord (c : RingCell) : Nat := toField 64 c.collect + c.total.toNat * 2 ^ 64

/-- A message slot, its items in the order of R557. -/
def slotWord (s : RingSlot) : Nat :=
  s.data.toNat + s.w % 16 * 2 ^ 32 + s.mbx % 32 * 2 ^ 36 + s.dst % 8 * 2 ^ 41 + s.src % 8 * 2 ^ 44 + s.nodata.toNat * 2 ^ 47 +
    s.go.toNat * 2 ^ 48 + s.toggle.toNat * 2 ^ 49 + s.full.toNat * 2 ^ 50 + s.scrc.toNat * 2 ^ 51 + s.result % 8 * 2 ^ 61

/-- Bits 0-2015 of a round in order of sending, eight to a byte; every field goes out least significant bit first. -/
def roundBytes (r : Round) : List Byte :=
  leBytes 4 (r.syncw.toNat + r.rnum.toNat * 2 ^ 16 + r.okmap.toNat * 2 ^ 24) ++ r.status.flatMap (fun s => leBytes 4 (ringWord s)) ++
    r.cells.flatMap (fun c => leBytes 16 (cellWord c)) ++ r.slots.flatMap (fun s => leBytes 8 (slotWord s)) ++ List.replicate 24 0

/-- The CRC of a round, over its bits 0-2015. -/
def roundSum (r : Round) : Word := crc32c (roundBytes r)

/-- SYNCW of a round is right, and its CRC (R556). -/
def roundSync (r : Round) : Bool := r.syncw == 0xB4E2#16
def roundGood (r : Round) : Bool := roundSync r && r.crc == roundSum r

/-- A round as a device sends it, after one it received well or badly: a bad round stays bad. -/
def roundSealed (ok : Bool) (r : Round) : Round := { r with crc := if ok then roundSum r else ~~~ roundSum r }

/-! ## Rounds (R553-R556) -/

/-- The status word of an absent device. -/
def noStatus : RingStatus := ⟨false, false, false, 0⟩

/-- A device's own status word (R555). -/
def Dev.ownStatus (d : Dev) (seen : Bool) : RingStatus := ⟨true, seen, d.chn.up, d.fuses.variant⟩

/-- Whether the device takes part in rounds: CHN_CFG.EN, and a LNK (R556). -/
def Dev.ringOn (d : Dev) : Bool := d.rb A.chnCfg 0 && d.lnkPresent

/-- The master starts a round (R553, R554, R562): OKMAP, the status words, its own contributions and the slots of the round it
received. -/
def Dev.roundStart (d : Dev) : Dev :=
  if !d.isMaster || !d.ringOn then d
  else
    let ok := (d.chn.okHist <<< 1) ||| BitVec.ofNat 8 d.chn.gotOk.toNat
    let rnum := d.chn.rnum + 1
    let d := (d.modChn fun c => { c with okHist := ok, rnum := rnum, gotOk := false }).settle rnum ok
    let (d, cs) := d.contribute rnum
    let (d, s0, s8) := d.lanesSend
    let status := (List.range 8).map fun (k : Nat) =>
      if k = 0 then d.ownStatus (d.chn.present.getD 0 false) else { noStatus with seen := d.chn.present.getD k false }
    let r : Round := { syncw := 0xB4E2, crc := 0, rnum := rnum, okmap := ok, status := status
                       cells := (List.range 4).map fun (a : Nat) => ⟨cs.getD a 0, d.chn.total.getD a 0⟩
                       slots := ownSlots 0 d.chn.slotsRx s0 s8 }
    d.modChn fun c => { c with lastRound := some (roundSealed true r), present := [], slotsRx := [] }

/-- CHN_MEMBERS from the status words of a valid round. -/
def membersWord (l : List RingStatus) : Word :=
  wd ((l.mapIdx fun (k : Nat) (s : RingStatus) => s.seen.toNat * 2 ^ k + s.up.toNat * 2 ^ (8 + k)).foldl (· + ·) 0)

/-- The link and the counts after a round, good or bad (R556). -/
def Dev.roundCount (d : Dev) (ok : Bool) : Dev :=
  if ok then
    let d := (d.countMod A.chnRound 31 0 1).modChn fun c => { c with good := c.good + 1, bad := 0 }
    if !d.chn.up && decide (4 ≤ d.chn.good) then d.linkUp else d
  else
    let d := (d.count A.chnBadrnd 31 0 1).modChn fun c => { c with good := 0, bad := c.bad + 1 }
    if 2 ≤ d.chn.bad then d.linkDown else d

/-- The master receives a round at its LDI (R553, R559-R564). -/
def Dev.roundReceive (d : Dev) (r : Round) : Dev :=
  let ok := roundGood r
  let (d, slots) := if roundSync r then d.takeSlots r.slots else (d, [])
  let d := if ok then
      let d := d.lanesResult slots
      let d := d.modChn fun c => { c with
        gotOk := true, present := r.status.map fun (s : RingStatus) => s.present
        total := c.total.mapIdx fun (a : Nat) (t : BitVec 64) => t + BitVec.ofInt 64 (r.cells.getD a ⟨0, 0⟩).collect }
      (d.applyTotals).setReg A.chnMembers (membersWord r.status)
    else d
  (d.modChn fun c => { c with slotsRx := slots }).roundCount ok

/-- A round passes a member, which forwards it with its own fields filled in (R553-R564). A round received bad stays bad. -/
def Dev.roundForward (d : Dev) (r : Round) : Dev :=
  let ok := roundGood r
  let sync := roundSync r
  let k := d.myId
  let d := if ok && (r.status.getD k noStatus).present && !d.chn.dupId then
      (d.modChn fun c => { c with dupId := true }) else d
  let dup := d.chn.dupId
  let d := if ok then d.settle r.rnum r.okmap else d.ageFlight
  let (d, cs) := if sync then d.contribute r.rnum else (d, Vector.replicate 4 0)
  let cells := r.cells.mapIdx fun (a : Nat) (c : RingCell) => { c with collect := c.collect + cs.getD a 0 }
  let (d, slots) := if sync && !dup then d.takeSlots r.slots else (d, r.slots)
  let d := if ok then d.lanesResult slots else d
  let (d, s0, s8) := if sync then d.lanesSend else (d, noSlot, noSlot)
  let status := r.status.mapIdx fun (j : Nat) (s : RingStatus) => if j = k && !dup then d.ownStatus s.seen else s
  let d := if ok then
      let d := d.modChn fun c => { c with total := c.total.mapIdx fun (a : Nat) (_ : BitVec 64) => (r.cells.getD a ⟨0, 0⟩).total }
      (d.applyTotals).setReg A.chnMembers (membersWord status)
    else d
  let out : Round := if sync && !dup then { r with status := status, cells := cells, slots := ownSlots k slots s0 s8 } else r
  (d.modChn fun c => { c with lastRound := some (roundSealed ok out) }).roundCount ok

/-- A round passes a device (R555). A device whose ring is disabled, or that has no LNK, takes no part (log entry 27). -/
def Dev.roundPass (d : Dev) (r : Round) : Dev :=
  if !d.ringOn then d else if d.isMaster then d.roundReceive r else d.roundForward r

/-- CHN_CFG written: with EN = 0 the link is DOWN (R556). -/
def Dev.chnConfig (d : Dev) : Dev := if d.rb A.chnCfg 0 then d else d.linkDown

/-- CHN_STAT as it reads: the live bits DUPID, SYNCED, UP and LNKOK. -/
def Dev.chnStatBits (d : Dev) : Nat :=
  d.chn.dupId.toNat * 2 ^ 11 + d.chn.synced.toNat * 2 ^ 10 + d.chn.up.toNat * 2 ^ 9 + d.lnkPresent.toNat * 2 ^ 8

end Sys2Proof.Machine
end

