-- ==== Sys2Proof/Machine/Sup.lean ====
section
/-! DEFINITION. What the supervisor holds between mailboxes: commands, replies and notices (R403-R405). -/
namespace Sys2Proof.Machine

def Dev.modSup (d : Dev) (f : Sup → Sup) : Dev := { d with sup := f d.sup }

/-- CLASS and OP of a command. -/
def HeldCmd.cls (c : HeldCmd) : Nat := fld (c.words.getD 0 0) 31 28
def HeldCmd.op (c : HeldCmd) : Nat := fld (c.words.getD 0 0) 27 20

/-- DATAk of a command. -/
def HeldCmd.arg (c : HeldCmd) (k : Nat) : Word := c.words.getD k 0

/-- The reply of a command (R403): CLASS, OP and TAG repeated, STATUS, and results from DATA1 on. -/
def HeldCmd.reply (c : HeldCmd) (status : Nat) (data : List Word) : List Word :=
  setFld (c.words.getD 0 0) 11 0 status :: data

/-- A held command completes: its reply waits for mailbox 1 (R405). -/
def Dev.answer (d : Dev) (c : HeldCmd) (status : Nat) (data : List Word) : Dev :=
  d.modSup fun s => { s with held := s.held.erase c, replies := s.replies ++ [c.reply status data] }

/-- A held command is under way and completes later; the command as it is then held. -/
def Dev.startCmd (d : Dev) (c : HeldCmd) : HeldCmd × Dev :=
  let c' := { c with started := true }
  (c', d.modSup fun s => { s with held := s.held.map fun (h : HeldCmd) => if h = c then c' else h })

/-- A notice of a class and code waits for mailbox 2; beyond 16 it is dropped and counted, and its first word holds the count
of those dropped since the previous one of its kind (R403, R405). -/
def Dev.notice (d : Dev) (cls op : Nat) (data : List Word) : Dev :=
  d.modSup fun s =>
    let key := cls * 256 + op
    let n := SMap.get 0 s.dropped key
    if 16 ≤ s.notices.length then { s with dropped := SMap.insert key (n + 1) s.dropped }
    else { s with notices := s.notices ++ [wd (cls * 2 ^ 28 + op * 2 ^ 20 + satNat 8 n) :: data], dropped := SMap.erase key s.dropped }

/-- The command at place i, where it is one of a class and code that is not yet under way. -/
def Dev.heldAs (d : Dev) (i : Fin 4) (cls op : Nat) : Option HeldCmd :=
  (d.sup.held[i.val]?).filter fun c => !c.started && c.cls == cls && c.op == op

/-- Whether a command of a class is in progress (R471). -/
def Dev.classHeld (d : Dev) (cls : Nat) : Bool := d.sup.held.any fun (c : HeldCmd) => c.cls == cls

end Sys2Proof.Machine
end

