-- ==== Sys2Proof/Machine/Panel.lean ====
section
/-! DEFINITION. The bistable panel driver: images, waveforms, updates, the journal, stress and ageing, the bezel loop, the dial
area and the CLASS 4 commands (R526-R546). -/
namespace Sys2Proof.Machine

def Dev.modPnl (d : Dev) (f : Pnl → Pnl) : Dev := { d with pnl := f d.pnl }

/-! ## Matrix and images (R526, R527) -/

/-- The words of an image. -/
def Fuses.imgWords (f : Fuses) : Nat := f.coms * f.segs / 32

/-- Segment k of an image. -/
def segOf (img : List Word) (k : Nat) : Bool := bit (img.getD (k / 32) 0) (k % 32)

/-- The image of n words with the segments that meet a condition. -/
def imageOf (n : Nat) (p : Nat → Bool) : List Word :=
  (List.range n).map fun w => wd ((List.range 32).foldl (fun (a i : Nat) => if p (32 * w + i) then a + 2 ^ i else a) 0)

/-- Whether COM0 is the dial area. -/
def Dev.dialOn (d : Dev) : Bool := d.rb A.pnlCfg 0

/-- Whether segment k lies in the image area. -/
def Dev.inArea (d : Dev) (k : Nat) : Bool :=
  decide (k < d.fuses.coms * d.fuses.segs) && (!d.dialOn || decide (d.fuses.segs ≤ k))

/-- The commons of the image area. -/
def Dev.areaComs (d : Dev) : Nat := if d.dialOn then d.fuses.coms - 1 else d.fuses.coms

/-! ## Waveforms (R533-R536) -/

/-- A word of the waveform RAM. -/
def Pnl.waveWord (p : Pnl) (band slot w : Nat) : Word := SMap.get 0 p.wave (0x2000 + 0x200 * band + 0x80 * slot + 4 * w)

/-- The header of a band. -/
def Pnl.bandHead (p : Pnl) (band : Nat) : Word := SMap.get 0 p.wave (0x3000 + 4 * band)

def phaseKind (w : Word) : Nat := fld w 16 15
def phaseLevels (w : Word) : List Nat := [fld w 31 29, fld w 28 26, fld w 25 23, fld w 22 20, fld w 19 17]

/-- The phases of a slot before its END, from word w on; none without an END by word 31. -/
def Pnl.phasesFrom (p : Pnl) (band slot : Nat) : Nat → Nat → Option (List Word)
  | 0, _ => none
  | fuel + 1, w =>
    let x := p.waveWord band slot w
    if phaseKind x = 2 then some [] else (p.phasesFrom band slot fuel (w + 1)).map (x :: ·)

def Pnl.phases (p : Pnl) (band slot : Nat) : Option (List Word) := p.phasesFrom band slot 31 1

/-- Whether a waveform is usable (R536). -/
def Pnl.usable (p : Pnl) (band slot : Nat) : Bool :=
  let h := p.bandHead band
  let top := if slot = 2 then 1 else 4
  bit (p.waveWord band slot 0) 0 && decide (fld h 31 24 ≤ 192) && decide (fld h 23 16 ≤ fld h 31 24) &&
    match p.phases band slot with
    | some l => l.all fun w => decide (phaseKind w ≤ 1) && (phaseLevels w).all fun v => decide (v ≤ top)
    | none => false

/-- The frames of a waveform over the commons of an area (R535): ROW phases once for each common, scaled by AGEMULT. -/
def waveFrames (l : List Word) (coms mult : Nat) : Nat :=
  l.foldl (fun (a : Nat) (w : Word) =>
    let dur := Nat.max 1 (fld w 11 0)
    if phaseKind w = 1 then a + coms * ((dur * mult + 127) / 128) else a + dur) 0

/-- The frames that a phase lasts (R535). -/
def phaseDur (mult : Nat) (w : Word) : Nat :=
  let dur := Nat.max 1 (fld w 11 0)
  if phaseKind w = 1 then (dur * mult + 127) / 128 else dur

/-- The block of ROW phases gathered so far, once for each common in ascending order (R535). -/
def rowBlock (coms : List Nat) (mult : Nat) (rows : List Word) : List (Word × Option Nat × Nat) :=
  coms.flatMap fun c => rows.map fun w => (w, some c, phaseDur mult w)

/-- A waveform as it runs over the commons of an area: each phase with the common it addresses, none for all of them, and its frames (R535). -/
def waveSteps (coms : List Nat) (mult : Nat) : List Word → List Word → List (Word × Option Nat × Nat)
  | rows, [] => rowBlock coms mult rows
  | rows, w :: r =>
    if phaseKind w = 1 then waveSteps coms mult (rows ++ [w]) r
    else rowBlock coms mult rows ++ (w, none, phaseDur mult w) :: waveSteps coms mult [] r

/-- The step of a waveform that frame f lies in, none once it has ended. -/
def stepAt : List (Word × Option Nat × Nat) → Nat → Option (Word × Option Nat)
  | [], _ => none
  | (w, c, n) :: r, f => if f < n then some (w, c) else stepAt r (f - n)

/-- The level of a common in a phase: CSEL for the addressed ones, CUNS for the others in a ROW phase (R534, R535). -/
def comLevel (coms : List Nat) (x : Word × Option Nat) (n : Nat) : Nat :=
  match x.2 with
  | some c => if n = c then fld x.1 31 29 else fld x.1 28 26
  | none => if coms.contains n then fld x.1 31 29 else Config.panelLevel false n x.1.toNat

/-- The level of a segment of the glass in a phase: SON and SOFF where it is driven, by its target, SHOLD where it is not (R534). -/
def crossLevel (w : Word) (driven target : Bool) : Nat := if !driven then fld w 19 17 else if target then fld w 25 23 else fld w 22 20

/-- The level of a segment line: that of its crossing with the addressed common; in a GLOBAL phase that of its crossings with the commons of
the area, where they agree (R535). -/
def segLevel (segs : Nat) (coms : List Nat) (driven target : Nat → Bool) (x : Word × Option Nat) (n : Nat) : Nat :=
  let at_ := fun (c : Nat) => crossLevel x.1 (driven (c * segs + n)) (target (c * segs + n))
  match x.2 with
  | some c => at_ c
  | none =>
    let v := at_ (coms.headD 0)
    if coms.all fun c => at_ c == v then v else Config.panelLevel true n x.1.toNat

/-- Whether no band is in force, and the band (R531). -/
def Dev.noTemp (d : Dev) : Bool := d.rb A.pnlStat 15
def Dev.bandNow (d : Dev) : Nat := d.rf A.pnlStat 18 16

/-- The pump moves to the levels of a band (R529). -/
def Dev.pumpTo (d : Dev) (band : Nat) : Dev :=
  let h := d.pnl.bandHead band
  d.modPnl fun p => { p with v1 := fld h 31 24, v2 := fld h 23 16 }

/-! ## Stress and ageing (R542, R543) -/

/-- The stress counts by segment. -/
def Nvm.stress (n : Nvm) : SMap Nat := match n.stressCopy with | some k => k.val | none => []

/-- The stored counts are written. -/
def Chip.putStress (c : Chip) (m : SMap Nat) : Chip :=
  let put := fun (f : Copy (SMap Nat) × Copy (SMap Nat)) (x : Stored) => { x with stressA := f.1, stressB := f.2 }
  c.sysStore .stress [fun x => put (Copy.torn stressImage x.stressA x.stressB) x] fun x => put (Copy.put stressImage x.stressA x.stressB m) x

/-- A count raised, saturating at 32 bits. -/
def stressAdd (m : SMap Nat) (k n : Nat) : SMap Nat := SMap.set 0 m k (satNat 32 (SMap.get 0 m k + n))

/-- The counts after a run: WC for a driven segment whose target differs from its previous state, WU otherwise; `differs` says
which (a free choice where one of the two is not known, log entry 26). -/
def stressRun (m : SMap Nat) (head : Word) (segs : List Nat) (differs : Nat → Bool) : SMap Nat :=
  segs.foldl (fun (m : SMap Nat) (k : Nat) => stressAdd m k (if differs k then fld head 31 24 else fld head 23 16)) m

/-- AGEMULT for the segments driven (R542). -/
def Chip.ageMult (c : Chip) (mask : List Word) : Nat :=
  let m := c.nvm.stress
  let top := m.foldl (fun (a : Nat) (e : Nat × Nat) => if segOf mask e.1 then Nat.max a e.2 else a) 0
  (List.range 8).foldl (fun (a n : Nat) =>
    let w := c.dev.reg (A.pnlAGEn n)
    if fld w 7 0 ≠ 0 && fld w 31 8 * 16 ≤ top then fld w 7 0 else a) 128

/-- The dial counters enter the stored counts and are cleared (R543). -/
def Chip.stressSync (c : Chip) (m : SMap Nat) : Chip :=
  let m := c.dev.pnl.dial.foldl (fun (m : SMap Nat) (e : Nat × Nat) => stressAdd m e.1 e.2) m
  (c.onDev fun d => d.modPnl fun p => { p with dial := [] }).putStress m

/-! ## The journal (R539, R541) -/

/-- The newest journal record. -/
def Nvm.journalNow (n : Nvm) : Option Journal := n.journal.getLast?

def Nvm.journalPending (n : Nvm) : Bool := match n.journalNow with | some j => j.pending | none => false

/-- Write a journal record in the slot after the newest, its page closed. A write cut short leaves no record in its place. -/
def Chip.journalWrite (c : Chip) (pending : Bool) (slot band : Nat) (target mask : List Word) : Chip :=
  let seq := match c.nvm.journalNow with | some j => (j.seq + 1) % 2 ^ 32 | none => 1
  let j : Journal := { seq := seq, pending := pending, slot := slot, band := band, target := target, mask := mask }
  c.sysStore .journal [fun x => { x with journal := x.journal.drop (x.journal.length - 1) }] fun x =>
    { x with journal := (x.journal ++ [j]).drop (x.journal.length - 1) }

/-- Mark the journal clear. -/
def Chip.journalClear (c : Chip) : Chip :=
  match c.nvm.journalNow with
  | some j => if j.pending then c.journalWrite false j.slot j.band j.target j.mask else c
  | none => c

/-- PNL_JOURNAL as the supervisor copies it. -/
def Nvm.journalWord (n : Nvm) : Nat :=
  match n.journalNow with
  | some j => 2 ^ 31 + j.pending.toNat * 2 ^ 30 + j.slot * 2 ^ 24 + j.band * 2 ^ 16 + j.seq % 2 ^ 16
  | none => 2 ^ 31

/-- A journal write fails where every page of the system region is write-protected (R425). -/
def Dev.journalFails (d : Dev) : Bool := (List.range 16).all fun i => d.writeProtected (0x3F0 + i)

/-! ## The bezel loop (R544) -/

/-- A check with its resistance: BZOPEN, and PANEL_CRACK where it is open. -/
def Dev.bezel (d : Dev) (ohms : Nat) : Bool × Dev :=
  let isOpen := decide (d.rf A.pnlCfg 31 16 * 100 < ohms)
  (isOpen, (d.putBit A.pnlStat 14 isOpen).raiseIf isOpen A.pnlStat 0x8)

/-! ## The dial area (R545) -/

/-- The cause that refuses a dial update. -/
def Dev.dialRefuses (d : Dev) : Option Nat :=
  if !d.dialOn then some 9
  else if d.noTemp then some 5
  else if !d.pnl.usable d.bandNow 2 then some 4 else none

/-- A dial update starts, or is refused. -/
def Dev.dialStart (d : Dev) : Dev :=
  let d := d.modPnl fun p => { p with dialHeld := false }
  match d.dialRefuses with
  | some c => (({ d with cmPend := d.cmPend.filter (· != A.pnlDialcmd) } : Dev).putBit A.pnlStat 13 false).putFld A.pnlStat 23 20 c
      |>.raiseSq A.pnlStat 0x4
  | none =>
    let img := [d.reg A.pnlDialimg0, d.reg A.pnlDialimg1]
    let b := d.bandNow
    ((d.pumpTo b).modPnl fun p => { p with dialRun := some (b, img) }).putBit A.pnlStat 13 true

/-- PNL_DIALCMD.GO: held while a full update runs. -/
def Dev.dialCommand (d : Dev) : Dev :=
  let d := { d with cmPend := A.pnlDialcmd :: d.cmPend }
  if d.pnl.run.isSome then (d.modPnl fun p => { p with dialHeld := true }).putBit A.pnlStat 13 true else d.dialStart

/-- A full update is over: a dial update held starts. -/
def Dev.dialAfter (d : Dev) : Dev := if d.pnl.dialHeld then d.dialStart else d

/-- A dial update is over, completed or stopped. -/
def Dev.dialOver (d : Dev) : Dev :=
  ((({ d with cmPend := d.cmPend.filter (· != A.pnlDialcmd) } : Dev).modPnl fun p => { p with dialRun := none })).putBit A.pnlStat 13 false

/-- A dial update ends: its counts, DIALDONE. -/
def Dev.dialDone (d : Dev) : Dev :=
  match d.pnl.dialRun with
  | none => d
  | some (band, img) =>
    let (v, d) := d.free
    let head := d.pnl.waveWord band 2 0
    let differs := fun (s : Nat) => match d.pnl.dialImg with | some o => segOf o s != segOf img s | none => Nat.testBit v s
    let m := stressRun d.pnl.dial head (List.range d.fuses.segs) differs
    ((d.modPnl fun p => { p with dial := m, dialImg := some img }).dialOver.count A.pnlDialcnt 31 0 1).raiseSq A.pnlStat 0x2

/-! ## Updates (R538, R540) -/

/-- The update is over without completing: BUSY clears, the command is answered with a cause. -/
def Dev.updateStop (d : Dev) (c : HeldCmd) (cause : Nat) : Dev :=
  ((((d.modPnl fun p => { p with run := none }).putBit A.pnlStat 12 false).answer c 4 [wd cause])).dialAfter

/-- Steps 3 to 5 of a run: band, AGEMULT, bezel check, pump, waveform. -/
def Chip.pnlRun (c : Chip) (r : PnlRun) : Chip :=
  let mult := c.ageMult r.mask
  c.onDev fun d =>
    let (isOpen, d) := (d.setReg A.pnlAgemult (wd mult)).bezel r.ohms
    if isOpen && d.rb A.pnlCfg 1 then (if r.live then d.updateStop r.cmd 7 else
      ((d.modPnl fun p => { p with run := none }).putBit A.pnlStat 12 false).dialAfter)
    else
      let n := waveFrames ((d.pnl.phases r.band r.slot).getD []) d.areaComs mult
      (d.pumpTo r.band).modPnl fun p => { p with run := some { r with frames := r.frames + n } }

/-- Start an update or a RECOVER with its journal record (step 2). -/
def Chip.pnlStart (c : Chip) (h : HeldCmd) (target mask : List Word) (slot : Nat) (clear : Bool) (ohms : Nat) : Chip :=
  if c.dev.journalFails then c.onDev fun d => d.answer h 4 [wd 6]
  else
    let (h, d) := c.dev.startCmd h
    let b := d.bandNow
    let c := ({ dev := d.putBit A.pnlStat 12 true, nvm := c.nvm } : Chip).journalWrite true slot b target mask
    c.pnlRun { cmd := h, target := if clear then none else some target, mask := mask, slot := if clear then 3 else slot, band := b
               second := if clear then some (slot, target) else none, frames := 0, ohms := ohms, live := true }

/-- The waveform that runs: its phases, the commons of its area, AGEMULT, which segments it drives and to which target. The target of the
CLEAR run of a RECOVER is that of the journal (R540). -/
def Dev.panelWave (d : Dev) : Option (List (Word × Option Nat × Nat) × List Nat × (Nat → Bool) × (Nat → Bool)) :=
  let mult := d.rf A.pnlAgemult 7 0
  match d.pnl.run, d.pnl.dialRun with
  | some r, _ =>
    let coms := (List.range d.fuses.coms).filter fun c => !d.dialOn || c != 0
    let target := match r.target, r.second with | some t, _ => t | none, some (_, t) => t | none, none => []
    some (waveSteps coms mult [] ((d.pnl.phases r.band r.slot).getD []), coms, segOf r.mask, segOf target)
  | none, some (band, img) => some (waveSteps [0] mult [] ((d.pnl.phases band 2).getD []), [0], fun k => decide (k < d.fuses.segs), segOf img)
  | none, none => none

/-- The level code of a COM or SEG pin in frame f of a waveform: 0 VSS, 1 +V1, 2 −V1, 3 +V2, 4 −V2. VSS while no waveform runs, and clamped to VSS
while PD7 PNL is off (R528, R534). -/
def Dev.pinLevel (d : Dev) (seg : Bool) (n f : Nat) : Nat :=
  if !d.on 7 then 0
  else match d.panelWave with
    | none => 0
    | some (steps, coms, driven, target) =>
      match stepAt steps f with
      | none => 0
      | some x => if seg then segLevel d.fuses.segs coms driven target x n else comLevel coms x n

/-- What bars a CLASS 4 command: the panel absent, the sender without access to PNL, or without the privilege of a guarded register that the command
writes (R404), or PD7 PNL off where the command needs it. -/
def Dev.pnlBar (d : Dev) (h : HeldCmd) (power guarded : Bool) : Option (Nat × List Word) :=
  if d.fuses.coms = 0 then some (7, [])
  else if !(d.reachAt h.sender h.priv 0x13 && (!guarded || d.privAt h.sender h.priv 0x13)) then some (6, [])
  else if power && !d.on 7 then some (4, [wd 1]) else none

def Chip.pnlCmd (c : Chip) (h : HeldCmd) (power guarded : Bool) (f : Chip → Chip) : Chip :=
  match c.dev.pnlBar h power guarded with | some (s, l) => c.onDev fun d => d.answer h s l | none => f c

/-- UPDATE (R538, R541). It waits while a dial update runs (R545). -/
def Chip.pnlUpdate (c : Chip) (h : HeldCmd) (diff : Bool) (ohms : Nat) : Chip :=
  c.pnlCmd h true false fun c =>
    let slot := diff.toNat
    let no := fun (cause : Nat) => c.onDev fun d => d.answer h 4 [wd cause]
    if c.dev.pnl.dialRun.isSome then c
    else if c.nvm.journalPending then no 2
    else if c.dev.noTemp then no 5
    else if !c.dev.pnl.usable c.dev.bandNow slot then no 4
    else
      let n := c.dev.fuses.imgWords
      let target := imageOf n fun k => c.dev.inArea k && segOf (h.words.drop 2) k
      let mask := imageOf n fun k => c.dev.inArea k && match c.dev.pnl.image with
        | some o => !diff || segOf o k != segOf target k
        | none => true
      c.pnlStart h target mask slot false ohms

/-- RECOVER (R540): the CLEAR waveform on the journalled mask, then the journalled run. -/
def Chip.pnlRecover (c : Chip) (h : HeldCmd) (ohms : Nat) : Chip :=
  c.pnlCmd h true false fun c =>
    let no := fun (cause : Nat) => c.onDev fun d => d.answer h 4 [wd cause]
    if c.dev.pnl.dialRun.isSome || c.dev.pnl.run.isSome then c
    else match c.nvm.journalNow with
      | none => no 3
      | some j =>
        if !j.pending then no 3
        else if c.dev.noTemp then no 5
        else if !(c.dev.pnl.usable c.dev.bandNow 3 && c.dev.pnl.usable c.dev.bandNow j.slot) then no 4
        else c.pnlStart h j.target j.mask j.slot true ohms

/-- The state of a segment before a run, where it is known: of COM0 from the latest image driven there, of the others from the
latest completed update. -/
def Dev.segBefore (d : Dev) (k : Nat) : Option Bool :=
  if k < d.fuses.segs then d.pnl.dialImg.map (segOf · k)
  else if d.pnl.shown then d.pnl.image.map (segOf · k) else none

/-- A run has left the glass in a state that no image kept describes (R540, R546). -/
def Dev.glassUnknown (d : Dev) : Dev :=
  d.modPnl fun p => { p with shown := false, dialImg := if d.dialOn then p.dialImg else none }

/-- The stress of a completed run, with the dial counters (R542, R543). -/
def Chip.pnlStress (c : Chip) (r : PnlRun) : Chip :=
  let (v, d) := c.dev.free
  let segs := (List.range (d.fuses.coms * d.fuses.segs)).filter (segOf r.mask)
  let differs := fun (k : Nat) => match d.segBefore k, r.target with
    | some b, some t => b != segOf t k
    | _, _ => Nat.testBit v k
  ({ dev := d, nvm := c.nvm } : Chip).stressSync (stressRun c.nvm.stress (d.pnl.waveWord r.band r.slot 0) segs differs)

/-- A waveform ends (step 6); the second run of a RECOVER follows the first. With the supervisor reset since, only the pins go
to VSS (R546). The image that DIFF compares with is that of the latest completed update, whatever was stopped since (R538). -/
def Chip.pnlDone (c : Chip) : Chip :=
  match c.dev.pnl.run with
  | none => c
  | some r =>
    if !r.live then c.onDev fun d =>
      ((d.glassUnknown.modPnl fun p => { p with run := none }).putBit A.pnlStat 12 false).dialAfter
    else
      let c := c.pnlStress r
      match r.second with
      | some (slot, target) =>
        let c := c.onDev Dev.glassUnknown
        c.pnlRun { r with target := some target, slot := slot, second := none }
      | none =>
        let c := c.journalClear
        c.onDev fun d =>
          let t := r.target.getD []
          let com0 := imageOf 2 fun s => decide (s < d.fuses.segs) && segOf t s
          let d := d.modPnl fun p => { p with run := none, image := some t, shown := true, dialImg := if d.dialOn then p.dialImg else some com0 }
          let d := ((d.putBit A.pnlStat 12 false).count A.pnlUpdcnt 31 0 1).raiseSq A.pnlStat 0x1
          (d.answer r.cmd 0 [wd r.frames, d.reg A.pnlAgemult]).dialAfter

/-- A rail is out of tolerance (R530): a running waveform is stopped. -/
def Dev.pumpFault (d : Dev) : Dev :=
  if !d.on 7 then d
  else
    let hit := d.pnl.run.isSome || d.pnl.dialRun.isSome
    let d := d.raiseSq A.pnlStat (if hit then 0x30 else 0x10)
    let d := if d.pnl.dialRun.isSome then (d.dialOver).modPnl fun p => { p with dialImg := none } else d
    match d.pnl.run with
    | none => d
    | some r =>
      let d := d.glassUnknown
      if r.live then d.updateStop r.cmd 8
      else ((d.modPnl fun p => { p with run := none }).putBit A.pnlStat 12 false).dialAfter

/-- A watchdog reset of the supervisor: the waveform completes without it (R546). -/
def Dev.pnlWatchdog (d : Dev) : Dev := d.modPnl fun p => { p with run := p.run.map fun (r : PnlRun) => { r with live := false } }

/-! ## The other CLASS 4 commands (R537, R543, R544) -/

def Chip.pnlDiscard (c : Chip) (h : HeldCmd) : Chip :=
  c.pnlCmd h false false fun c => c.journalClear.onDev fun d => d.answer h 0 []

def Chip.pnlInfo (c : Chip) (h : HeldCmd) : Chip :=
  c.pnlCmd h false false fun c =>
    let t := match c.nvm.journalNow with | some j => j.target | none => []
    c.onDev fun d => d.answer h 0 (wd c.nvm.journalWord :: (List.range d.fuses.imgWords).map fun k => t.getD k 0)

/-- A stored waveform RAM with the words of a new one below an offset. -/
def waveMix (old new : SMap Word) (o : Nat) : SMap Word :=
  (new.filter fun (e : Nat × Word) => decide (e.1 < o)) ++ old.filter fun (e : Nat × Word) => decide (o ≤ e.1)

/-- WFSAVE, refused by the seal. Where a write cut short stopped is a free value. -/
def Chip.pnlSave (c : Chip) (h : HeldCmd) : Chip :=
  c.pnlCmd h true false fun c =>
    if c.dev.sealed then c.onDev fun d => d.answer h 5 []
    else
      let w := c.dev.pnl.wave
      let (v, d) := c.dev.free
      let torn := fun (x : Stored) => { x with waves := some (waveMix (x.waves.getD []) w (0x2000 + 8 * (v % 516))) }
      (({ dev := d, nvm := c.nvm } : Chip).sysStore .waves [torn] fun x => { x with waves := some w }).onDev fun d => d.answer h 0 []

/-- Whether the waveform RAM may not be written (R536). -/
def Dev.waveBusy (d : Dev) : Bool := d.rb A.pnlStat 12 || d.rb A.pnlStat 13

def Chip.pnlLoad (c : Chip) (h : HeldCmd) : Chip :=
  c.pnlCmd h true false fun c =>
    match c.nvm.waves with
    | none => c.onDev fun d => d.answer h 4 [wd 4]
    | some w =>
      if c.dev.waveBusy then c.onDev fun d => d.answer h 3 []
      else c.onDev fun d => (d.modPnl fun p => { p with wave := w }).answer h 0 []

/-- The highest count and the lowest segment that has it. -/
def stressTop (m : SMap Nat) : Nat × Nat :=
  m.foldl (fun (b : Nat × Nat) (e : Nat × Nat) => if b.1 < e.2 then (e.2, e.1) else b) (0, 0)

def Chip.pnlStressRead (c : Chip) (h : HeldCmd) : Chip :=
  c.pnlCmd h false false fun c =>
    let k := fld (h.arg 1) 8 0
    let m := c.nvm.stress
    c.onDev fun d =>
      if d.fuses.coms * d.fuses.segs ≤ k then d.answer h 2 []
      else d.answer h 0 [wd (SMap.get 0 m k), wd (stressTop m).1, wd (stressTop m).2]

def Chip.pnlSync (c : Chip) (h : HeldCmd) : Chip :=
  c.pnlCmd h true false fun c => (c.stressSync c.nvm.stress).onDev fun d => d.answer h 0 []

def Chip.pnlBezel (c : Chip) (h : HeldCmd) (ohms : Nat) : Chip :=
  c.pnlCmd h true true fun c => c.onDev fun d => let (o, d) := d.bezel ohms; d.answer h 0 [wd o.toNat]

/-- PNL_BEZCMD.CHECK, and its result 200 us later. -/
def Dev.bezelStart (d : Dev) : Dev := d.modPnl fun p => { p with bezPend := true }
def Dev.bezelDone (d : Dev) (ohms : Nat) : Dev :=
  if d.pnl.bezPend then ((d.modPnl fun p => { p with bezPend := false }).bezel ohms).2 else d

/-- The supervisor copies the journal state after PD7 PNL has powered up (R541). -/
def Chip.journalCopy (c : Chip) : Chip := if c.dev.on 7 then c.onDev fun d => d.setReg A.pnlJournal (wd c.nvm.journalWord) else c

/-! ## The extension at 0x13_2000 -/

/-- What an offset of the extension is: a word of the waveform RAM or a band header, a dial counter, or nothing. -/
def pnlExtKind (f : Fuses) (o : Nat) : Nat :=
  if 0x2000 ≤ o && o < 0x3020 then 1 else if 0x3100 ≤ o && o < 0x3100 + 4 * f.segs then 2 else 0

/-- A read of the extension; none where nothing is there. -/
def Dev.pnlExtRead (d : Dev) (o : Nat) : Option Word :=
  match pnlExtKind d.fuses o with
  | 1 => some (SMap.get 0 d.pnl.wave o)
  | 2 => some (wd (SMap.get 0 d.pnl.dial ((o - 0x3100) / 4)))
  | _ => none

/-- A write of the extension (R536). -/
def Dev.pnlExtWrite (d : Dev) (o : Nat) (w : Word) : Except Nat Dev :=
  match pnlExtKind d.fuses o with
  | 1 => if d.waveBusy then .error 9 else .ok (d.modPnl fun p => { p with wave := SMap.set 0 p.wave o w })
  | 2 => .error 7
  | _ => .error 3

end Sys2Proof.Machine
end

