-- ==== Sys2Proof/Machine/Coder.lean ====
section
/-! DEFINITION. Heathline on the line: bands, tone maps, the coder, frames and headers as they are sent (R492-R504). -/
namespace Sys2Proof.Machine

/-! ## Bands and tone maps (R492-R495, R503, R506) -/

/-- First carrier, carriers, payload bytes and coded bits of a block, data symbols of the largest frame, and the largest code, by band. -/
structure Band where
  base : Nat
  count : Nat
  blk : Nat
  coded : Nat
  syms : Nat
  top : Nat

def bandOfCfg (fcc : Bool) : Band := if fcc then ⟨77, 167, 128, 2092, 256, 4⟩ else ⟨18, 28, 64, 1068, 128, 3⟩

def Plc.band (p : Plc) : Band := bandOfCfg p.bandRun

/-- Whether a carrier of the band is enabled (R493). -/
def Plc.enabled (p : Plc) (j : Nat) : Bool := let c := p.band.base + j; bit (p.maskRun.getD (c / 32) 0) (c % 32)

/-- The enabled carriers, by their place in the band. -/
def Plc.carrierList (p : Plc) : List Nat := (List.range p.band.count).filter p.enabled

/-- How many carriers are enabled. -/
def Plc.carriers (p : Plc) : Nat := p.carrierList.length

/-- The robust default map (R506): TMID 0, DBPSK with REP 2 in every swath. -/
def Plc.defaultMap (p : Plc) : ToneMap := { tmid := 0, swaths := List.replicate 6 { rep := 2, codes := List.replicate p.band.count 1 } }

/-- Whether a map holds only the modulations of the band (R492, R494). -/
def Plc.allows (p : Plc) (m : ToneMap) : Bool := m.swaths.all fun (s : SwathMap) => s.codes.all fun (c : Nat) => decide (c ≤ p.band.top)

/-- The map of a swath. -/
def mapSwath (m : ToneMap) (s : Nat) : SwathMap := m.swaths.getD s { rep := 1, codes := [] }

/-- The coded bits that a carrier's code carries: none for a code the band does not use (R494, log entry 52). -/
def Plc.carrierBits (p : Plc) (w : SwathMap) (j : Nat) : Nat := let c := w.codes.getD j 0; if c ≤ p.band.top then c else 0

/-- The carrier of each bit of a swath's symbol, before repetition. -/
def Plc.bitCarriers (p : Plc) (w : SwathMap) : List Nat := p.carrierList.flatMap fun j => List.replicate (p.carrierBits w j) j

/-- The coded bits of a swath's symbol, K_s (R495). -/
def Plc.symbolBits (p : Plc) (m : ToneMap) (s : Nat) : Nat := (p.bitCarriers (mapSwath m s)).length / Nat.max 1 (mapSwath m s).rep

/-- The swath of a CYC tick (R503). -/
def swathOf (tick : Nat) : Nat := tick * 6 / 1024

/-- XTM periods of a symbol (R491). -/
def symT : Nat := 9216

/-- The symbols of a header (R499). -/
def Plc.hdrSyms (p : Plc) : Nat := let n := Nat.max 1 p.carriers; (708 + n - 1) / n

/-- Symbols of preamble and header (R499). -/
def Plc.headSyms (p : Plc) : Nat := 8 + p.hdrSyms

/-- The swath of data symbol n, by its centre, where the first preamble symbol starts `t0` XTM periods after a tick 0 of the receiver's
cycle of `len` periods (R504). -/
def Plc.symbolSwath (p : Plc) (t0 len n : Nat) : Nat :=
  let len := Nat.max 1 len
  swathOf ((t0 + symT * (p.headSyms + n) + symT / 2) % len * 1024 / len)

/-- The coded bits of the data part of the longest frame (R496, R497). -/
def Plc.frameBits (p : Plc) (m : ToneMap) (t0 len : Nat) : Nat :=
  (List.range p.band.syms).foldl (fun (a n : Nat) => a + p.symbolBits m (p.symbolSwath t0 len n)) 0

/-- How many blocks fit in one frame (R497). -/
def Plc.fits (p : Plc) (m : ToneMap) (t0 len : Nat) : Nat := Nat.min 64 (p.frameBits m t0 len / p.band.coded)

/-- The symbols that a number of coded bits takes from data symbol n on (R496). -/
def Plc.symbolsFor (p : Plc) (m : ToneMap) (t0 len bits : Nat) : Nat :=
  (List.range p.band.syms).foldl (fun (a : Nat × Nat) (n : Nat) =>
    if bits ≤ a.2 then a else (n + 1, a.2 + p.symbolBits m (p.symbolSwath t0 len n))) (0, 0) |>.1

/-! ## The coder (R495, R496) -/

/-- The bits of a number, the most significant first. -/
def msbBits : Nat → Nat → List Bool
  | 0, _ => []
  | n + 1, v => Nat.testBit v n :: msbBits n v

/-- The bits of a byte string, each byte from its most significant bit (log entry 52). -/
def byteBits (l : List Byte) : List Bool := l.flatMap fun b => msbBits 8 b.toNat

/-- The parity of the taps of a generator over the shift register, whose newest bit is bit 6. -/
def tapParity (gen reg : Nat) : Bool := ((List.range 7).filter fun i => Nat.testBit gen i && Nat.testBit reg i).length % 2 == 1

/-- The convolutional coder from a register on: the output of generator 133, then that of 171, for each bit. -/
def convFrom : Nat → List Bool → List Bool
  | _, [] => []
  | reg, b :: r => let reg := reg / 2 + 64 * b.toNat; tapParity 0o133 reg :: tapParity 0o171 reg :: convFrom reg r

/-- The coded bits of a unit, terminated with 6 zeros (R495). -/
def convCode (l : List Bool) : List Bool := convFrom 0 (l ++ List.replicate 6 false)

/-- A unit with its CRC-16 over its bytes, encoded (R496, R499). -/
def codedUnit (l : List Byte) : List Bool := convCode (byteBits l ++ msbBits 16 (crc16 0xFFFF l).toNat)

/-- The coded bits of a block's payload, interleaved (R496). -/
def codedBlock (fcc : Bool) (l : List Byte) : List Bool :=
  let c := codedUnit l
  (List.range c.length).map fun i => c.getD (Config.interleave fcc i % c.length) false

/-- The coded bits of a header, sent three times over, header bit 95 first (R499). -/
def codedHeader (h : BitVec 96) : List Bool := let c := codedUnit (beBytes 12 h.toNat); c ++ c ++ c

/-! ## Symbols (R494, R495) -/

/-- Whether places of the copies serve: all different, and those of one bit on carriers at least a quarter of the enabled
carriers apart. -/
def placesOk (carriers : List Nat) (n rep k : Nat) (place : Nat → Nat → Nat) : Bool :=
  let all := (List.range rep).flatMap fun c => (List.range k).map fun i => place c i
  all.Nodup && all.all (· < carriers.length) &&
    (List.range k).all fun i => (List.range rep).all fun c => (List.range c).all fun c' =>
      let a := carriers.getD (place c i) 0
      let b := carriers.getD (place c' i) 0
      decide (n ≤ 4 * (a - b + (b - a)))

/-- The place of a copy of a coded bit in a symbol: the implementation's where it serves, else the copies one after the other (log entry
52). -/
def copyPlace (carriers : List Nat) (n rep : Nat) : Nat → Nat → Nat :=
  let k := carriers.length / rep
  let own := Config.copyPlace rep carriers.length
  if placesOk carriers n rep k own then own else fun c i => c * k + i

/-- The bits on each place of a symbol: its coded bits in REP copies, and zeros on what is left. -/
def spreadBits (carriers : List Nat) (n rep : Nat) (coded : List Bool) : List Bool :=
  let k := carriers.length / rep
  let place := copyPlace carriers n rep
  (List.range carriers.length).map fun s =>
    (List.range rep).any fun c => (List.range k).any fun i => place c i == s && coded.getD i false

/-- A number from bits, the most significant first. -/
def bitsNat (l : List Bool) : Nat := l.foldl (fun (a : Nat) (b : Bool) => 2 * a + b.toNat) 0

/-- The points of a data symbol on the carriers of the band, from the bits on its places and the points sent last: a differential code refers
to the last symbol in which its carrier was sent (R494). -/
def Plc.dataPoints (p : Plc) (w : SwathMap) (bits : List Bool) (last : List Nat) : List (Option Nat) :=
  ((List.range p.band.count).foldl (fun (a : List (Option Nat) × List Bool) (j : Nat) =>
    let n := if p.enabled j then p.carrierBits w j else 0
    let v := bitsNat (a.2.take n)
    let pt := if n = 0 then none else if n = 4 then some (Config.qamPoint v) else some (Config.diffPoint n v (last.getD j 0))
    (a.1 ++ [pt], a.2.drop n)) ([], bits)).1

/-- The points sent last on each carrier, after a symbol. -/
def lastPoints (last : List Nat) (sym : List (Option Nat)) : List Nat := last.zipWith (fun l s => s.getD l) sym

/-- A header symbol: DBPSK on every enabled carrier (R499). -/
def hdrSwath : SwathMap := { rep := 1, codes := List.replicate 167 1 }

/-- The symbols that carry bits, each with its swath map: the coded bits fill them in order, and zeros pad the last (R496). -/
def Plc.fill (p : Plc) : List SwathMap → List Bool → List Nat → List (List (Option Nat)) × List Nat
  | [], _, last => ([], last)
  | w :: r, coded, last =>
    let carriers := p.bitCarriers w
    let rep := Nat.max 1 w.rep
    let sym := p.dataPoints w (spreadBits carriers p.carriers rep (coded.take (carriers.length / rep))) last
    let rest := p.fill r (coded.drop (carriers.length / rep)) (lastPoints last sym)
    (sym :: rest.1, rest.2)

/-- The eight preamble symbols (R499). -/
def Plc.preamble (p : Plc) : List (List (Option Nat)) :=
  (List.range 8).map fun k => (List.range p.band.count).map fun j =>
    if p.enabled j then some (Config.syncPoint (k == 7) (p.band.base + j)) else none

/-- A priority burst: one SYNC symbol (R512). -/
def Plc.burst (p : Plc) : AirFrame := { header := 0, symbols := p.preamble.take 1 }

/-- A transmission: preamble, header, and the data symbols of coded bits with their swath maps (R499). -/
def Plc.airFrame (p : Plc) (header : BitVec 96) (maps : List SwathMap) (coded : List Bool) : AirFrame :=
  let head := p.fill (List.replicate p.hdrSyms hdrSwath) (codedHeader header) ((List.range p.band.count).map fun j => Config.syncPoint true (p.band.base + j))
  { header := header, symbols := p.preamble ++ head.1 ++ (p.fill maps coded head.2).1 }

end Sys2Proof.Machine

namespace Sys2Proof

/-! ## Headers (R500, R502) -/

/-- The header of a DATA frame (R500). -/
def DataHdr.word (h : DataHdr) : BitVec 96 :=
  BitVec.ofNat 4 h.typ ++ BitVec.ofNat 2 h.pri ++ BitVec.ofBool h.ackreq ++ BitVec.ofBool h.full ++ BitVec.ofNat 12 h.src ++ BitVec.ofNat 12 h.dst ++
    BitVec.ofNat 12 h.fdst ++ BitVec.ofNat 3 h.hops ++ BitVec.ofNat 8 h.seq ++ BitVec.ofNat 7 h.nblk ++ BitVec.ofNat 8 h.tmid ++
    BitVec.ofNat 10 h.sphase ++ BitVec.ofBool h.lock ++ BitVec.ofNat 8 h.nid ++ 0#7

/-- The header of a SACK (R502). -/
def sackWord (dst seq : Nat) (bitmap : BitVec 64) (lq wsw : Nat) : BitVec 96 :=
  1#4 ++ BitVec.ofNat 12 dst ++ BitVec.ofNat 8 seq ++ bitmap ++ BitVec.ofNat 5 lq ++ BitVec.ofNat 3 wsw

/-- Whether a received header's CRC passed (R499). -/
def DataFrame.hdrOk (f : DataFrame) : Bool := Machine.crc16 0xFFFF (Machine.beBytes 12 f.hdr.word.toNat) == f.hdrCrc

/-- Whether a received block's CRC passed (R496). -/
def FecBlock.good (b : FecBlock) : Bool := Machine.crc16 0xFFFF b.raw == b.crc

/-- The worst swath measured: 6 when every block is good (R502). -/
def DataFrame.worst (f : DataFrame) : Nat := if f.blocks.all FecBlock.good then 6 else f.wsw.val

end Sys2Proof
end

