-- ==== Sys2Proof/Machine/Plc.lean ====
section
/-! DEFINITION. The Heathline link: tone maps, the MAC, medium access, reception and delivery, repeaters, and the
CLASS 3 commands (R490-R525, R607). -/
namespace Sys2Proof.Machine

def Dev.modPlc (d : Dev) (f : Plc → Plc) : Dev := { d with plc := f d.plc }

/-! ## Maps of a link (R505, R517) -/

/-- The next identifier of a link's maps (R505). -/
def nextTmid (n : Nat) : Nat := if 255 ≤ n then 1 else n + 1

/-- A carrier code one step down (R517). -/
def codeDown (c : Nat) : Nat := if 1 < c then c - 1 else c

/-- The map that both stations derive after failed blocks with their worst in swath `w` (R517). -/
def Plc.downgrade (p : Plc) (m : ToneMap) (w : Nat) : ToneMap :=
  { tmid := nextTmid m.tmid
    swaths := m.swaths.mapIdx fun i (s : SwathMap) =>
      if i ≠ w then s
      else if (List.range p.band.count).any fun j => p.enabled j && decide (1 < s.codes.getD j 0) then { s with codes := s.codes.map codeDown }
      else { s with rep := Nat.min 4 (2 * s.rep) } }

/-! ## The neighbour table (R508, R509, R516) -/

def Plc.nbr (p : Plc) (a : Nat) : Option Nbr := (p.nbrs.find? fun (e : Fin 32 × Nbr) => e.2.addr == a).map Prod.snd
def Plc.modNbr (p : Plc) (a : Nat) (f : Nbr → Nbr) : Plc :=
  { p with nbrs := p.nbrs.map fun (e : Fin 32 × Nbr) => if e.2.addr = a then (e.1, f e.2) else e }

/-- A neighbour leaves the table: the LINKLOST notice (R520). -/
def Dev.loseNbr (d : Dev) (slot : Fin 32) : Dev :=
  match d.plc.nbrs.find? fun (e : Fin 32 × Nbr) => e.1 == slot with
  | none => d
  | some e => (d.modPlc fun p => { p with nbrs := p.nbrs.filter fun (x : Fin 32 × Nbr) => x.1 != slot }).notice 3 0x81 [wd e.2.addr]

/-- The neighbour heard least recently. -/
def oldestNbr (l : List (Fin 32 × Nbr)) : Option (Fin 32 × Nbr) :=
  l.foldl (fun (b : Option (Fin 32 × Nbr)) (e : Fin 32 × Nbr) =>
    match b with | none => some e | some x => if e.2.heard < x.2.heard then some e else b) none

/-- A station is heard: it enters the table where it is new, in the lowest free slot, or in place of the least recently heard. -/
def Dev.meet (d : Dev) (a : Nat) : Dev :=
  if (d.plc.nbr a).isSome then d.modPlc fun p => p.modNbr a fun n => { n with heard := d.now }
  else
    let slots : List (Fin 32) := (List.range 32).map (Fin.ofNat 32)
    let free := fun (p : Plc) => slots.find? fun s => !(p.nbrs.any fun (e : Fin 32 × Nbr) => e.1 == s)
    let d := match free d.plc, oldestNbr d.plc.nbrs with
      | none, some e => d.loseNbr e.1
      | _, _ => d
    let n : Nbr := { addr := a, heard := d.now, lqs := [], snrs := [], lockHdr := false, runClass := 7, runDeltas := [], cls := 7
                     inverted := false, offset := 0, tx := none, rxCur := none, rxPrev := none }
    match free d.plc with
    | some s => d.modPlc fun p => { p with nbrs := p.nbrs ++ [(s, n)] }
    | none => d

/-- The latest 16 of a list of values. -/
def latest16 (l : List Nat) (v : Nat) : List Nat := (v :: l).take 16

def meanOf (l : List Nat) : Nat := if l.isEmpty then 0 else l.foldl (· + ·) 0 / l.length

/-- The class of a phase difference (R508): the index of its centre, or 7. -/
def phaseClass (delta : Nat) : Nat :=
  match [0, 171, 341, 512, 683, 853].findIdx? fun (c : Nat) => decide ((delta + 1024 - c + 42) % 1024 ≤ 84) with
  | some k => k
  | none => 7

/-- The reported phase and inversion of a class: 0, 120 and 240 degrees as 0, 1 and 2 (R508, R519). -/
def phaseReport : Nat → Nat × Bool
  | 0 => (0, false)
  | 1 => (2, true)
  | 2 => (1, false)
  | 3 => (0, true)
  | 4 => (2, false)
  | 5 => (1, true)
  | _ => (7, false)

/-- The mean of phase differences around a centre, in whole ticks modulo 1024. -/
def phaseMean (c : Nat) (l : List Nat) : Nat :=
  let devs := l.map fun x => (((x + 1024 - c + 512) % 1024 : Nat) : Int) - 512
  let m := Q.round ⟨devs.foldl (· + ·) 0, Nat.max 1 l.length⟩
  (((c : Int) + m) % 1024).toNat

/-- One phase measurement of a neighbour (R508, R509): four in a row of one class report and change it. -/
def Nbr.phase (n : Nbr) (delta : Nat) : Nbr :=
  let k := phaseClass delta
  let run := if k = 7 then [] else if k = n.runClass then (delta :: n.runDeltas).take 4 else [delta]
  let n := { n with runClass := k, runDeltas := run }
  if run.length = 4 then
    let (c, inv) := phaseReport k
    { n with cls := c, inverted := inv, offset := phaseMean ([0, 171, 341, 512, 683, 853].getD k 0) run }
  else n

/-! ## Starting and stopping the MAC (R519, R525) -/

/-- Whether the MAC runs: started, with PD6 PLC on and CK6 PLA running (R482, R484). -/
def Dev.macRuns (d : Dev) : Bool := d.plc.started && d.on 6 && d.xtmOk

/-- PLC_STAT with TXING and BUSY as they stand: a transmission that has not ended; the medium busy when the station last
contended, or a SACK of others still on it (R510). -/
def Dev.plcStatus (d : Dev) : Word :=
  let w := d.reg A.plcStat
  setBit (setBit w 9 (decide (d.now < d.plc.txUntil))) 8 (bit w 8 || decide (d.now < d.plc.hearUntil))

/-- The present CW at its start (R512). -/
def Dev.cwStart (d : Dev) : Nat := 2 ^ Nat.min (d.rf A.plcMaccfg 11 8) (d.rf A.plcMaccfg 19 16)

/-- The MAC stops: nothing is on the air, and the SENDs queued are answered with a status and cause (R519). -/
def Dev.macHalt (d : Dev) : Dev :=
  let cmds := (d.plc.sent.toList.map Prod.fst ++ d.plc.queue).filterMap TxMsg.cmd
  let d := cmds.foldl (fun (d : Dev) (c : HeldCmd) => d.answer c 4 [wd 2]) d
  let d := match d.plc.stopping with | some c => d.answer c 0 [] | none => d
  (({ d with txen := false } : Dev).modPlc fun p =>
    { p with queue := [], sent := none, access := none, sackDue := none, stopping := none, started := false, txUntil := 0, hearUntil := 0 }).putBit A.plcStat 10 false

/-- The TXEN pin: high while the started MAC transmits (R519, R522). The LDBIAS pin sources its current while DRVON is set and PD6 PLC is on, and
is high-impedance else (R522). -/
def Dev.txenPin (d : Dev) : Bool := d.txen && decide (d.now < d.plc.txUntil)
def Dev.ldbias (d : Dev) : Bool := d.on 6 && d.rb A.plcTxcfg 31

/-- The exchange has completed; a STOP that waited for it takes effect. -/
def Dev.exchangeDone (d : Dev) : Dev := if d.plc.stopping.isSome then d.macHalt else d

/-! ## Sending (R511, R512, R514, R516, R521) -/

/-- The map a frame to a neighbour uses (R506). -/
def Dev.mapFor (d : Dev) (a : Nat) : ToneMap :=
  match d.plc.nbr a with
  | some n => match n.tx with
    | some m => if d.locked && n.lockHdr then m else d.plc.defaultMap
    | none => d.plc.defaultMap
  | none => d.plc.defaultMap

/-- The next hop to a destination: a free choice among the neighbours, as the firmware's estimate of airtime is not given; the
destination itself for a broadcast, none without a neighbour (R516, log entry 25). -/
def Dev.nextHop (d : Dev) (fdst : Nat) : Option Nat × Dev :=
  if fdst = 0xFFF then (some 0xFFF, d)
  else
    let l := d.plc.nbrs.map fun (e : Fin 32 × Nbr) => e.2.addr
    if l.isEmpty then (none, d)
    else let (v, d) := d.free; (l[v % l.length]?, d)

/-- The first message of the highest priority, and the rest of the queue. -/
def topMsg (l : List TxMsg) : Option (TxMsg × List TxMsg) :=
  let best := l.foldl (fun (b : Nat) (m : TxMsg) => Nat.max b m.pri) 0
  (l.find? fun (m : TxMsg) => m.pri == best).map fun m => (m, l.erase m)

/-- A message that cannot be sent on is answered (R519). -/
def Dev.failMsg (d : Dev) (m : TxMsg) (cause : Nat) : Dev :=
  match m.cmd with | some c => d.answer c 4 [wd cause] | none => d

/-- A message's frame is done with: what is left of it is queued with the next SEQ to come, or its SEND is answered. -/
def Dev.segmentDone (d : Dev) (m : TxMsg) : Dev :=
  let rest := m.bytes.drop m.take
  if rest.isEmpty then
    match m.cmd with | some c => d.answer c 0 [wd m.hop, wd m.frames] | none => d
  else
    let m' : TxMsg := { m with bytes := rest, nblk := 0, take := 0, failed := none, repeats := 0, payload := [] }
    d.modPlc fun p => { p with queue := m' :: p.queue }

/-! ## The cycle at the pins (R120, R501, R504) -/

/-- The group delay of the frames in XTM periods (R120). -/
def Dev.groupDelay (d : Dev) : Nat :=
  let p := d.framePreset
  2 * presetN p * (presetD p - 1) + 128 + 4 * ((rankL d.frameRank - 1) / 2) * presetD p

/-- The length of the running cycle as the loop predicts it. -/
def Dev.cycleNow (d : Dev) : Nat := Nat.max 1 (d.fll.due - d.fll.tick0)

/-- SPHASE of a frame that starts at time t (R501). -/
def Dev.sphaseAt (d : Dev) (t : Nat) : Nat := (d.cycTick t + (2 * d.groupDelay * 1024 + d.cycleNow) / (2 * d.cycleNow)) % 1024

/-- XTM periods from the latest crossing at the pins of the station addressed to time t: the own pin-referred position less the stored offset of
that neighbour (R504, R509). -/
def Dev.hopPhase (d : Dev) (a t : Nat) : Nat :=
  let len := d.cycleNow
  let ofs := match d.plc.nbr a with | some n => n.offset * len / 1024 | none => 0
  (t - d.fll.tick0 + d.groupDelay + (len - ofs)) % len

/-! ## Frames sent (R496, R497, R500, R521) -/

/-- The blocks and bytes of a first frame of a message: as many blocks as fit, 16 bytes of them the firmware's header (R497, R521). -/
def Dev.segmentSize (d : Dev) (m : TxMsg) (map : ToneMap) (t0 : Nat) : Nat × Nat :=
  let b := d.plc.band
  let n := Nat.min (d.plc.fits map t0 d.cycleNow) ((m.bytes.length + 16 + b.blk - 1) / b.blk)
  (n, Nat.min m.bytes.length (n * b.blk - 16))

/-- A message made ready to be sent under a map: a frame not sent before, or one of which every block is to be repeated and no longer
fits, gets the next SEQ and its payload, of which the firmware's header and what fills the last block are free values (R497, R521, log
entries 25 and 52). -/
def Dev.makeReady (d : Dev) (m : TxMsg) (map : ToneMap) (t0 : Nat) : TxMsg × Dev :=
  if m.nblk ≠ 0 && (m.failed.isSome || m.nblk ≤ d.plc.fits map t0 d.cycleNow) then (m, d)
  else
    let z := d.segmentSize m map t0
    let (v, d) := d.free
    let (w, d) := d.free
    let body := leBytes 16 v ++ m.bytes.take z.2
    ({ m with nblk := z.1, take := z.2, seq := d.plc.seq, failed := none, payload := body ++ leBytes (z.1 * d.plc.band.blk - body.length) w },
      d.modPlc fun p => { p with seq := (p.seq + 1) % 256 })

/-- The blocks of the next frame: those the latest SACK marked failed, or all, as many as fit (R497, R500). -/
def Dev.frameBlocks (d : Dev) (m : TxMsg) (map : ToneMap) (t0 : Nat) : List Nat :=
  (m.failed.getD (List.range m.nblk)).take (d.plc.fits map t0 d.cycleNow)

/-- The header of a frame that starts at time t (R500). -/
def Dev.frameHdr (d : Dev) (m : TxMsg) (a t : Nat) (map : ToneMap) (blocks : List Nat) : DataHdr :=
  { typ := 0, pri := m.pri, ackreq := a != 0xFFF, full := m.failed.isNone, src := d.rf A.plcCfg 23 12, dst := a, fdst := m.fdst, hops := m.hops
    seq := m.seq, nblk := blocks.length, tmid := map.tmid, sphase := d.sphaseAt t, lock := d.locked, nid := d.rf A.plcCfg 31 24 }

/-- A frame goes on the air at time t (R496, R499, R511): the edge e that follows is the end of its SACK, or its own end where it asks for none. -/
def Dev.putOnAir (d : Dev) (m : TxMsg) (a t t0 : Nat) (map : ToneMap) (blocks : List Nat) : Dev :=
  let p := d.plc
  let coded := blocks.flatMap fun j => codedBlock p.bandRun ((m.payload.drop (j * p.band.blk)).take p.band.blk)
  let n := p.symbolsFor map t0 d.cycleNow coded.length
  let maps := (List.range n).map fun k => mapSwath map (p.symbolSwath t0 d.cycleNow k)
  let stop := t + symT * (p.headSyms + n)
  { d with plc := { p with air := some (p.airFrame (d.frameHdr m a t map blocks).word maps coded), txUntil := stop
                           edge := if a = 0xFFF then stop else stop + symT * (1 + p.headSyms) } }

/-- A frame is sent: it awaits its SACK, or a broadcast is done with. -/
def Dev.sendFrame (d : Dev) (m : TxMsg) (a t t0 : Nat) (map : ToneMap) (blocks : List Nat) (clip : Bool) : Dev :=
  let m : TxMsg := { m with frames := m.frames + 1, hop := a }
  let d := (((d.putOnAir m a t t0 map blocks).count A.plcTxframes 31 0 1).raiseIf clip A.plcStat 0x4)
  if a = 0xFFF then (d.segmentDone m).exchangeDone else d.modPlc fun p => { p with sent := some (m, map) }

/-- A station sends its frame at the start of the slot it won (R511, R514), never while it owes a SACK. A message of which not one block fits
under its map is answered as one without a route (R519, log entry 52). -/
def Dev.frameTransmit (d : Dev) (clip : Bool) : Dev :=
  match d.plc.access with
  | none => d
  | some t =>
    if !(d.macRuns && d.plc.sent.isNone && d.plc.sackDue.isNone) then d
    else match topMsg d.plc.queue with
      | none => d.modPlc fun p => { p with access := none }
      | some (m, rest) =>
        let d := d.modPlc fun p => { p with queue := rest, access := none }
        let (hop, d) := d.nextHop m.fdst
        match hop with
        | none => (d.failMsg m 4).exchangeDone
        | some a =>
          let map := if a = 0xFFF then d.plc.defaultMap else d.mapFor a
          let t0 := d.hopPhase a t
          let (m, d) := d.makeReady m map t0
          let blocks := d.frameBlocks m map t0
          if blocks.isEmpty then (d.failMsg m 4).exchangeDone else d.sendFrame m a t t0 map blocks clip

/-- Repeat a frame, or report its message failed after RETRY repeats (R514). -/
def Dev.repeatMsg (d : Dev) (m : TxMsg) : Dev :=
  if d.rf A.plcMaccfg 3 0 ≤ m.repeats then d.failMsg m 5
  else d.modPlc fun p => { p with queue := { m with repeats := m.repeats + 1 } :: p.queue }

/-- A SACK arrives (R502, R512, R514, R517). -/
def Dev.sackReceived (d : Dev) (k : Sack) : Dev :=
  match d.plc.sent with
  | none => d
  | some (m, map) =>
    if !(d.plc.started && k.dst == d.rf A.plcCfg 23 12 && k.seq == m.seq) then d
    else
      let bad := (List.range m.nblk).filter fun j => !k.bitmap.getLsbD j
      let d := d.modPlc fun p => { p with sent := none, cw := d.cwStart }
      let d := d.modPlc fun p => p.modNbr m.hop fun n =>
        { n with lqs := latest16 n.lqs k.lq.val
                 tx := if !bad.isEmpty && k.wsw.val ≤ 5 && map.tmid ≠ 0 then some (p.downgrade map k.wsw.val) else n.tx }
      let d := if bad.isEmpty then d.segmentDone m else d.repeatMsg { m with failed := some bad }
      d.exchangeDone

/-- No SACK arrives (R512, R514): CW doubles, and every block is repeated. -/
def Dev.sackTimeout (d : Dev) : Dev :=
  match d.plc.sent with
  | none => d
  | some (m, _) =>
    let d := d.modPlc fun p => { p with sent := none, edge := p.txUntil, cw := Nat.min (2 * p.cw) (Nat.max d.cwStart (2 ^ d.rf A.plcMaccfg 19 16)) }
    (d.repeatMsg { m with failed := none }).exchangeDone

/-- The earliest start of contention slot 0 for a message. A message that the station had before its priority window contends in the round that
follows the edge e; one that came later, on a medium idle since the last priority windows ended, after 2 symbols of listening and the four
windows (R510, R511). -/
def Dev.slotsFrom (d : Dev) (m : TxMsg) : Nat :=
  let e := d.plc.edge
  if m.got ≤ e + symT * (5 - m.pri) then e + 6 * symT else Nat.max m.got (e + 6 * symT) + 6 * symT

/-- Whether the medium is busy: a preamble or a frame is heard, or the band energy lies ETHR above the idle floor (R510). -/
def Dev.mediumBusy (d : Dev) (m : Contention) : Bool := m.preamble || decide (m.floor + d.rf A.plcRxcfg 7 0 ≤ m.energy)

/-- The priority windows and the contention have passed (R512): a station that heard no burst of a higher priority, on a medium idle up to
its slot, has sent its burst and won the slot that it drew below CW; else it defers to another station. It does not contend while an exchange
runs (R511). -/
def Dev.mediumAccess (d : Dev) (m : Contention) : Dev :=
  if !(d.macRuns && d.plc.sent.isNone && d.plc.sackDue.isNone) then d
  else
    let busy := d.mediumBusy m
    let d := (d.modPlc fun p => { p with floor := m.floor }).putBit A.plcStat 8 busy
    match topMsg d.plc.queue with
    | none => d
    | some (x, _) =>
      let bid := !busy && !m.burst
      let won := bid && decide (m.slot < d.plc.cw) && decide (d.slotsFrom x + 2 * symT * m.slot ≤ m.t)
      d.modPlc fun p => { p with air := if bid then some p.burst else p.air, access := if won then some m.t else none }

/-! ## Receiving (R513, R515, R516, R520, R521) -/

/-- The free stretches of RX RAM as (start, length), from the messages held in ascending order. -/
def rxGaps : Nat → List (Nat × Nat) → List (Nat × Nat)
  | at_, [] => [(at_, 16384 - at_)]
  | at_, (o, n) :: r => (at_, o - at_) :: rxGaps (o + n) r

/-- Insert a message in ascending order of offset. -/
def rxInsert (e : Nat × Nat) : List (Nat × Nat) → List (Nat × Nat)
  | [] => [e]
  | x :: r => if e.1 < x.1 then e :: x :: r else x :: rxInsert e r

/-- The place number v among those where n bytes fit. -/
def rxPlace (n : Nat) : List (Nat × Nat) → Nat → Option Nat
  | [], _ => none
  | (o, len) :: r, v => if len < n then rxPlace n r v else if v < len - n + 1 then some (o + v) else rxPlace n r (v - (len - n + 1))

def rxPlaces (n : Nat) (l : List (Nat × Nat)) : Nat :=
  l.foldl (fun (a : Nat) (g : Nat × Nat) => if g.2 < n then a else a + (g.2 - n + 1)) 0

def putRam (ram : SMap Byte) (o : Nat) : List Byte → SMap Byte
  | [] => ram
  | b :: r => putRam (SMap.set 0 ram o b) (o + 1) r

/-- A complete message is placed in RX RAM, at an offset the firmware chooses, with its notice (R520, log entry 25). -/
def Dev.deliver (d : Dev) (orig pri lq : Nat) (msg : List Byte) : Dev :=
  let gaps := rxGaps 0 d.plc.rxMsgs
  let n := msg.length
  let (v, d) := d.free
  match rxPlace n gaps (v % Nat.max 1 (rxPlaces n gaps)) with
  | none => d.raiseSq A.plcStat 0x8
  | some o =>
    (d.modPlc fun p => { p with rxRam := putRam p.rxRam o msg, rxMsgs := rxInsert (o, n) p.rxMsgs }).notice 3 0x80
      [wd (orig % 2 ^ 12 + pri % 4 * 2 ^ 12), wd o, wd n, wd lq]

/-- Whether RX RAM has room for n bytes. -/
def Plc.room (p : Plc) (n : Nat) : Bool := decide (0 < rxPlaces n (rxGaps 0 p.rxMsgs))

/-- A received frame's payload is complete: its segment is gathered, and a complete message delivered (R521). -/
def Dev.gather (d : Dev) (f : DataFrame) (bytes : List Byte) : Dev :=
  let own := SMap.insert f.segIndex bytes (SMap.get [] d.plc.segs f.origSrc)
  let all := (List.range (f.segIndex + 1)).map fun i => SMap.find own i
  if f.lastSeg && all.all Option.isSome then
    (d.modPlc fun p => { p with segs := SMap.erase f.origSrc p.segs }).deliver f.origSrc f.hdr.pri f.lq.val ((all.map (·.getD [])).flatten)
  else d.modPlc fun p => { p with segs := SMap.insert f.origSrc own p.segs }

/-- A complete frame for this station, a broadcast, or one to be forwarded (R514, R516): a message delivered within the
previous 10 s is dropped. -/
def Dev.frameComplete (d : Dev) (f : DataFrame) (bytes : List Byte) : Dev :=
  let own := d.rf A.plcCfg 23 12
  let fresh := d.plc.delivered.filter fun (e : Nat × Nat × Nat) => decide (d.now - e.2.2 < challengeLife)
  if fresh.any fun (e : Nat × Nat × Nat) => e.1 == f.hdr.src && e.2.1 == f.hdr.seq then d
  else
    let d := d.modPlc fun p => { p with delivered := fresh ++ [(f.hdr.src, f.hdr.seq, d.now)] }
    if f.hdr.fdst = own || f.hdr.fdst = 0xFFF then d.gather f bytes
    else if f.hdr.hops = 0 then d
    else
      let m : TxMsg := { fdst := f.hdr.fdst, src := f.origSrc, pri := f.hdr.pri, hops := f.hdr.hops - 1, bytes := bytes, seq := 0, nblk := 0
                         take := 0, failed := none, repeats := 0, frames := 0, hop := 0, cmd := none, payload := [], mgmt := none, got := d.now }
      d.modPlc fun p => { p with queue := p.queue ++ [m] }

/-- What a tone-map message says, as a list of numbers: nothing is a request. -/
def mapNumbers : Option ToneMap → List Nat
  | none => []
  | some m => m.tmid :: m.swaths.flatMap fun (s : SwathMap) => s.rep :: s.codes

/-- The firmware queues a message of its own to a neighbour: a tone map, or a request for one (R505, R507, R519); its bytes are the
firmware's (log entry 52). -/
def Dev.mgmtMessage (d : Dev) (a : Nat) (map : Option ToneMap) : Dev :=
  let m : TxMsg := { fdst := a, src := d.rf A.plcCfg 23 12, pri := 0, hops := 0, bytes := (Config.mapMessage (mapNumbers map)).take 8176, seq := 0
                     nblk := 0, take := 0, failed := none, repeats := 0, frames := 0, hop := 0, cmd := none, payload := [], mgmt := some map, got := d.now }
  d.modPlc fun p => { p with queue := p.queue ++ [m] }

/-- The current RX map of a neighbour is sent to it again (R507). -/
def Dev.mapAgain (d : Dev) (a : Nat) : Dev :=
  match (d.plc.nbr a).bind (·.rxCur) with
  | some m => d.mgmtMessage a (some m)
  | none => d

/-- The blocks of a frame with their indexes in the SEQ: all of it, or those not held, in ascending index (R500). -/
def blockIndexes (f : DataFrame) (h : RxHold) : List Nat :=
  if f.hdr.full then List.range f.blocks.length else (List.range h.nblk).filter fun j => (SMap.find h.blocks j).isNone

/-- The blocks of a frame addressed to this station are taken (R505, R507, R513, R515): the blocks then held, with the SACK's
bitmap and whether any block failed. Under a map that is neither of the two held, the blocks of the frame are marked failed and
the current map is sent again; blocks received before and not in the frame stay marked (R502, R507, log entry 52). -/
def Dev.takeBlocks (d : Dev) (f : DataFrame) : (BitVec 64 × Bool × Option (List Byte)) × Dev :=
  let src := f.hdr.src
  let known := match d.plc.nbr src with
    | some n => f.hdr.tmid == 0 || n.rxCur.any (·.tmid == f.hdr.tmid) || n.rxPrev.any (·.tmid == f.hdr.tmid)
    | none => f.hdr.tmid == 0
  let old := d.plc.holds.find? fun (h : RxHold) => h.src == src && h.seq == f.hdr.seq
  let hold : RxHold := match old with
    | some h => if f.hdr.full then { h with nblk := f.blocks.length } else h
    | none => { src := src, seq := f.hdr.seq, nblk := if f.hdr.full then f.blocks.length else 0, blocks := [] }
  let keep := fun (d : Dev) (h : RxHold) =>
    d.modPlc fun p => { p with holds := h :: p.holds.filter fun (x : RxHold) => x.src != src }
  let bits := fun (h : RxHold) => BitVec.ofNat 64 (((List.range h.nblk).map fun j => (SMap.find h.blocks j).isSome).foldr
    (fun (b : Bool) (a : Nat) => 2 * a + b.toNat) 0)
  if !known then ((if f.hdr.full then 0 else bits hold, true, none), (keep d hold).mapAgain src)
  else if !f.hdr.full && old.isNone then ((0, true, none), d)
  else
    let got := (blockIndexes f hold).zip f.blocks
    let d := d.count A.plcBlkfail 31 0 (f.blocks.filter fun (b : FecBlock) => !b.good).length
    let size := (SMap.get [] d.plc.segs f.origSrc).foldl (fun (a : Nat) (e : Nat × List Byte) => a + e.2.length) 0 +
      hold.blocks.foldl (fun (a : Nat) (e : Nat × List Byte) => a + e.2.length) 0 + (f.blocks.map fun (b : FecBlock) => b.bytes.length).foldl (· + ·) 0
    let ours := f.hdr.fdst == d.rf A.plcCfg 23 12 || f.hdr.fdst == 0xFFF
    if ours && !d.plc.room size then ((0, true, none), (keep d hold).raiseSq A.plcStat 0x8)
    else
      let blocks := got.foldl (fun (m : SMap (List Byte)) (e : Nat × FecBlock) => if e.2.good then SMap.insert e.1 e.2.bytes m else m) hold.blocks
      let h := { hold with blocks := blocks }
      let all := (List.range h.nblk).map fun j => SMap.find blocks j
      let whole := decide (h.nblk ≠ 0) && all.all Option.isSome
      ((bits h, !whole, if whole then some ((all.map (·.getD [])).flatten) else none), keep d h)

/-- The end of a frame heard: the edge e is the end of its SACK, or its own; a SACK to another station keeps the medium busy (R500,
R510, R511). -/
def Dev.heardFrame (d : Dev) (h : DataHdr) : Dev :=
  let ours := h.nid == d.rf A.plcCfg 31 24 && h.dst == d.rf A.plcCfg 23 12
  let stop := if h.ackreq && h.dst != 0xFFF then d.now + symT * (1 + d.plc.headSyms) else d.now
  d.modPlc fun p => { p with edge := stop, hearUntil := if ours then d.now else stop }

/-- A DATA frame is received (R500, R508, R513): one with a TYPE not used is discarded, one of another network is ignored. -/
def Dev.dataFrame (d : Dev) (f : DataFrame) : Dev :=
  if !d.macRuns then d
  else if !f.hdrOk then d.count A.plcHdrfail 31 0 1
  else if f.hdr.typ ≠ 0 then d
  else if f.hdr.nid ≠ d.rf A.plcCfg 31 24 then d.heardFrame f.hdr
  else
    let h := f.hdr
    let d := ((d.heardFrame h).count A.plcRxhdr 31 0 1).setReg A.plcLastrx
      (wd (h.src % 2 ^ 12 * 2 ^ 20 + h.seq % 256 * 2 ^ 12 + h.lock.toNat * 2 ^ 11 + f.lq.val * 2 ^ 6 + f.worst))
    let d := (d.meet h.src).modPlc fun p => p.modNbr h.src fun n =>
      let n := { n with snrs := latest16 n.snrs f.lq.val, lockHdr := h.lock }
      if h.lock && d.locked then n.phase ((f.tick.val + 1024 - h.sphase % 1024) % 1024) else n
    let own := d.rf A.plcCfg 23 12
    if !(h.dst == own || h.dst == 0xFFF) then d
    else
      let ((bm, failed, whole), d) := d.takeBlocks f
      let d := if h.dst == own && h.ackreq then
          d.modPlc fun p => { p with sackDue := some { dst := h.src, seq := h.seq, bitmap := bm, lq := f.lq.val
                                                       wsw := if failed then f.wsw.val else 6, tmid := h.tmid, failed := failed } }
        else d
      match whole with | some b => d.frameComplete f b | none => d

/-- The receiver sends its SACK (R513); after failed blocks it derives the downgraded map (R517). -/
def Dev.sackSend (d : Dev) : Dev :=
  match d.plc.sackDue with
  | none => d
  | some s =>
    let stop := d.now + symT * (1 + d.plc.headSyms)
    let d := (d.count A.plcTxframes 31 0 1).modPlc fun p =>
      { p with sackDue := none, air := some (p.airFrame (sackWord s.dst s.seq s.bitmap s.lq s.wsw) [] []), txUntil := stop, edge := stop }
    let d := if !(s.failed && s.wsw ≤ 5 && s.tmid ≠ 0) then d
      else d.modPlc fun p => p.modNbr s.dst fun n =>
        match [n.rxCur, n.rxPrev].findSome? fun m => m.filter fun (x : ToneMap) => x.tmid == s.tmid with
        | some m => { n with rxPrev := n.rxCur, rxCur := some (p.downgrade m s.wsw) }
        | none => n
    d.exchangeDone

/-- A tone map of a link (R505): the one a neighbour measured for our transmissions, or the one we measured of the
neighbour's, which the firmware sends to it. A map is measured only from a frame with LOCK = 1 while the own CYC is locked (R506); a
map with a modulation that the band does not allow is not taken (R492, log entry 52). -/
def Dev.toneMap (d : Dev) (msg : MapMsg) : Dev :=
  if !d.macRuns then d
  else match msg with
    | .fromNeighbour a map => if d.plc.allows map then (d.meet a).modPlc fun p => p.modNbr a fun n => { n with tx := some map } else d
    | .measured a map =>
      match d.plc.nbr a with
      | none => d
      | some n =>
        if !(d.locked && n.lockHdr && d.plc.allows map) then d
        else
          let m := { map with tmid := nextTmid ((n.rxCur.map ToneMap.tmid).getD 0) }
          (d.modPlc fun p => p.modNbr a fun n => { n with rxPrev := n.rxCur, rxCur := some m }).mgmtMessage a (some m)

/-! ## Failures (R525, R607) -/

/-- XTM fails: CK6 PLA stops, a transmission ends with TXFAULT, the MAC stops. -/
def Dev.plcXtmFail (d : Dev) : Dev :=
  if d.plc.started then (d.raiseIf (decide (d.now < d.plc.txUntil)) A.plcStat 0x1).macHalt else d

/-- A watchdog reset of the supervisor: TXFAULT, the MAC stops, no reply is sent. -/
def Dev.plcWatchdog (d : Dev) : Dev :=
  if d.plc.started then
    (({ d with txen := false } : Dev).modPlc fun p =>
      { p with queue := [], sent := none, access := none, sackDue := none, stopping := none, started := false, txUntil := 0, hearUntil := 0 }).putBit A.plcStat 10 false
      |>.raiseSq A.plcStat 0x1
  else d

/-- The level at the receive pins exceeds saturation. -/
def Dev.rxSaturated (d : Dev) : Dev := if d.on 6 && d.xtmOk then d.raiseSq A.plcStat 0x2 else d

/-! ## CLASS 3 commands (R519) -/

/-- The status that stops a CLASS 3 command before its own checks: the link absent, the sender without access to PLC (R404), or PD6 PLC off. -/
def Dev.plcBar (d : Dev) (c : HeldCmd) : Option (Nat × List Word) :=
  if !d.fuses.plc then some (7, []) else if !d.reachAt c.sender c.priv 0x12 then some (6, []) else if !d.on 6 then some (4, [wd 1]) else none

/-- Run a CLASS 3 command where nothing bars it. -/
def Dev.plcCmd (d : Dev) (c : HeldCmd) (f : Dev → Dev) : Dev :=
  match d.plcBar c with | some (s, l) => d.answer c s l | none => f d

/-- The same for a command that needs the MAC started. -/
def Dev.macCmd (d : Dev) (c : HeldCmd) (f : Dev → Dev) : Dev :=
  d.plcCmd c fun d => if d.plc.started then f d else d.answer c 4 [wd 2]

/-- CONFIG, with the sender's privilege. -/
def Dev.plcConfig (d : Dev) (c : HeldCmd) : Dev :=
  d.plcCmd c fun d =>
    let a := c.arg 1
    if !d.privAt c.sender c.priv 0x12 then d.answer c 6 []
    else if fld a 27 16 = 0 || fld a 27 16 = 0xFFF then d.answer c 2 []
    else if d.plc.started then d.answer c 4 [wd 3]
    else
      let w := fld (c.arg 2) 7 0 * 2 ^ 24 + fld a 27 16 * 2 ^ 12 + (bit a 0).toNat
      ((d.setReg A.plcCfg (wd w)).putFld A.plcTxcfg 4 0 (fld (c.arg 3) 4 0)).answer c 0 []

/-- START. It waits while CK6 PLA does not run (R484, log entry 52). -/
def Dev.macStart (d : Dev) (c : HeldCmd) : Dev :=
  d.plcCmd c fun d =>
    if d.plc.started then d.answer c 4 [wd 3]
    else if !d.xtmOk then d
    else
      let band := d.rb A.plcCfg 0
      let mask := (List.range 8).map fun n => d.reg (A.plcCMASKn n)
      ((({ d with txen := true } : Dev).modPlc fun p => { p with started := true, cw := d.cwStart, bandRun := band, maskRun := mask, edge := d.now }).putBit
        A.plcStat 10 true).answer c 0 []

/-- STOP: the exchange in progress completes first. -/
def Dev.macStop (d : Dev) (c : HeldCmd) : Dev :=
  d.macCmd c fun d =>
    let (c, d) := d.startCmd c
    let d := d.modPlc fun p => { p with stopping := some c }
    if d.plc.sent.isSome || d.plc.sackDue.isSome then d else d.macHalt

/-- SEND. -/
def Dev.plcSend (d : Dev) (c : HeldCmd) : Dev :=
  d.macCmd c fun d =>
    let fdst := fld (c.arg 1) 11 0
    let off := fld (c.arg 2) 14 0
    let len := (c.arg 3).toNat
    if len = 0 || 8176 < len || 16384 < off + len || fdst = 0 then d.answer c 2 []
    else if fdst ≠ 0xFFF && d.plc.nbrs.isEmpty then d.answer c 4 [wd 4]
    else
      let (v, d) := d.free
      let (c, d) := d.startCmd c
      let m : TxMsg := { fdst := fdst, src := d.rf A.plcCfg 23 12, pri := fld (c.arg 1) 13 12, hops := v % 8
                         bytes := (List.range len).map fun i => SMap.get 0 d.plc.txRam (off + i), seq := 0, nblk := 0, take := 0
                         failed := none, repeats := 0, frames := 0, hop := 0, cmd := some c, payload := [], mgmt := none, got := d.now }
      d.modPlc fun p => { p with queue := p.queue ++ [m] }

/-- NBRINFO. -/
def Dev.nbrInfo (d : Dev) (c : HeldCmd) : Dev :=
  d.plcCmd c fun d =>
    let slot := fld (c.arg 1) 4 0
    match d.plc.nbrs.find? fun (e : Fin 32 × Nbr) => e.1.val == slot with
    | none => d.answer c 0 [0, 0, 0]
    | some (_, n) =>
      d.answer c 0 [wd (2 ^ 31 + n.addr % 2 ^ 12 * 2 ^ 16 + n.cls * 2 ^ 13 + n.inverted.toNat * 2 ^ 12 + meanOf n.lqs % 32),
        wd ((d.now - n.heard) / 16384000), wd ((n.tx.map ToneMap.tmid).getD 0)]

/-- TMREQ. -/
def Dev.toneRequest (d : Dev) (c : HeldCmd) : Dev :=
  d.macCmd c fun d =>
    let a := fld (c.arg 1) 11 0
    if (d.plc.nbr a).isNone then d.answer c 4 [wd 4] else (d.mgmtMessage a none).answer c 0 []

/-- RXDONE. -/
def Dev.rxDone (d : Dev) (c : HeldCmd) : Dev :=
  d.plcCmd c fun d =>
    let o := fld (c.arg 1) 14 0
    if d.plc.rxMsgs.any fun (e : Nat × Nat) => e.1 == o then
      (d.modPlc fun p => { p with rxMsgs := p.rxMsgs.filter fun (e : Nat × Nat) => e.1 != o }).answer c 0 []
    else d.answer c 4 [wd 6]

/-- MACINFO, which needs no power. -/
def Dev.macInfo (d : Dev) (c : HeldCmd) : Dev :=
  if !d.fuses.plc then d.answer c 7 []
  else if !d.reachAt c.sender c.priv 0x12 then d.answer c 6 []
  else d.answer c 0 [if d.on 6 then d.plcStatus else 0, wd d.plc.nbrs.length, wd d.plc.rxMsgs.length]

/-! ## The extension at 0x12_2000 (PLC_PAGE) -/

/-- The codes of eight carriers from place 8w as a word. -/
def codesWord (codes : List Nat) (w : Nat) : Nat :=
  (List.range 8).foldl (fun (a i : Nat) => a + Nat.min 15 (codes.getD (8 * w + i) 0) * 16 ^ i) 0

def repCode (r : Nat) : Nat := if 4 ≤ r then 2 else if 2 ≤ r then 1 else 0

/-- The word at an offset within one map of a neighbour. -/
def Plc.mapWord (p : Plc) (a : Nat) (m : Option ToneMap) (o : Nat) : Nat :=
  match m with
  | none => 0
  | some m =>
    if o = 0x240 then 2 ^ 31 + a % 2 ^ 12 * 2 ^ 16 + m.tmid
    else if 0x240 < o then 0
    else
      let s := m.swaths.getD (o / 0x60) { rep := 1, codes := [] }
      let w := o % 0x60 / 4
      let words := (p.band.count + 7) / 8
      if w = 0 then repCode s.rep else if w ≤ words then codesWord s.codes (w - 1) else 0

/-- A 32-bit read of the extension; the cause where it is an error. -/
def Dev.plcExtRead (d : Dev) (area sel o : Nat) : Except Nat Word :=
  let ram := fun (m : SMap Byte) => wd (leNat ((List.range 4).map fun i => SMap.get 0 m (8192 * sel + o + i)))
  match area with
  | 0 => if 1 < sel then .error 3 else .ok (ram d.plc.txRam)
  | 1 => if 1 < sel then .error 3 else .ok (ram d.plc.rxRam)
  | 2 =>
    match d.plc.nbrs.find? fun (e : Fin 32 × Nbr) => e.1.val == sel with
    | none => .ok 0
    | some (_, n) =>
      .ok (wd (if o < 0x400 then d.plc.mapWord n.addr n.tx o else if o < 0x800 then d.plc.mapWord n.addr n.rxCur (o - 0x400)
        else if o < 0xC00 then d.plc.mapWord n.addr n.rxPrev (o - 0x800) else 0))
  | _ => .error 3

/-- A map with the word at an offset written: REP of a swath, or eight carriers' codes. -/
def Plc.mapPut (p : Plc) (m : ToneMap) (o : Nat) (w : Word) : ToneMap :=
  let k := o % 0x60 / 4
  { m with swaths := m.swaths.mapIdx fun i (s : SwathMap) =>
      if i ≠ o / 0x60 then s
      else if k = 0 then { s with rep := 2 ^ Nat.min 2 (fld w 1 0) }
      else { s with codes := (List.range p.band.count).map fun j =>
        if j / 8 = k - 1 then fld w (4 * (j % 8) + 3) (4 * (j % 8)) else s.codes.getD j 0 } }

/-- A write of one map of a neighbour: its header with VALID and TMID, or one of its words. -/
def Plc.mapWrite (p : Plc) (m : Option ToneMap) (o : Nat) (w : Word) : Option ToneMap :=
  let base := m.getD { tmid := 0, swaths := List.replicate 6 { rep := 1, codes := List.replicate p.band.count 0 } }
  if o = 0x240 then (if bit w 31 then some { base with tmid := fld w 7 0 } else none)
  else if 0x240 < o then m else some (p.mapPut base o w)

/-- A 32-bit write of the extension by a master. -/
def Dev.plcExtWrite (d : Dev) (m area sel o : Nat) (w : Word) : Except Nat Dev :=
  let bytes := leBytes 4 w.toNat
  match area with
  | 0 => if 1 < sel then .error 3 else .ok (d.modPlc fun p => { p with txRam := putRam p.txRam (8192 * sel + o) bytes })
  | 1 => if 1 < sel then .error 3 else if m ≠ 2 then .error 7
         else .ok (d.modPlc fun p => { p with rxRam := putRam p.rxRam (8192 * sel + o) bytes })
  | 2 =>
    if m ≠ 2 then .error 7
    else .ok (d.modPlc fun p => { p with nbrs := p.nbrs.map fun (e : Fin 32 × Nbr) =>
      if e.1.val ≠ sel then e
      else
        let n := if o % 0x400 = 0x240 then { e.2 with addr := fld w 27 16 } else e.2
        (e.1, if o < 0x400 then { n with tx := p.mapWrite n.tx o w } else if o < 0x800 then { n with rxCur := p.mapWrite n.rxCur (o - 0x400) w }
          else if o < 0xC00 then { n with rxPrev := p.mapWrite n.rxPrev (o - 0x800) w } else e.2) })
  | _ => .error 3

end Sys2Proof.Machine
end

