-- ==== Sys2Proof/Machine/Power.lean ====
section
/-! DEFINITION. Power domains and power commands, the reset sources and the sequence after a reset, CK2 XTM and the interrupt
sources (R467-R489). -/
namespace Sys2Proof.Machine

/-! ## A domain loses and takes up its state (R26, R128, R209, R292, R467-R474) -/

/-- Every register of an address range, its per-master instances, staged values and shadows back to reset (R17, R369, R377). -/
def Dev.clearBlocks (d : Dev) (lo hi : Nat) : Dev :=
  let d := (d.resetRange lo hi).dropStaged lo hi
  { d with
    inst := d.inst.filter fun (e : Nat × Word) => !(decide (lo ≤ e.1 % 0x1000000) && decide (e.1 % 0x1000000 < hi))
    shadow := d.shadow.filter fun (e : Nat × Nat × List Word) => !(decide (lo ≤ e.2.1) && decide (e.2.1 < hi)) }

/-- The channels of a bank domain that are present (R34). -/
def Dev.bankChans (d : Dev) (n : Nat) : List Nat := (List.range 18).filter fun k => d.fuses.chan k && bankDom k == n

/-- A bank domain loses its state (R26). -/
def Dev.bankDown (d : Dev) (n : Nat) : Dev :=
  (d.bankChans n).foldl (fun (d : Dev) (k : Nat) =>
    ((d.downChan k).clearBlocks (A.cnvCHkCfg k) (A.cnvCHkCfg k + 0x80)).clearBlocks (A.fltCHkCfg k) (A.fltCHkCfg k + 0x80)) d

/-- A bank domain takes up its state (R69, R128, R628). -/
def Dev.bankUp (d : Dev) (n : Nat) : Dev := ((d.bankChans n).foldl (fun (d : Dev) (k : Nat) => d.powerChan k) d).linkOff

/-- PD5 ESC loses its state (R292, R318, R561). -/
def Dev.escDown (d : Dev) : Dev :=
  let d := (d.clearBlocks 0x070000 0x080000).clearBlocks 0x0C0000 0x0F0000
  let d := d.unbind fun b => match b with | .admitting _ | .stop _ | .srcEngine _ | .blkSync => true | _ => false
  { d with
    engines := Vector.replicate 5 Engine.zero, er := EngineRelief.zero, roles := #v[0, 1, 2, 3]
    outs := Vector.replicate 4 PulseOut.zero, groups := Vector.replicate 4 Group.zero, harm := Vector.replicate 4 Harm.zero
    evt := Evt.zero, frameSeq := 0, blkCount := 0, blkMark := false, swpMark := [], escCycN := 0
    framesCyc := 0, framesPrev := 0, halves := [], freeze := d.freeze.map fun _ => 0
    rtc := { d.rtc with evfPend := false }, chn := { d.chn with backlog := Vector.replicate 4 0 } }

/-- PD5 ESC takes up its state (R209, R299, R392): engines IDLE, epochs of the engines advanced. -/
def Dev.escUp (d : Dev) : Dev :=
  let d := ((List.range 5).filter d.fuses.engine).foldl (fun (d : Dev) (k : Nat) => (d.setSt k .idle).epochUp (3 + k)) d
  if d.fuses.build == .s then
    (List.range d.fuses.groups).foldl (fun (d : Dev) (g : Nat) =>
      let w := setFld (d.reg (A.hrmGgCfg g)) 1 0 3
      (d.setReg (A.hrmGgCfg g) w).setActive (A.hrmGgCfg g) w) d
  else d

/-- PD6 PLC loses its state (R525). -/
def Dev.plcDown (d : Dev) : Dev := { d.clearBlocks 0x120000 0x130000 with plc := Plc.zero, txen := false }

/-- PD7 PNL loses its state; the image kept and NOTEMP belong to PD1 SUP (R531, R538). -/
def Dev.pnlDown (d : Dev) : Dev :=
  { d.clearBlocks 0x130000 0x140000 with pnl := { Pnl.zero with image := d.pnl.image, shown := d.pnl.shown && d.pnl.run.isNone, tempOk := d.pnl.tempOk } }

/-- A domain's state goes. -/
def Dev.domDown (d : Dev) (n : Nat) : Dev :=
  match n with
  | 2 | 3 | 4 => d.bankDown n
  | 5 => d.escDown
  | 6 => d.plcDown
  | 7 => d.pnlDown
  | _ => d

/-- A domain starts. -/
def Dev.domUp (d : Dev) (n : Nat) : Dev :=
  match n with
  | 2 | 3 | 4 => d.bankUp n
  | 5 => d.escUp
  | _ => d

/-- A domain powers up or down; full mailboxes of a receiver that goes off are held (R400). -/
def Dev.domSwitch (d : Dev) (n : Nat) (on : Bool) : Dev :=
  let d := d.restartScan
  if on then (d.putBit A.pwrDom n true).domUp n
  else
    let d := if n = 5 then d.mbStale fun rx => (d.rxEngine rx).isSome else d
    (d.domDown n).putBit A.pwrDom n false

/-! ## Power commands (R470-R473) -/

/-- PWR_DOM as it reads. -/
def Dev.pwrDomWord (d : Dev) : Word :=
  setFld (d.reg A.pwrDom) 15 8 ((List.range 8).foldl (fun (a n : Nat) => if d.fuses.dom n then a + 2 ^ n else a) 0)

/-- Whether a relief unit in use stands against powering a set of domains down (R155, R471). -/
def Dev.reliefHolds (d : Dev) (dom : Nat) : Bool :=
  [0, 1].any fun u => d.rlState u != 0 && (dom.testBit 2 || (d.rlJob u && dom.testBit (bankDom (d.rlTarget u))))

/-- The causes that stand against powering a set of domains down, and against resetting them (R471, R481). -/
def Dev.offRefuses (d : Dev) (dom : Nat) : Option Nat :=
  if d.reliefHolds dom then some 5
  else if (dom.testBit 6 && (d.rb A.plcStat 10 || d.classHeld 3)) || (dom.testBit 7 && d.classHeld 4) then some 6
  else none

/-- ABSENT and FIXED (R471). -/
def Dev.domRefuses (d : Dev) (dom : Nat) : Option Nat :=
  if (List.range 8).any fun n => dom.testBit n && !d.fuses.dom n then some 1
  else if dom.testBit 0 || dom.testBit 1 then some 2
  else none

/-- The cause that refuses a command, the first in the order of R471. OP 1 ON, 2 OFF, 3 VCORE. -/
def Dev.pwrRefuses (d : Dev) (op vcode dom : Nat) : Option Nat :=
  let busy := if d.pwr.isSome then some 3 else none
  match op with
  | 1 => ((d.domRefuses dom).or busy).or (if !d.xtmOk && (List.range 7).any fun n => 2 ≤ n && dom.testBit n then some 4 else none)
  | 2 => ((d.domRefuses dom).or busy).or (d.offRefuses dom)
  | _ => busy.or (if vcode < d.rf A.pwrVcore 4 0 && !d.allFit d.framePreset (boundB vcode) then some 7 else none)

/-- A command has been carried out (R472). -/
def Dev.pwrFinish (d : Dev) : Dev := (({ d with pwr := none } : Dev).putBit A.pwrStat 8 false).raiseSq A.pwrStat 0x1

/-- The steps of a command: the named domains that are not yet in the state asked for, ON ascending, OFF descending (R472). -/
def Dev.pwrSteps (d : Dev) (on : Bool) (dom : Nat) : List (Fin 8 × Bool) :=
  let l := ([2, 3, 4, 5, 6, 7] : List (Fin 8)).filter fun n => dom.testBit n.val && d.on n.val != on
  (if on then l else l.reverse).map fun n => (n, on)

/-- A power command: the cause that refuses it, or acceptance in full (R471-R473). -/
def Dev.pwrTry (d : Dev) (op vcode dom : Nat) : Option Nat × Dev :=
  match d.pwrRefuses op vcode dom with
  | some c => (some c, (d.putFld A.pwrStat 19 16 c).raiseSq A.pwrStat 0x2)
  | none =>
    let d := d.putBit A.pwrStat 8 true
    if op = 3 then
      let old := d.rf A.pwrVcore 4 0
      if vcode = old then (none, d.pwrFinish)
      else
        let d := (d.putFld A.pwrVcore 4 0 vcode).putBit A.pwrVcore 8 false
        (none, { d with pwr := some { steps := [], vcore := some (BitVec.ofNat 5 vcode) }, vBound := if vcode < old then vcode else d.vBound })
    else
      let steps := d.pwrSteps (op == 1) dom
      (none, if steps.isEmpty then d.pwrFinish else { d with pwr := some { steps := steps, vcore := none } })

/-- The power commands of a PROFRUN follow one another (R475): VCORE, ON, OFF, then the reply. -/
def Dev.profGo : Nat → Dev → Dev
  | 0, d => d
  | fuel + 1, d => match d.sup.profStep with
    | none => d
    | some (st, cmd, dom) =>
      if d.pwr.isSome then d
      else if 3 ≤ st then (d.modSup fun s => { s with profStep := none }).answer cmd 0 [d.pwrDomWord]
      else
        let others := (List.range 8).foldl (fun (a n : Nat) => if 2 ≤ n && d.fuses.dom n && !dom.testBit n then a + 2 ^ n else a) 0
        match d.pwrTry st 0 (if st = 1 then dom else others) with
        | (some c, d) => (d.modSup fun s => { s with profStep := none }).answer cmd 4 [wd c]
        | (none, d) => Dev.profGo fuel (d.modSup fun s => { s with profStep := some (st + 1, cmd, dom) })

/-- PWR_CMD with GO (R470). -/
def Dev.pwrCommand (d : Dev) (w : Word) : Dev := (d.pwrTry (fld w 30 28) (fld w 20 16) (fld w 7 0)).2

/-- The next domain of a command has switched (R472). -/
def Dev.powerStep (d : Dev) : Dev :=
  match d.pwr with
  | some { steps := (n, on) :: rest, vcore := v } =>
    let d := ({ d with pwr := some { steps := rest, vcore := v } } : Dev).domSwitch n.val on
    if rest.isEmpty then Dev.profGo 4 d.pwrFinish else d
  | _ => d

/-- The core supply has settled (R473). -/
def Dev.vcoreSettled (d : Dev) : Dev :=
  match d.pwr with
  | some { steps := [], vcore := some v } =>
    Dev.profGo 4 ((({ d with vBound := v.toNat } : Dev).putBit A.pwrVcore 8 true).pwrFinish)
  | _ => d

/-! ## CLASS 5 commands (R475) -/

/-- Whether a command's sender may make a PWR_CMD (R404). -/
def Dev.pwrMay (d : Dev) (c : HeldCmd) : Bool := d.reachAt c.sender c.priv 0 && d.privAt c.sender c.priv 0

/-- PROFSAVE. -/
def Chip.profSave (c : Chip) (h : HeldCmd) : Chip :=
  let d := c.dev
  let n := fld (h.arg 1) 3 0
  let v := fld (h.arg 3) 4 0
  if !d.pwrMay h then c.onDev (·.answer h 6 [])
  else if 3 < n || 30 < v then c.onDev (·.answer h 2 [])
  else if d.sealed then c.onDev (·.answer h 5 [])
  else
    let p := (BitVec.ofNat 8 (fld (h.arg 2) 7 2 * 4), BitVec.ofNat 5 v)
    (c.sysStore .profiles [] fun x => { x with profiles := SMap.insert n p x.profiles }).onDev (·.answer h 0 [])

/-- PROFRUN. -/
def Chip.profRun (c : Chip) (h : HeldCmd) : Chip :=
  c.onDev fun d =>
    if !d.pwrMay h then d.answer h 6 []
    else if 3 < fld (h.arg 1) 3 0 then d.answer h 2 []
    else match SMap.find c.nvm.profiles (fld (h.arg 1) 3 0) with
      | none => d.answer h 4 [0]
      | some (dom, v) => match d.pwrTry 3 v.toNat 0 with
        | (some cause, d) => d.answer h 4 [wd cause]
        | (none, d) =>
          let (h, d) := d.startCmd h
          Dev.profGo 4 (d.modSup fun s => { s with profStep := some (1, h, dom.toNat) })

/-- PWRINFO. -/
def Dev.pwrInfo (d : Dev) (h : HeldCmd) : Dev :=
  if !d.reachAt h.sender h.priv 0 then d.answer h 6 [] else d.answer h 0 [d.pwrDomWord, d.reg A.pwrVcore, d.reg A.sysRstcause]

/-! ## CK2 XTM (R484) -/

/-- XTM has failed: MOD, CYC, PLS and PLA stop, CF outputs go inactive, CYC is no longer locked. What a record of that loss
carries is not stated (log entry 7). -/
def Dev.xtmFail (d : Dev) : Dev :=
  if d.held then d
  else
    let d := ((d.putBit A.clkStat 8 false).raiseSq A.clkStat 0x1).plcXtmFail
    let d := if d.locked then (let (v, d) := d.free; d.fllLose (wd (v % 2 ^ 19))) else d
    let d := (List.range d.fuses.cfs).foldl (fun (d : Dev) (n : Nat) =>
      if (d.out n).active then (d.modOut n fun o => { o with active := false, idle := 0 }).putBit (A.bimCFnStat n) 4 false else d) d
    { d with modOn := false }

/-- XTM is verified: the clocks restart, every channel as after a bank power-up, CYC running free (R43, R128, R484, R548), its first
tick 0 at the time the model stands at, which counts periods of XTM (log entry 39); a GO held while MOD stood still is released
(R125). -/
def Dev.xtmOkSet (d : Dev) : Dev :=
  if d.held || d.xtmOk then d
  else
    let d := d.putBit A.clkStat 8 true
    let d := ((List.range 18).filter d.chanOn).foldl (fun (d : Dev) (k : Nat) => d.restartChan k) d
    let fll := { Fll.zero with tick0 := d.now, due := d.now + nominalLen d.nom60, cycLen := d.fll.cycLen, period := nominalLen d.nom60 }
    let d := { d with modOn := d.isMaster || (d.chn.lnkOk && d.chn.synced), fll := fll, cycHigh := true, cutoffPassed := false }
    (if d.modOn then d.goReleased else d).linkOff

/-! ## Resets (R476-R481) -/

/-- What a reset of PD1 SUP leaves of the device: time, fuses, PD0 AON, the cause record and the supply comparators (R478). Which
TCF holds until the first cycle boundary is not stated: that of the temperature in force, at once, is the model's choice (R94,
log entry 50). -/
def Dev.afterReset (d : Dev) : Dev :=
  let sup := setFld (resetVal A.sysSupstat) 10 9 (d.rf A.sysSupstat 10 9)
  let cause := d.reg A.sysRstcause
  let d' : Dev := { Dev.reset with
    now := d.now, fuses := d.fuses, inReset := d.inReset, resetPin := d.resetPin, freeCtr := d.freeCtr
    rtc := { d.rtc with shadows := [], evfPend := false }, tcfTemp := d.rtc.tempInForce
    regs := d.regs.filter fun (e : Nat × Word) => decide (0x110000 ≤ e.1) && decide (e.1 < 0x120000) }
  (d'.setReg A.sysRstcause cause).setReg A.sysSupstat sup

/-- The reset of PD1 SUP is asserted, and PD2-PD7 go off (R419, R468, R577). -/
def Chip.assertReset (c : Chip) : Chip := (c.cut.sessionsAtReset.onNvm (·.abandon c.dev.now)).onDev Dev.afterReset

/-- The supervisor moves SWPEND into RC2, one at a time (R464). -/
def Chip.moveSwpend : Nat → Chip → Chip
  | 0, c => c
  | k + 1, c =>
    if c.dev.rf A.rtcSwpend 7 0 = 0 then c
    else Chip.moveSwpend k ((c.onDev fun d => d.putFld A.rtcSwpend 7 0 (d.rf A.rtcSwpend 7 0 - 1)).increment 2)

/-- The sequence after a reset, once nothing holds it (R479): straps, ferroelectric store, protection map, seal and SWPEND.
CLK_STAT.XTMOK sets later (XTMOK_SET). -/
def Chip.release (c : Chip) : Chip :=
  if c.dev.held then c
  else
    let c := c.onDev fun d => { d with fuses := { d.fuses with id := d.fuses.idPin, hsel := d.fuses.hselPin && d.fuses.build != .s } }
    let c := c.nvmPowerUp.secPowerUp
    c.moveSwpend (c.dev.rf A.rtcSwpend 7 0)

/-- A reset source acts and is recorded (R478). -/
def Chip.resetBy (c : Chip) (bits : Nat) : Chip := (c.assertReset.onDev fun d => d.raiseSq A.sysRstcause bits).release

/-- The power-on reset: PD1 SUP was unpowered, so its cause register stands at its reset value (R478). -/
def Chip.powerOn (c : Chip) : Chip :=
  let c := c.assertReset
  (c.onDev fun d => { (d.setReg A.sysRstcause (resetVal A.sysRstcause)) with inReset := false }).release

/-- Brown-out asserted and released (R476). -/
def Chip.brownOut (c : Chip) : Chip := (c.onDev fun d => { d with inReset := true }).resetBy 0x2
def Chip.brownOutRelease (c : Chip) : Chip :=
  if c.dev.inReset then (c.onDev fun d => { d with inReset := false }).release else c

/-- RESETN low, and its rising edge (R478, R479). -/
def Chip.resetnLow (c : Chip) : Chip := (c.onDev fun d => { d with resetPin := true }).resetBy 0x4
def Chip.resetnHigh (c : Chip) : Chip :=
  if c.dev.resetPin then (c.onDev fun d => { d with resetPin := false }).release else c

/-- SYS_RSTCMD.FULL. -/
def Chip.fullReset (c : Chip) : Chip := c.resetBy 0x8

/-- SYS_RSTCMD.DOM (R481): the named domains that are on lose their state and start again; a reset is no power-down (R399). -/
def Dev.domainReset (d : Dev) (dom : Nat) : Dev :=
  match (d.domRefuses dom).or (d.offRefuses dom) with
  | some c => (d.putFld A.pwrStat 19 16 c).raiseSq A.pwrStat 0x2
  | none =>
    let on := (List.range 8).filter fun n => dom.testBit n && d.on n
    (on.foldl (fun (d : Dev) (n : Nat) => (d.domDown n).domUp n) d).raiseSq A.sysRstcause 0x20

/-- A write of SYS_RSTCMD; a full reset takes in the domains named with it. -/
def Chip.resetCommand (c : Chip) (w : Word) : Chip :=
  if bit w 31 then c.fullReset
  else if fld w 7 2 = 0 then c
  else c.onDev (·.domainReset (fld w 7 2 * 4))

/-- A master is reset: its locks and its shadows are free, a held table half is discarded (R205, R369, R379). -/
def Dev.masterReset (d : Dev) (m : Nat) : Dev :=
  { d with locks := d.locks.filter fun (e : Nat × Nat) => e.2 != m, shadow := SMap.erase m d.shadow,
           halves := SMap.erase m d.halves, rtc := { d.rtc with shadows := SMap.erase m d.rtc.shadows } }

/-- The supervisor's watchdog resets its core (R480): what it holds is lost, and it posts the RESTART notice. -/
def Dev.watchdog (d : Dev) : Dev :=
  if d.held then d
  else
    let d := { d.plcWatchdog.pnlWatchdog with sup := Sup.zero }
    let d := ((d.masterReset 2).epochUp 2).count A.sysWdtcnt 31 0 1
    (d.raiseSq A.sysRstcause 0x10).notice 1 0x80 [wd (d.epoch 2)]

/-- VDD and AVDD against 3.00 V (R477). -/
def Dev.lowSupply (d : Dev) (vdd avdd : Bool) : Dev :=
  let fell := (vdd && !d.rb A.sysSupstat 9) || (avdd && !d.rb A.sysSupstat 10)
  ((d.putBit A.sysSupstat 9 vdd).putBit A.sysSupstat 10 avdd).raiseIf fell A.sysSupstat 0x1

/-! ## Interrupts (R485, R486) -/

/-- Whether any of the given bits of a register is set. -/
def Dev.anyOf (d : Dev) (a bits : Nat) : Bool := (d.reg a &&& wd bits) != 0#32

/-- Whether source s is pending; a block that is absent or off is not (R485). -/
def Dev.irqSource (d : Dev) (s : Nat) : Bool :=
  let chans := (List.range 18).filter d.chanOn
  match s with
  | 0 => (d.hostFull &&& d.reg A.mbxHostie) != 0#32
  | 1 => d.anyOf A.rtcStat 0x6
  | 2 => d.anyOf A.rtcStat 0x20
  | 3 => d.anyOf A.rtcStat 0xC0
  | 4 => d.anyOf A.regCfgstat 0x2
  | 5 => d.on 5 && (((List.range 5).filter d.fuses.engine).any (fun k => d.anyOf (A.escEkStat k) 0xD8) || d.anyOf A.escRlfStat 0x12)
  | 6 => d.on 5 && (List.range d.fuses.groups).any fun g => d.anyOf (A.bimGgStat g) 0x3
  | 7 => d.on 5 && d.anyOf A.evtStat 0x5
  | 8 => d.on 5 && (List.range d.fuses.groups).any fun g => d.anyOf (A.hrmGgStat g) 0x2
  | 9 => chans.any (fun k => d.anyOf (A.cnvCHkStat k) 0x48) || [0, 1].any (fun u => d.anyOf (A.cnvRLxStat u) 0xF)
      || d.anyOf A.cnvCalstat 0x7 || d.anyOf A.cnvRefstat 0x1 || d.anyOf A.cnvPtrlStat 0x3
  | 10 => d.anyOf A.fltStat 0x1
  | 11 => d.anyOf A.auxStat 0x11
  | 12 => d.anyOf A.nvmStat 0x6A || d.anyOf A.nvmRcstat 0x4
  | 13 => d.anyOf A.pwrStat 0x3
  | 14 => d.anyOf A.clkCycstat 0x3 || d.anyOf A.clkStat 0x1
  | 15 => d.anyOf A.sysSupstat 0x1 || d.anyOf A.sysRstcause 0x10
  | 16 => d.on 6 && d.anyOf A.plcStat 0x7
  | 17 => d.on 7 && d.anyOf A.pnlStat 0x1F
  | 18 => d.anyOf A.chnStat 0x1A || d.chn.dupId
  | _ => false

/-- SYS_IRQPEND. -/
def Dev.irqPend (d : Dev) : Word := wd ((List.range 19).foldl (fun (a s : Nat) => if d.irqSource s then a + 2 ^ s else a) 0)

/-- The route of a source: bit 0 IRQA, bit 1 IRQB (R486). -/
def Dev.irqRoute (d : Dev) (s : Nat) : Nat :=
  if s < 16 then d.rf A.sysIrqroute0 (2 * s + 1) (2 * s) else d.rf A.sysIrqroute1 (2 * (s - 16) + 1) (2 * (s - 16))

/-- Whether IRQA (0) or IRQB (1) is asserted (R486). -/
def Dev.irqPin (d : Dev) (pin : Nat) : Bool := !d.held && (List.range 19).any fun s => d.irqSource s && (d.irqRoute s).testBit pin

/-- What drives IRQA (0) or IRQB (1): low while it is asserted; else high where it is push-pull, and nothing where it is open-drain. In reset both
are high-impedance (R486, R487). -/
def Dev.irqLevel (d : Dev) (pin : Nat) : Option Bool :=
  if d.held then none
  else if d.irqPin pin then some false
  else if d.rb A.sysIrqcfg pin then some true else none

/-- The line of several IRQ pins wired together with a pull-up: low while one of them drives it low (R487). -/
def irqLine (l : List (Option Bool)) : Bool := !l.contains (some false)

end Sys2Proof.Machine
end

