-- ==== Sys2Proof/Machine/View.lean ====
section
/-! DEFINITION. What a register reads as: the stored value with the parts that show the state (R8, R340, R348), and which
windows a variant has and which domain they are in (R9, R33, R34). -/
namespace Sys2Proof.Machine

/-! ## Presence masks (R2, R8) -/

/-- A mask of the first n bits that meet a condition. -/
def maskOf (n : Nat) (p : Nat → Bool) : Nat := (List.range n).foldl (fun (a k : Nat) => if p k then a + 2 ^ k else a) 0

/-- PRESENT of the groups. -/
def Fuses.groupMask (f : Fuses) : Nat := 2 ^ f.groups - 1

/-! ## Computed parts, by block -/

def Dev.sysView (d : Dev) (o : Nat) (w : Word) : Word :=
  match o with
  | 0x00 => wd d.fuses.sysId
  | 0x04 => wd (d.fuses.buildCode * 2 ^ 4 + d.fuses.plc.toNat * 2 ^ 2 + d.fuses.gradeB.toNat)
  | 0x18 => d.pwrDomWord
  | 0x2C => setBit w 8 d.rtc.vddLow
  | 0x38 => d.irqPend
  | _ => w

/-- SEC: the map, the seal counter, the response words, which read 0; eight key slots (R571). -/
def Chip.secView (c : Chip) (o : Nat) (w : Word) : Word :=
  if o = 0x00 then wd (8 * 2 ^ 8 + c.dev.fuses.levels.toNat)
  else if 0x40 ≤ o && o < 0x60 then 0
  else if 0x80 ≤ o && o < 0x98 then c.dev.pmap ((o - 0x80) / 4)
  else if o = 0xA8 then wd (c.nvm.rc 0 % 2 ^ 32)
  else if o = 0xAC then wd (c.nvm.rc 0 / 2 ^ 32)
  else w

def Dev.regView (d : Dev) (m o : Nat) (w : Word) : Word :=
  match o with
  | 0x00 => setFld w 3 0 d.fuses.fabver.toNat
  | 0x0C => setFld w 23 16 d.stagedBits
  | 0x18 => wd m
  | _ => w

def Dev.cnvView (d : Dev) (o : Nat) (w : Word) : Word :=
  if o = 0 then wd ((if d.fuses.dom 4 then 0x700000 else 0x300000) + maskOf 18 d.fuses.chan)
  else if o < 0x100 then w
  else
    let c := d.chan ((o - 0x100) / 0x80)
    match (o - 0x100) % 0x80 with
    | 0x08 => c.sliceWord
    | 0x0C => wd (toField 24 c.s0.ofs)
    | 0x10 => wd (toField 24 c.s1.ofs)
    | 0x14 => wd (toField 24 c.s2.ofs)
    | 0x18 => wd (toField 24 c.s0.grat)
    | 0x1C => wd (toField 24 c.s1.grat)
    | 0x20 => wd (toField 24 c.s2.grat)
    | _ => w

def Dev.fltView (d : Dev) (o : Nat) (w : Word) : Word :=
  if o = 0 then wd d.fuses.romver.toNat else if o = 4 then setBit w 0 (d.cmPend.contains A.fltSync) else w

def Dev.auxView (d : Dev) (o : Nat) (w : Word) : Word :=
  if o = 0 then wd (maskOf 10 d.fuses.auxIn) else if o = 0x2C then setFld w 10 8 (d.auxStatBits / 2 ^ 8) else w

/-- ESC_GRPMAP; the fields of absent groups read 0 (R8). -/
def Dev.grpMap (d : Dev) : Word :=
  wd ((List.range d.fuses.groups).foldl (fun (a g : Nat) => a + (d.holder g).val * 16 ^ g) 0)

def Dev.escView (d : Dev) (o : Nat) (w : Word) : Word :=
  if o = 0x00 then wd (d.fuses.groupMask * 2 ^ 8 + maskOf 5 d.fuses.engine)
  else if o = 0x04 then wd (d.vBound * 2 ^ 16 + d.boundNow)
  else if o = 0x08 then d.grpMap
  else if o < 0x100 then w
  else
    let e := d.eng ((o - 0x100) / 0x80)
    match (o - 0x100) % 0x80 with
    | 0x1C => wd e.hdone
    | 0x24 => setFld w 31 16 d.fuses.paceRef.toNat
    | 0x38 => wd (e.tqueue.length * 2 ^ 16 + e.fifo.length)
    | _ => w

/-- BIM_Gg_SRC: PEND and HOLDER. -/
def Dev.srcView (d : Dev) (g : Nat) (w : Word) : Word :=
  setFld (setBit w 30 (d.returnBound (Fin.ofNat 4 g))) 29 27 (d.holder g).val

def Dev.bimView (d : Dev) (o : Nat) (w : Word) : Word :=
  if o = 0 then wd (d.fuses.groupMask * 2 ^ 4 + 2 ^ d.fuses.cfs - 1)
  else if o < 0x100 then w
  else if o < 0x600 then
    let g := (o - 0x100) / 0x100
    let q := (o - 0x100) % 0x100
    if q = 0x48 then d.srcView g w
    else if 0x80 ≤ q then accWord ((d.group g).acc ((q - 0x80) / 16)) ((q - 0x80) % 16 / 4)
    else w
  else
    let n := (o - 0x600) / 0x40
    match (o - 0x600) % 0x40 with
    | 0x08 => setBit w 3 (d.cfHold n)
    | 0x18 => d.cfPend n
    | _ => w

def Dev.evtView (d : Dev) (o : Nat) (w : Word) : Word :=
  match o with
  | 0x80 => wd (d.evt.fifo.length * 2 ^ 16 + d.evt.nextSeq.toNat)
  | 0x88 => (d.evt.fifo.head?.map (·.w0)).getD 0
  | 0x8C => (d.evt.fifo.head?.map (·.w1)).getD 0
  | 0x90 => (d.evt.fifo.head?.map (·.w2)).getD 0
  | 0x94 => (d.evt.fifo.head?.map (·.w3)).getD 0
  | 0x9C => setBit w 3 (!d.evt.fifo.isEmpty)
  | _ => w

/-- MBX: CTRL of each mailbox, and the full mailboxes of the host; CFG of mailboxes 0-2 is fixed (R387). -/
def Dev.mbxView (d : Dev) (o : Nat) (w : Word) : Word :=
  if o = 0x0C then d.hostFull
  else if 0x100 ≤ o && o < 0x300 && o % 16 = 4 then d.mbCtrl ((o - 0x100) / 16)
  else w

def Chip.nvmView (c : Chip) (o : Nat) (w : Word) : Word :=
  if o = 0x0C then setBit (setBit w 8 c.nvm.openPage.isSome) 9 c.nvm.scrubbing
  else if o = 0x40 then wd ((List.range 32).filter c.nvm.spareUsed).length
  else if 0x100 ≤ o && o < 0x180 then
    let v := c.nvm.rc ((o - 0x100) / 8)
    if o % 8 = 0 then wd (v % 2 ^ 32) else wd (v / 2 ^ 32)
  else if 0x180 ≤ o then wd (c.nvm.rcInfo ((o - 0x180) / 4))
  else w

/-- RTC: the calendar from the master's shadow while it is frozen (R447). -/
def Dev.rtcView (d : Dev) (m o : Nat) (w : Word) : Word :=
  match o with
  | 0x00 => setFld w 1 0 d.fuses.rtcver.toNat
  | 0x10 => d.calendarNow.1
  | 0x14 => (d.calendarFor m).2.1
  | 0x18 => (d.calendarFor m).2.2.1
  | 0x1C => (d.calendarFor m).2.2.2
  | _ => w

def Dev.pnlView (d : Dev) (o : Nat) (w : Word) : Word :=
  if o = 0 then wd (d.fuses.coms * 2 ^ 12 + d.fuses.segs)
  else if o = 0x58 then setBit w 0 (d.cmPend.contains A.pnlDialcmd)
  else w

def Dev.chnView (d : Dev) (o : Nat) (w : Word) : Word :=
  if o = 0 then wd (d.isMaster.toNat * 2 ^ 3 + d.fuses.id.toNat)
  else if o = 8 then setFld w 11 8 (d.chnStatBits / 2 ^ 8)
  else w

/-- The register at an address as master m reads it, from its stored value. -/
def Chip.computed (c : Chip) (m a : Nat) (w : Word) : Word :=
  let d := c.dev
  let o := a % 0x10000
  match a / 0x10000 with
  | 0x0 => d.sysView o w
  | 0x1 => c.secView o w
  | 0x2 => d.regView m o w
  | 0x4 => d.cnvView o w
  | 0x5 => d.fltView o w
  | 0x6 => d.auxView o w
  | 0x7 => d.escView o w
  | 0xC => d.bimView o w
  | 0xD => if o = 0 then wd d.fuses.groupMask else w
  | 0xE => d.evtView o w
  | 0xF => d.mbxView o w
  | 0x10 => c.nvmView o w
  | 0x11 => d.rtcView m o w
  | 0x12 => if o = 0x40 then d.plcStatus else w
  | 0x13 => d.pnlView o w
  | 0x14 => d.chnView o w
  | _ => w

/-- The value of a register for a master in the normal view, or with its BW fields at their active values (R339, R348). -/
def Chip.value (c : Chip) (r : RegRow) (m a : Nat) (act : Bool) : Word :=
  let d := c.dev
  let w := if r.perM then d.ireg m a
    else if act then (d.active a &&& wd r.bw) ||| (d.reg a &&& ~~~(wd r.bw))
    else d.reg a
  c.computed m a w

/-! ## Windows of absent resources, and domains (R9, R33, R34, R134) -/

/-- The engine a master's memory window shows (R206). -/
def Dev.windowEngine (d : Dev) (m a : Nat) : Nat :=
  if a / 0x10000 = 0xB then (if bit (d.ireg m A.escWinsel) 0 then 4 else 3) else a / 0x10000 - 8

/-- Whether the window that holds a register address belongs wholly to something the variant lacks. -/
def Dev.absentAt (d : Dev) (a : Nat) : Bool :=
  let f := d.fuses
  let o := a % 0x10000
  match a / 0x10000 with
  | 0x4 =>
    if 0x100 ≤ o && o < 0xA00 then !f.chan ((o - 0x100) / 0x80)
    else ((0x60 ≤ o && o < 0x80) || (0xA4 ≤ o && o < 0xB4)) && !f.chan 17
  | 0x5 => 0x100 ≤ o && o < 0xA00 && !f.chan ((o - 0x100) / 0x80)
  | 0x6 => (0x40 ≤ o && o < 0x68 && !f.auxIn ((o - 0x40) / 4)) || (0x80 ≤ o && o < 0xA0 && !f.auxIn ((o - 0x80) / 8))
  | 0x7 => (0x100 ≤ o && o < 0x380 && !f.engine ((o - 0x100) / 0x80)) || (0x800 ≤ o && o < 0x1000 && decide (f.groups ≤ (o - 0x800) / 0x200))
  | 0xC => (0x100 ≤ o && o < 0x500 && decide (f.groups ≤ (o - 0x100) / 0x100)) || (0x600 ≤ o && o < 0x700 && decide (f.cfs ≤ (o - 0x600) / 0x40))
  | 0xD => 0x100 ≤ o && o < 0x200 && decide (f.groups ≤ (o - 0x100) / 0x40)
  | 0x12 => !f.plc
  | 0x13 => !f.dom 7
  | _ => false

/-- The power domain of a register address. -/
def domOf (a : Nat) : Nat :=
  let o := a % 0x10000
  match a / 0x10000 with
  | 0x4 => if 0x100 ≤ o && o < 0xA00 then bankDom ((o - 0x100) / 0x80) else 1
  | 0x5 => if 0x100 ≤ o && o < 0xA00 then bankDom ((o - 0x100) / 0x80) else 1
  | 0x7 => 5
  | 0x8 => 5
  | 0x9 => 5
  | 0xA => 5
  | 0xB => 5
  | 0xC => 5
  | 0xD => 5
  | 0xE => 5
  | 0x11 => 0
  | 0x12 => 6
  | 0x13 => 7
  | _ => 1

/-- The bits of a register that the variant or the resource makes reserved (R10, R16). -/
def Dev.hidden (d : Dev) (a : Nat) : Nat :=
  let f := d.fuses
  let noChan := maskOf 16 fun k => !f.chan k
  let o := a % 0x10000
  if a = A.evtDcen then noChan
  else if a = A.cnvPtrlList then noChan + (if f.chan 17 then noChan else 0xFFFF) * 2 ^ 16
  else if a = A.pnlDialimg0 then (maskOf 32 fun j => decide (f.segs ≤ j))
  else if a = A.pnlDialimg1 then (maskOf 32 fun j => decide (f.segs ≤ 32 + j))
  else if a = A.sysIrqroute1 then (if f.plc then 0 else 3) + (if f.dom 7 then 0 else 0xC)
  else match a / 0x10000 with
    | 0x4 => if 0x100 ≤ o && (o - 0x100) % 0x80 = 0 then
        (let k := (o - 0x100) / 0x80; (if k < 4 then 7 else 0) + (if k < 16 then 0x200 else 0)) else 0
    | 0xC => if 0x100 ≤ o && o < 0x600 && 0x20 ≤ o % 0x100 && o % 0x100 < 0x40 && o % 8 = 4 then 0xFFFF0000 else 0
    | 0xD => if 0x100 ≤ o && (o - 0x100) % 0x40 = 0 then (match f.build with | .s => 0 | _ => 3) else 0
    | _ => 0

end Sys2Proof.Machine
end

