-- ==== Sys2Proof/Machine/Cfgsum.lean ====
section
/-! DEFINITION. The configuration checksum: what it covers, a completed scan and its comparison (R381-R384). -/
namespace Sys2Proof.Machine

/-- The buffered registers of a block: their addresses with their entries, in ascending address. -/
def bufferedOf (blk : Nat) : SMap RegRow :=
  ((blockRows blk).filter fun (r : RegRow) => r.typ == .bw).foldl (fun (m : SMap RegRow) (r : RegRow) =>
    (List.range r.count).foldl (fun (m : SMap RegRow) (i : Nat) => SMap.insert (blk * 0x10000 + r.off + i * r.stride) r m) m) []

/-- A covered register as it enters the sum: BW fields active, RW fields, all else 0. -/
def Dev.coveredWord (d : Dev) (a : Nat) (r : RegRow) : Word :=
  ((d.active a &&& wd r.bw) ||| (d.reg a &&& wd r.rw)) &&& ~~~(wd (d.hidden a))

/-- The covered registers: those present with their domain on. -/
def Dev.coveredRegs (d : Dev) : List Byte :=
  (List.range 0x15).flatMap fun blk => ((bufferedOf blk).filter fun (e : Nat × RegRow) => !d.absentAt e.1 && d.on (domOf e.1)).flatMap
    fun (e : Nat × RegRow) => leBytes 4 (d.coveredWord e.1 e.2).toNat

/-- An engine's program and constant region (R207). -/
def Dev.coveredEngine (d : Dev) (k : Nat) : List Byte :=
  ((List.range 4096).flatMap fun n => leBytes 4 (SMap.get 0 (d.eng k).prog n).toNat) ++
    (List.range (d.tsplit k)).flatMap fun n => leBytes 6 (SMap.get 0 (d.eng k).table n).toNat

/-- CFGSUM of the present contents (R381). -/
def Dev.cfgsum (d : Dev) : Word :=
  crc32c (d.coveredRegs ++ ((List.range 5).filter fun k => d.on 5 && d.fuses.engine k).flatMap d.coveredEngine)

/-- CAPTURE (R384): the scan in progress is passed over, unless it begins anew. Each command waits for a scan of its own. -/
def Dev.capture (d : Dev) : Dev := { d with cfgCapture := d.cfgCapture ++ [true] }

/-- The action of a mismatch (R383). -/
def Dev.cfgAction (d : Dev) : Dev :=
  match d.rf A.regCfgctl 1 0 with
  | 1 => if d.on 5 then (([0, 1, 2, 3] : List (Fin 4)).filter fun g => decide (g.val < d.fuses.groups)).foldl (fun (d : Dev) (g : Fin 4) => d.fallbackHdone g (d.holder g).val 3) d else d
  | 2 => if d.freeze.isNone then { d with freeze := some d.frameSeq } else d
  | _ => d

/-- A scan completes (R382): REG_CFGSUM, a CAPTURE, the comparison with REG_CFGREF; one event on REG_CFGSTAT. The next scan
begins at once. -/
def Dev.scanDone (d : Dev) : Dev :=
  let s := d.cfgsum
  let cap := d.cfgCapture.contains false
  let d := (d.setReg A.regCfgsum s).putBit A.regCfgstat 8 true
  let d := if cap then d.setReg A.regCfgref s else d
  let d := { d with cfgCapture := (d.cfgCapture.filter id).map fun _ => false }
  let en := d.rb A.regCfgctl 8
  let bad := en && s != d.reg A.regCfgref
  let d := if en then d.putBit A.regCfgstat 9 bad else d
  let d := d.raiseSq A.regCfgstat (1 + 2 * bad.toNat + 4 * cap.toNat)
  if bad then d.cfgAction else if en then { d with freeze := none } else d

end Sys2Proof.Machine
end

