-- ==== Sys2Proof/Machine/Effects.lean ====
section
/-! DEFINITION. What a write of a register brings with it once its fields are loaded, and the refusals of each register's own
entry (R52, R109, R204, R278, R320, R343, R386, R390, R402, R449, R455, R470, R527, R578, R580). -/
namespace Sys2Proof.Machine

/-! ## A master starts anew (R379, R392, R577) -/

/-- MBX_EPOCHCMD.NEW: the reset of a host master (R392): its session ends, its locks and shadows are free, its epoch
advances. -/
def Chip.epochNew (c : Chip) (m : Nat) : Chip := (c.endIfOpen m 2).onDev fun d => (d.masterReset m).epochUp m

/-! ## Refusals of a register's own entry -/

/-- CNV_RETCMD with GO names a channel that is absent or above 17. -/
def Dev.retBad (d : Dev) (w : Word) : Bool := bit w 8 && !d.fuses.chan (fld w 4 0)

/-- BIM_CFn: USH above 40, an absent group, MC 0 or above 1 000 000 (R278). -/
def Dev.cfBad (d : Dev) (q : Nat) (w : Word) : Bool :=
  match q with
  | 0 => decide (40 < fld w 21 16) || decide (d.fuses.groups ≤ fld w 7 6)
  | 4 => fld w 19 0 == 0 || decide (1000000 < fld w 19 0)
  | _ => false

/-- AUX: MODE 3, an input or a pin that is absent (R320, R324). -/
def Dev.auxBad (d : Dev) (o : Nat) (w : Word) : Bool :=
  if o = 0x04 then fld w 1 0 == 3
  else if (0x10 ≤ o && o < 0x1C) || o = 0x28 then !d.fuses.auxIn (fld w 27 24)
  else if o = 0xA0 then bit w 31 && !d.fuses.auxIn (fld w 25 24)
  else false

/-- Whether the value written is one the register's entry refuses with cause VALUE. -/
def Dev.valueBad (d : Dev) (a : Nat) (w : Word) : Bool :=
  let o := a % 0x10000
  match a / 0x10000 with
  | 0x0 => o == 0x10 && bit w 31 && (decide (30 < fld w 20 16) || fld w 30 28 == 0 || decide (3 < fld w 30 28))
  | 0x1 => (o == 0xA0 && fld w 1 0 == 3) || (0x80 ≤ o && o < 0x98 && d.fuses.pmapBad ((o - 0x80) / 4) w)
  | 0x2 => (o == 0x08 && (List.range 8).any fun n => fld w (2 * n + 1) (2 * n) == 3) || (o == 0x20 && fld w 1 0 == 3)
  | 0x4 => (o == 0x0C && d.retBad w) || (0x100 ≤ o && (o - 0x100) % 0x80 == 0 && decide (5 < fld w 2 0))
  | 0x5 => 0x100 ≤ o && (o - 0x100) % 0x80 == 0 && fld w 9 8 == 3
  | 0x6 => d.auxBad o w
  | 0xC => 0x600 ≤ o && d.cfBad ((o - 0x600) % 0x40) w
  | 0xF => 0x100 ≤ o && o < 0x300 && o % 16 == 4 && fld w 31 30 == 3
  | _ => false

/-- The cause of a mailbox register that refuses a write (R386, R390, R398). -/
def Dev.mbxRefuses (d : Dev) (o : Nat) (w : Word) : Option Nat :=
  if 0x100 ≤ o && o < 0x300 then
    let n := (o - 0x100) / 16
    match o % 16 with
    | 0 => if n < 3 then none else d.mbCfgRefuses n w
    | 4 => if bit w 31 then d.mbRefuses n else none
    | _ => none
  else if 0x400 ≤ o then d.mbRefuses ((o - 0x400) / 0x40)
  else none

/-- The cause that a register's own entry gives a write: `old` is the register before, `w` the value it would take, or for
a CM, CT or SQ register the word written. -/
def Dev.ownRefuses (d : Dev) (a : Nat) (old w : Word) : Option Nat :=
  let o := a % 0x10000
  if d.valueBad a w then some 8
  else match a / 0x10000 with
    | 0x7 =>
      if 0x100 ≤ o && ((o - 0x100) % 0x80 == 0x0C || (o - 0x100) % 0x80 == 0x10) && !(d.eng ((o - 0x100) / 0x80)).direct then some 11
      else none
    | 0xF => d.mbxRefuses o w
    | 0x11 => d.rtcRefuses a w
    | 0x12 => if (o == 0x04 || o == 0x08 || o == 0x0C || o == 0x10) && d.rb A.plcStat 10 then some 9 else none
    | 0x13 => if o == 0x04 && bit old 0 != bit w 0 && d.waveBusy then some 9 else none
    | _ => none

/-! ## Effects by block; `w` is the word a CM register was written with, or the value another now holds -/

def Chip.sysEffect (c : Chip) (o : Nat) (w : Word) : Chip :=
  match o with
  | 0x10 => if bit w 31 then c.onDev (·.pwrCommand w) else c
  | 0x24 => c.resetCommand w
  | _ => c

def Chip.secEffect (c : Chip) (m o : Nat) (w : Word) : Chip :=
  if o = 0x08 then (if bit w 31 then c.sessCommand m w else c)
  else if 0x80 ≤ o && o < 0x98 then c.pmapSet m ((o - 0x80) / 4) w
  else if o = 0xA0 then (if bit w 0 then c.sealCommand m true else if bit w 1 then c.sealCommand m false else c)
  else if o = 0xC0 then (if bit w 31 then c.keyCommand m (fld w 19 16) else c)
  else c

def Dev.regEffect (d : Dev) (o : Nat) (w : Word) : Dev :=
  match o with
  | 0x04 => if fld w 7 0 = 0 then d else d.regUpdate (fld w 7 0) d.now
  | 0x2C => if bit w 0 then d.capture else d
  | _ => d

def Dev.cnvEffect (d : Dev) (o : Nat) (w : Word) : Dev :=
  match o with
  | 0x0C => if bit w 8 then d.retcmd (bit w 7) (Fin.ofNat 18 (fld w 4 0)) (fld w 6 5) else d
  | 0x18 =>
    let d := if bit w 0 then d.compare else d
    if bit w 1 then d.bgSwapCmd else d
  | 0x40 => if bit w 31 then d.rlCommand 0 w else d
  | 0x60 => if bit w 31 then d.rlCommand 1 w else d
  | 0x88 =>
    let d := if bit w 0 then d.rebase 0 else d
    if bit w 1 then d.rebase 1 else d
  | 0xC0 => if bit w 31 then d.calCommand w else d
  | _ => if 0x100 ≤ o && (o - 0x100) % 0x80 = 0x38 && bit w 0 then d.measofs (Fin.ofNat 18 ((o - 0x100) / 0x80)) else d

def Dev.auxEffect (d : Dev) (o : Nat) (w : Word) : Dev :=
  match o with
  | 0x28 => if bit w 31 then d.auxUrgent 3 (fld w 27 24) d.now else d
  | 0xA0 => if bit w 31 then d.auxCalCommand w d.now else d
  | _ => d

def Dev.escEffect (d : Dev) (o : Nat) (w : Word) : Dev :=
  if o = 0x10 then (if bit w 31 then d.rlfCommand w else d)
  else if 0x100 ≤ o && (o - 0x100) % 0x80 = 0 then
    let k : Fin 5 := Fin.ofNat 5 ((o - 0x100) / 0x80)
    let d := if bit w 31 then d.engCommand k w else d
    let d := if bit w 1 then d.paceMaxReset k.val else d
    if bit w 0 then d.slackReset k.val else d
  else d

def Dev.bimEffect (d : Dev) (o : Nat) (w : Word) : Dev :=
  if 0x100 ≤ o && o < 0x600 && (o - 0x100) % 0x100 = 0x44 && bit w 31 then
    let g : Fin 4 := Fin.ofNat 4 ((o - 0x100) / 0x100)
    match fld w 30 29 with
    | 1 => d.srcBase g
    | 2 => d.srcEngine g
    | _ => d
  else d

def Dev.evtEffect (d : Dev) (o : Nat) (w : Word) : Dev :=
  if o = 0x98 then
    let d := if bit w 0 then d.evtPop else d
    if bit w 1 then d.evtFlush else d
  else d

def Chip.mbxEffect (c : Chip) (m o : Nat) (w : Word) : Chip :=
  if o = 0x10 then (if bit w 0 then c.epochNew m else c)
  else if 0x100 ≤ o && o < 0x300 && o % 16 = 4 then
    let n := (o - 0x100) / 16
    c.onDev fun d => if bit w 31 then d.mbGo m n else if bit w 30 then d.mbRelease m n (BitVec.ofNat 8 (fld w 23 16)) else d
  else if 0x400 ≤ o then c.onDev fun d => d.mbWrote m ((o - 0x400) / 0x40) ((o - 0x400) % 0x40 / 4)
  else c

/-- NVM_CMD and NVM_RCCMD; `errs` is how the page a REMAP reads is found. -/
def Chip.nvmEffect (c : Chip) (m o : Nat) (w : Word) (errs : CwErrs) : Chip :=
  match o with
  | 0x08 =>
    let c := if bit w 0 then c.onNvm Nvm.closeOpen else c
    let c := if bit w 1 then c.scrubStart else c
    if bit w 2 then c.remapStart (fld (c.dev.ireg m A.nvmPagesel) 9 0) errs else c
  | 0x80 => if bit w 31 then c.incrementBy m (fld w 3 0) else c
  | _ => c

/-- RTC: CLRREC of a master that is neither SV nor a host at L1 is ignored (R465). -/
def Dev.rtcEffect (d : Dev) (m o : Nat) (old w : Word) : Dev :=
  match o with
  | 0x04 => d.rtcCtrl old w
  | 0x30 => d.rtcPer old w
  | 0x0C =>
    let may := m == 2 || (decide (m < 2) && d.level m == 1)
    let d := if bit w 6 && !may then d.guardDenied m A.rtcCmd else d
    d.rtcCmd w may
  | _ => d

def Dev.pnlEffect (d : Dev) (o : Nat) (w : Word) : Dev :=
  match o with
  | 0x58 => if bit w 0 then d.dialCommand else d
  | 0x5C => if bit w 0 then d.bezelStart else d
  | _ => d

/-- What a write of the register at an address brings with it. -/
def Chip.effect (c : Chip) (m a : Nat) (old w : Word) (errs : CwErrs) : Chip :=
  let o := a % 0x10000
  match a / 0x10000 with
  | 0x0 => c.sysEffect o w
  | 0x1 => c.secEffect m o w
  | 0x2 => c.onDev (·.regEffect o w)
  | 0x4 => c.onDev (·.cnvEffect o w)
  | 0x5 => if o = 4 && bit w 0 then c.onDev Dev.syncGo else c
  | 0x6 => c.onDev (·.auxEffect o w)
  | 0x7 => c.onDev (·.escEffect o w)
  | 0xC => c.onDev (·.bimEffect o w)
  | 0xD => if o = 8 && bit w 0 then c.onDev Dev.blkSync else c
  | 0xE => c.onDev (·.evtEffect o w)
  | 0xF => c.mbxEffect m o w
  | 0x10 => c.nvmEffect m o w errs
  | 0x11 => c.onDev (·.rtcEffect m o old w)
  | 0x13 => c.onDev (·.pnlEffect o w)
  | 0x14 => if o = 4 then c.onDev Dev.chnConfig else c
  | _ => c

end Sys2Proof.Machine
end

