-- ==== Sys2Proof/Machine/Fabric.lean ====
section
/-! DEFINITION. One access through the register fabric: decoding, guards, aliases, widths, shadows, locks, the engine windows,
the extensions and the array window (R205, R336-R357, R369, R370, R378, R379, R408, R409). Log entry 29 gives the order of the
checks. -/
namespace Sys2Proof.Machine

/-! ## Answers -/

/-- An error response (R355). -/
def Chip.fail (c : Chip) (m cause a : Nat) : Resp × Chip := (.err cause, c.onDev fun d => d.errTo m cause a)

/-- A write ignored under R345: no error response. -/
def Chip.ignored (c : Chip) (m a : Nat) : Resp × Chip := (.done, c.onDev fun d => d.guardDenied m a)

/-- A write refused by the seal (R346). -/
def Chip.sealFail (c : Chip) (m a : Nat) : Resp × Chip := (c.onDev fun d => d.sealDenied m a).fail m 10 a

/-- The lane of a value that a narrow read returns. -/
def laneOf (w : Word) (a bytes : Nat) : Word := wd (w.toNat / 2 ^ (8 * (a % 4)) % 2 ^ (8 * bytes))

/-! ## Guards (R344, R345, R388) -/

/-- The registers of mailboxes 0-2 whose P guard admits the host masters at every level (R388). -/
def openMailbox (a : Nat) : Bool :=
  let o := a % 0x10000
  a / 0x10000 == 0xF && ((0x100 ≤ o && o < 0x130 && o % 16 == 4) || (0x400 ≤ o && o < 0x4C0))

/-- Whether the guards let a master's access to a register through. -/
def Dev.admits (d : Dev) (m a : Nat) (gp : Bool) : Bool :=
  d.mayReach m (a / 0x10000) && (!gp || d.privileged m (a / 0x10000) || (decide (m < 2) && openMailbox a))

/-! ## Multi-word values (R205, R369) -/

/-- The upper words that a read of a low word latches. -/
def uppersOf (a : Nat) : List Nat :=
  let o := a % 0x10000
  if a = A.clkCyccnt then [A.clkCycsumLo, A.clkCycsumHi]
  else if a = A.secSealcntLo then [A.secSealcntHi]
  else if a / 0x10000 = 0xC && 0x100 ≤ o && o < 0x600 && 0x80 ≤ o % 0x100 && o % 16 = 0 then [a + 4, a + 8]
  else if a / 0x10000 = 0xC && 0x100 ≤ o && o < 0x600 && 0x20 ≤ o % 0x100 && o % 0x100 < 0x40 && o % 8 = 0 then [a + 4]
  else if a / 0x10000 = 0x10 && 0x100 ≤ o && o < 0x180 && o % 8 = 0 then [a + 4]
  else if a / 0x10000 = 0x14 && 0x80 ≤ o && o % 0x20 = 4 then [a + 4]
  else []

/-- The tag of a value's low word: the applied value of a buffered register is another than its pending one (R348, R369). -/
def shadowTag (r : RegRow) (a : Nat) (act : Bool) : Nat := if act && r.bw != 0 then a + 0x1000 else a

/-- The upper word at an address as the master's shadow holds it. -/
def Dev.shadowed (d : Dev) (m : Nat) (r : RegRow) (a : Nat) (act : Bool) : Option Word :=
  let t := shadowTag r 0 act
  match SMap.find d.shadow m with
  | none => none
  | some (low, ws) => if low < t then none else match (uppersOf (low - t)).idxOf? a with
    | some i => ws[i]?
    | none => none

/-- The shadow of a master takes a value's upper words. -/
def Dev.latch (d : Dev) (m tag : Nat) (ws : List Word) : Dev := { d with shadow := SMap.insert m (tag, ws) d.shadow }

/-! ## Registers read -/

/-- REG_LOCKn: its number. -/
def lockAt (a : Nat) : Option Nat := if A.regLOCKn 0 ≤ a && a ≤ A.regLOCKn 15 then some ((a - A.regLOCKn 0) / 4) else none

/-- A read of a lock acquires it where it is free (R378). -/
def Chip.lockRead (c : Chip) (m n : Nat) : Word × Chip :=
  match SMap.find c.dev.locks n with
  | none => (0, c.onDev fun d => { d with locks := SMap.insert n m d.locks })
  | some k => (if k = m then 0 else wd (2 ^ 31 + k), c)

/-- A read of NVM_PAGEINFO decodes the page the master selected and latches NVM_CWVALID (R423). -/
def Chip.pageInfo (c : Chip) (m : Nat) (errs : CwErrs) : Word × Chip :=
  let p := fld (c.dev.ireg m A.nvmPagesel) 9 0
  let spare := (c.nvm.remapNow.find? fun (e : Nat × Nat) => e.1 == p).map Prod.snd
  let (r, c) := c.readPage p errs fun _ => false
  let w := wd (r.status * 2 ^ 30 + spare.isSome.toNat * 2 ^ 29 + spare.getD 0 * 2 ^ 24 + (r.pass.getD 32 false).toNat * 2 ^ 23
    + (r.pass.getD 33 false).toNat * 2 ^ 22 + r.torn.toNat * 2 ^ 21 + satNat 8 r.inner * 2 ^ 8 + satNat 8 r.outer)
  (w, c.onDev fun d => (d.setIreg m A.nvmPageinfo w).setIreg m A.nvmCwvalid (wd (maskOf 32 fun k => r.pass.getD k false)))

/-- The value a read returns, with the effects of the read (R352, R369, R423, R447). -/
def Chip.readWord (c : Chip) (m : Nat) (r : RegRow) (a : Nat) (act : Bool) (errs : CwErrs) : Word × Chip :=
  if a = A.nvmPageinfo then c.pageInfo m errs
  else if a = A.rtcSubsec then
    let x := c.dev.subsecRead m
    (x.1, { c with dev := x.2 })
  else if a = A.rtcYear then (c.value r m a act, c.onDev fun d => d.shadowRelease m)
  else match c.dev.shadowed m r a act with
    | some w => (w, c)
    | none =>
      let ups := uppersOf a
      let w := c.value r m a act
      if ups.isEmpty then (w, c)
      else
        let ws := ups.map fun u => match rowAt u with
          | some ru => c.value ru m u act
          | none => 0
        (w, c.onDev fun d => d.latch m (shadowTag r a act) ws)

/-- A read of a register that is there. -/
def Chip.regRead (c : Chip) (m : Nat) (r : RegRow) (a addr bytes : Nat) (act : Bool) (errs : CwErrs) : Resp × Chip :=
  match lockAt a with
  | some n =>
    if !c.dev.admits m a r.gp then (.data 0, c)
    else if bytes ≠ 4 then c.fail m 5 addr
    else
      let x := c.lockRead m n
      (.data x.1, x.2)
  | none =>
    if !c.dev.admits m a r.gp then (.data 0, c)
    else
      let x := c.readWord m r a act errs
      (.data (laneOf x.1 addr bytes), x.2)

/-! ## Registers written -/

/-- The word as stored: of the master's instance, or of the register. -/
def Dev.stored (d : Dev) (r : RegRow) (m a : Nat) : Word := if r.perM then d.ireg m a else d.reg a

def Dev.store (d : Dev) (r : RegRow) (m a : Nat) (w : Word) : Dev := if r.perM then d.setIreg m a w else d.setReg a w

/-- The write operations: a plain write and the three aliases (R349). -/
inductive WKind where
  | plain | set | clr | tgl
deriving DecidableEq, Repr

/-- The value after a write of an RW or BW register: the enabled bytes, at the bits software writes (R340, R349, R351). -/
def mergeWrite (k : WKind) (cur : Word) (mask be data : Nat) : Word :=
  let w := wd (data % 2 ^ 32) &&& wd be
  let v := match k with
    | .plain => (cur &&& ~~~(wd be)) ||| w
    | .set => cur ||| w
    | .clr => cur &&& ~~~w
    | .tgl => cur ^^^ w
  (cur &&& ~~~(wd mask)) ||| (v &&& wd mask)

/-- What an SQ register holds after a write (R341). -/
def sqWrite (cur w : Word) (sq : Nat) : Word :=
  if fld w 31 24 = fld cur 31 24 then cur &&& ~~~(w &&& wd sq) else cur

/-- The value a register takes from a write. -/
def Dev.written (d : Dev) (r : RegRow) (m a : Nat) (k : WKind) (be data : Nat) : Word :=
  let cur := d.stored r m a
  match r.typ with
  | .rw => mergeWrite k cur ((r.rw ||| r.bw) &&& (0xFFFFFFFF - d.hidden a)) be data
  | .bw => mergeWrite k cur ((r.rw ||| r.bw) &&& (0xFFFFFFFF - d.hidden a)) be data
  | .sq => sqWrite cur (wd data) r.sq
  | .ct => (cur &&& ~~~(wd r.ct)) ||| (wd data &&& wd r.ct)
  | .cm => (cur &&& ~~~(wd r.rw)) ||| (wd data &&& wd r.rw)
  | .ro => cur

/-- A lock is freed by its owner's write (R378). -/
def Chip.lockWrite (c : Chip) (m n addr : Nat) : Resp × Chip :=
  if SMap.find c.dev.locks n = some m then (.done, c.onDev fun d => { d with locks := SMap.erase n d.locks })
  else c.fail m 14 addr

/-- An S-guarded write counts before it takes effect (R347, R583). -/
def Chip.sCount (c : Chip) (m : Nat) (gs : Bool) : Chip := if gs then c.countSeal m 0x1 else c

/-- The write the fabric accepts: the count of the seal, the fields, the effect (R340, R343, R347). -/
def Chip.accept (c : Chip) (m : Nat) (r : RegRow) (a : Nat) (k : WKind) (be data : Nat) (errs : CwErrs) : Chip :=
  let old := c.dev.stored r m a
  let new := c.dev.written r m a k be data
  let c := (c.sCount m r.gs).onDev fun d => (if r.typ = .bw && (old ^^^ new) &&& wd r.rw != 0#32 then d.restartScan else d).store r m a new
  c.effect m a old (if r.typ = .cm then wd data else new) errs

/-- MBX_Mn_CFG of mailboxes 0-2 ignores writes (R387). -/
def fixedCfg (a : Nat) : Bool := a == A.mbxMnCfg 0 || a == A.mbxMnCfg 1 || a == A.mbxMnCfg 2

/-- The cause of a type, width or alias check (R340, R350, R351, R379). -/
def typeRefuses (r : RegRow) (lock : Bool) (k : WKind) (bytes : Nat) : Option Nat :=
  let plain := r.typ = .rw ∨ r.typ = .bw
  if k ≠ .plain ∧ (lock ∨ ¬ plain) then some 6
  else if r.typ = .ro then some 7
  else if bytes ≠ 4 ∧ (lock ∨ ¬ plain) then some 5
  else none

/-- A write of a register that is there. -/
def Chip.regWrite (c : Chip) (m : Nat) (r : RegRow) (a addr bytes : Nat) (k : WKind) (data : Nat) (errs : CwErrs) : Resp × Chip :=
  let lane := 8 * (addr % 4)
  let be := (2 ^ (8 * bytes) - 1) * 2 ^ lane
  let data := data % 2 ^ (8 * bytes) * 2 ^ lane
  let d := c.dev
  if !d.admits m a r.gp then c.ignored m addr
  else if r.gs && d.sealed then c.sealFail m addr
  else match typeRefuses r (lockAt a).isSome k bytes with
    | some cause => c.fail m cause addr
    | none => match lockAt a with
      | some n => c.lockWrite m n addr
      | none =>
        let w := if r.typ = .cm then wd data else d.written r m a k be data
        if fixedCfg a then (.done, c)
        else if (c.value r m a false &&& wd data &&& wd r.cm) != 0#32 && r.typ == .cm then c.fail m 9 addr
        else match d.ownRefuses a (d.stored r m a) w with
          | some cause => c.fail m cause addr
          | none => (.done, c.accept m r a k be data errs)

/-! ## Engine windows and group result views (R205, R206, R221) -/

/-- The tag of a table word (n below 2048) or a result register (n from 2048) of engine k. -/
def winTag (k n : Nat) : Nat := 0x078000 + 0x1000 * k + n

def lowHalf (v : DWord) : Word := wd (v.toNat % 2 ^ 32)
/-- The high half: bits [47:32] with copies of bit 47 above (R205). -/
def highHalf (v : DWord) : Word := wd (v.toNat / 2 ^ 32 + if v.getLsbD 47 then 0xFFFF0000 else 0)

/-- A read of half a word, with the shadow of its high half. -/
def Chip.halfRead (c : Chip) (m tag : Nat) (v : DWord) (high : Bool) : Word × Chip :=
  if high then
    match SMap.find c.dev.shadow m with
    | some (t, ws) => (if t = tag then ws.getD 0 0 else highHalf v, c)
    | none => (highHalf v, c)
  else (lowHalf v, c.onDev fun d => d.latch m tag [highHalf v])

/-- A read of an engine memory window. -/
def Chip.windowRead (c : Chip) (m a bytes : Nat) : Resp × Chip :=
  let d := c.dev
  let k := d.windowEngine m a
  let o := a % 0x10000
  if !d.fuses.engine k then c.fail m 1 a
  else if !d.on 5 then c.fail m 2 a
  else if 0x8200 ≤ o then c.fail m 3 a
  else if !d.mayReach m (a / 0x10000) then (.data 0, c)
  else if bytes ≠ 4 then c.fail m 5 a
  else if o < 0x4000 then (.data (SMap.get 0 (d.eng k).prog (o / 4)), c)
  else
    let n := (o - 0x4000) / 8
    let v := if o < 0x8000 then SMap.get 0 (d.eng k).table n else SMap.get 0 (d.eng k).results (n - 2048)
    let x := c.halfRead m (winTag k n) v (o % 8 == 4)
    (.data x.1, x.2)

/-- The high half that completes a table word (R205). -/
def Dev.heldHalf (d : Dev) (m k n : Nat) : Nat :=
  let present := (SMap.get 0 (d.eng k).table n).toNat / 2 ^ 32
  match SMap.find d.halves m with
  | some (key, h) => if key = winTag k n then h.toNat else present
  | none => present

/-- A write of a table word's half in a state that lets it in: held, or completing the word (R205, R208). -/
def Chip.tableWrite (c : Chip) (m k a data : Nat) : Resp × Chip :=
  let n := (a % 0x10000 - 0x4000) / 8
  if a % 8 = 4 then
    (.done, (c.sCount m true).onDev fun d => { d with halves := SMap.insert m (winTag k n, BitVec.ofNat 16 data) d.halves })
  else
    let v := BitVec.ofNat 48 (c.dev.heldHalf m k n * 2 ^ 32 + data % 2 ^ 32)
    match c.dev.tableWord k (Fin.ofNat 2048 n) v with
    | .error cause => c.fail m cause a
    | .ok _ =>
      let c := c.sCount m true
      match c.dev.tableWord k (Fin.ofNat 2048 n) v with
      | .ok d => (.done, { c with dev := { d with halves := d.halves.filter fun e => e.1 != m || e.2.1 != winTag k n } })
      | .error cause => c.fail m cause a

/-- Whether an engine's table takes words, directly or through the queue (R204). -/
def Engine.tableOpen (e : Engine) : Bool := e.direct || e.st == .armed || e.st == .running

/-- A write of an engine memory window. -/
def Chip.windowWrite (c : Chip) (m a bytes data : Nat) : Resp × Chip :=
  let d := c.dev
  let k := d.windowEngine m a
  let o := a % 0x10000
  if !d.fuses.engine k then c.fail m 1 a
  else if !d.on 5 then c.fail m 2 a
  else if 0x8200 ≤ o then c.fail m 3 a
  else if !d.admits m a (decide (o < 0x8000)) then c.ignored m a
  else if 0x8000 ≤ o then c.fail m (if bytes = 4 then 7 else 5) a
  else if d.sealed then c.sealFail m a
  else if bytes ≠ 4 then c.fail m 5 a
  else if o < 0x4000 then
    if !(d.eng k).direct then c.fail m 11 a
    else (.done, (c.sCount m true).onDev fun d => d.restartScan.modEng k fun e => { e with prog := SMap.set 0 e.prog (o / 4) (wd data), ref := none })
  else if !(d.eng k).tableOpen then c.fail m 11 a
  else c.tableWrite m k a data

/-- A read of a group result view at an offset in the ESC block. -/
def Chip.groupRead (c : Chip) (m o addr bytes : Nat) : Resp × Chip :=
  let d := c.dev
  let g := (o - 0x800) / 0x200
  if !d.mayReach m 7 then (.data 0, c)
  else
    let n := (o - 0x800) % 0x200 / 8
    let x := c.halfRead m (0x070800 + 0x200 * g + 8 * n) (SMap.get 0 (d.viewEngine g).results n) (o % 8 / 4 == 1)
    (.data (laneOf x.1 addr bytes), x.2)

/-! ## Extensions -/

/-- The offsets of the HRM result page (R310). -/
def pageListed (o : Nat) : Bool :=
  o % 4 == 0 && ((0x2000 ≤ o && o < 0x28C8) || (0x2900 ≤ o && o < 0x2918))

/-- An access to the HRM result page. -/
def Chip.hrmPage (c : Chip) (m a bytes : Nat) (write : Bool) : Resp × Chip :=
  let d := c.dev
  let o := a % 0x10000
  let pg := d.ireg m A.hrmPage
  let g := fld pg 1 0
  if d.fuses.groups ≤ g then c.fail m 1 a
  else if !d.on 5 then c.fail m 2 a
  else if fld pg 6 4 = 7 || !pageListed (o / 4 * 4) then c.fail m 3 a
  else if !d.mayReach m 0xD then (if write then c.ignored m a else (.data 0, c))
  else if bytes ≠ 4 then c.fail m 5 a
  else if write then c.fail m 7 a
  else (.data (SMap.get 0 (d.hrm g).page (pageKey (fld pg 6 4) o)), c)

/-- An access to the PLC extension (R502-R507, PLC_PAGE). -/
def Chip.plcExt (c : Chip) (m a bytes : Nat) (write : Option Nat) : Resp × Chip :=
  let d := c.dev
  let o := a % 0x10000 - 0x2000
  let pg := d.ireg m A.plcPage
  if !d.fuses.plc then c.fail m 1 a
  else if !d.on 6 then c.fail m 2 a
  else if !d.mayReach m 0x12 then (if write.isSome then c.ignored m a else (.data 0, c))
  else if bytes ≠ 4 then c.fail m 5 a
  else match write with
    | none => match d.plcExtRead (fld pg 9 8) (fld pg 4 0) o with
      | .ok w => (.data w, c)
      | .error cause => c.fail m cause a
    | some data => match d.plcExtWrite m (fld pg 9 8) (fld pg 4 0) o (wd data) with
      | .ok d => (.done, { c with dev := d })
      | .error cause => c.fail m cause a

/-- An access to the PNL extension (R533, R536, R543); a narrow write merges into its word. -/
def Chip.pnlExt (c : Chip) (m a bytes : Nat) (write : Option Nat) : Resp × Chip :=
  let d := c.dev
  let o := a % 0x10000 / 4 * 4
  if !d.fuses.dom 7 then c.fail m 1 a
  else if !d.on 7 then c.fail m 2 a
  else match d.pnlExtRead o with
    | none => c.fail m 3 a
    | some cur =>
      if !d.mayReach m 0x13 then (if write.isSome then c.ignored m a else (.data 0, c))
      else match write with
        | none => (.data (laneOf cur a bytes), c)
        | some data =>
          let lane := 8 * (a % 4)
          let w := mergeWrite .plain cur 0xFFFFFFFF ((2 ^ (8 * bytes) - 1) * 2 ^ lane) (data % 2 ^ (8 * bytes) * 2 ^ lane)
          match d.pnlExtWrite o w with
          | .ok d => (.done, { c with dev := d })
          | .error cause => c.fail m cause a

/-- An access to a block extension: only HRM, PLC and PNL have one (R336). -/
def Chip.extension (c : Chip) (m a bytes : Nat) (write : Option Nat) : Resp × Chip :=
  match a / 0x10000 with
  | 0xD => c.hrmPage m a bytes write.isSome
  | 0x12 => c.plcExt m a bytes write
  | 0x13 => c.pnlExt m a bytes write
  | _ => c.fail m 3 a

/-! ## The array window (R408, R409, R424, R425) -/

/-- A read of the array window. -/
def Chip.nvmReadAt (c : Chip) (m a bytes : Nat) (errs : CwErrs) : Resp × Chip :=
  let off := a - 0x400000
  if a % bytes ≠ 0 then c.fail m 4 a
  else if 0x3F000 ≤ off && m ≠ 2 then c.fail m 3 a
  else if !c.dev.mayReach m 21 then (.data 0, c)
  else
    let x := c.arrayRead off bytes errs
    (.data (wd (leNat x.1)), x.2)

/-- A write of the array that fails: the error response, and the failing address of its master. -/
def Chip.nvmFail (c : Chip) (m cause a : Nat) : Resp × Chip := (c.onDev fun d => d.failAddr m cause a).fail m cause a

/-- A write of the array window. -/
def Chip.nvmWriteAt (c : Chip) (m a bytes data : Nat) : Resp × Chip :=
  let off := a - 0x400000
  if a % bytes ≠ 0 then c.nvmFail m 4 a
  else if 0x3F000 ≤ off && m ≠ 2 then c.nvmFail m 3 a
  else if !(c.dev.mayReach m 21 && c.dev.privileged m 21) then c.ignored m a
  else if c.dev.writeProtected (off / 256) then (c.onDev fun d => d.raiseSq A.nvmStat 0x04).nvmFail m 7 a
  else (.done, c.store off (leBytes bytes data))

/-! ## One access -/

/-- The regions of a block's window (R336). -/
inductive Region where
  | normal | active | ext | aliasOf (k : WKind) | none
deriving DecidableEq, Repr

def regionOf (o : Nat) : Region :=
  match o / 0x1000 with
  | 0x0 => .normal
  | 0x1 => .active
  | 0x2 => .ext
  | 0x3 => .ext
  | 0x4 => .aliasOf .set
  | 0x8 => .aliasOf .clr
  | 0xC => .aliasOf .tgl
  | _ => .none

/-- The data registers 8-15 of a mailbox with SIZE = 0 are not there (R385). -/
def Dev.noData (d : Dev) (a : Nat) : Bool :=
  let o := a % 0x10000
  a / 0x10000 == 0xF && 0x400 ≤ o && o < 0xC00 && decide (d.mbSize ((o - 0x400) / 0x40) ≤ (o - 0x400) % 0x40 / 4)

/-- The register an access to a block's window reaches, or the cause that no register does (R9, R35, R337). -/
def Dev.target (d : Dev) (a : Nat) : Except Nat RegRow :=
  if d.absentAt a then .error 1
  else if !d.on (domOf a) then .error 2
  else match rowAt a with
    | none => .error 3
    | some r => if d.noData a then .error 3 else .ok r

/-- Whether an address is in an engine memory window. -/
def inWindow (a : Nat) : Bool := 0x080000 ≤ a && a < 0x0C0000

/-- Whether the offset of a block's register is in a group result view (R221). -/
def inView (base : Nat) : Bool := 0x070800 ≤ base && base < 0x071000

/-- A read through the fabric, of 1, 2 or 4 bytes. -/
def Chip.read (c : Chip) (m addr bytes : Nat) (errs : CwErrs) : Resp × Chip :=
  if 0x400000 ≤ addr && addr < 0x440000 then c.nvmReadAt m addr bytes errs
  else if 0x150000 ≤ addr then c.fail m 3 addr
  else if addr % bytes ≠ 0 then c.fail m 4 addr
  else if inWindow addr then c.windowRead m addr bytes
  else
    let base := addr / 0x10000 * 0x10000 + addr % 0x1000 / 4 * 4
    match regionOf (addr % 0x10000) with
    | .none => c.fail m 3 addr
    | .ext => c.extension m addr bytes none
    | .aliasOf _ => match c.dev.target base with
      | .error cause => if inView base && cause = 3 then (if c.dev.mayReach m 7 then c.fail m 6 addr else (.data 0, c)) else c.fail m cause addr
      | .ok r => if c.dev.admits m base r.gp then c.fail m 6 addr else (.data 0, c)
    | rg =>
      match c.dev.target base with
      | .ok r => c.regRead m r base addr bytes (rg == .active) errs
      | .error cause => if inView base && cause = 3 then c.groupRead m (base % 0x10000) addr bytes else c.fail m cause addr

/-- A write through the fabric, of 1, 2 or 4 bytes. -/
def Chip.write (c : Chip) (m addr bytes data : Nat) (errs : CwErrs) : Resp × Chip :=
  if 0x400000 ≤ addr && addr < 0x440000 then c.nvmWriteAt m addr bytes data
  else if 0x150000 ≤ addr then c.fail m 3 addr
  else if addr % bytes ≠ 0 then c.fail m 4 addr
  else if inWindow addr then c.windowWrite m addr bytes data
  else
    let base := addr / 0x10000 * 0x10000 + addr % 0x1000 / 4 * 4
    let reg := fun (k : WKind) => match c.dev.target base with
      | .ok r => c.regWrite m r base addr bytes k data errs
      | .error cause =>
        if inView base && cause = 3 then (if c.dev.mayReach m 7 then c.fail m (if k = .plain then 7 else 6) addr else c.ignored m addr)
        else c.fail m cause addr
    match regionOf (addr % 0x10000) with
    | .none => c.fail m 3 addr
    | .ext => c.extension m addr bytes (some data)
    | .active => match c.dev.target base with
      | .error cause => if inView base && cause = 3 then (if c.dev.mayReach m 7 then c.fail m 7 addr else c.ignored m addr) else c.fail m cause addr
      | .ok r => if c.dev.admits m base r.gp then c.fail m 7 addr else c.ignored m addr
    | .normal => reg .plain
    | .aliasOf k => reg k

/-- A 64-bit write of an internal master: two 32-bit writes at ascending addresses, each of which succeeds or fails on its own; the
answer kept is that of the second, or the first one's error (R354). A host has no such access. -/
def Chip.writePair (c : Chip) (m addr data : Nat) : Resp × Chip :=
  if m < 2 then (.none, c)
  else
    let x := c.write m addr 4 (data % 2 ^ 32) []
    let y := x.2.write m ((addr + 4) % 2 ^ 24) 4 (data / 2 ^ 32) []
    (match x.1 with | .err n => .err n | _ => y.1, y.2)

end Sys2Proof.Machine
end

