-- ==== Sys2Proof/Machine/Ports.lean ====
section
/-! DEFINITION. The SPI and I2C host ports: requests, the words they perform, responses and port status (R354, R358-R368, R555,
R591). A frame's fill bytes after its request are not modelled (log entry 30). -/
namespace Sys2Proof.Machine

/-- A request as its first five bytes give it (R359). -/
structure PortReq where
  op : Nat
  size : Nat
  dev : Nat
  bad : Bool
  addr : Nat
  len : Nat
deriving DecidableEq, Repr

/-- The number of a byte of a request; 0 where the request has not got so far. -/
def byteNat (l : List Byte) (i : Nat) : Nat := (l.getD i 0).toNat

def portReq (l : List Byte) : PortReq :=
  let c := byteNat l 0
  let size := c / 16 % 4
  let len := byteNat l 4
  { op := c / 64, size := size, dev := c % 8
    bad := c / 8 % 2 = 1 || size = 3 || 63 < len || (size ≠ 0 && len ≠ 0)
    addr := byteNat l 1 * 2 ^ 16 + byteNat l 2 * 2 ^ 8 + byteNat l 3, len := len }

/-- Bytes of one word. -/
def PortReq.bytes (r : PortReq) : Nat := match r.size with | 0 => 4 | 1 => 2 | _ => 1

/-- Bytes of the request before its CRC (R361, R362). -/
def PortReq.body (r : PortReq) : Nat := if r.op = 1 then 5 else 5 + r.bytes * (r.len + 1)

/-- Whether a request has all its bytes; one whose command byte or LEN broke R359 has no length of its own. -/
def reqWhole (l : List Byte) : Bool := decide (5 ≤ l.length) && ((portReq l).bad || decide ((portReq l).body + 2 ≤ l.length))

/-- Whether the request CRC matches (R364). -/
def crcOk (l : List Byte) : Bool :=
  let n := (portReq l).body
  beNat ((l.drop n).take 2) == (crc16 0xFFFF (l.take n)).toNat

/-- The port's REG_PORTSTAT_HS or REG_PORTSTAT_HI records a frame's outcome (R365, R368). -/
def Dev.portStat (d : Dev) (m status count : Nat) : Dev :=
  let a := if m = 0 then A.regPortstatHs else A.regPortstatHi
  ((d.countMod a 31 16 1).putFld a 15 8 status).putFld a 6 0 count

/-- Whether a word made by a host has reset PD1 SUP, so that the port is gone. -/
def Chip.portLost (c c' : Chip) (a : Nat) (w : Word) : Bool :=
  a == A.sysRstcmd && bit w 31 && c.dev.rf A.sysRstcause 31 24 != c'.dev.rf A.sysRstcause 31 24

/-- What the words of a request came to: the bytes answered, the words completed, the STATUS, and whether the port was reset. -/
structure PortRun where
  out : List Byte
  count : Nat
  status : Nat
  lost : Bool
deriving DecidableEq, Repr

/-- The words of a read from word i on, of which `n` remain (R361, R363). -/
def Chip.portRead (c : Chip) (m : Nat) (r : PortReq) (i : Nat) : Nat → PortRun × Chip
  | 0 => (⟨[], 0, 0, false⟩, c)
  | n + 1 =>
    match c.read m ((r.addr + r.bytes * i) % 2 ^ 24) r.bytes [] with
    | (.data w, c') =>
      let x := c'.portRead m r (i + 1) n
      (⟨0xA5#8 :: beBytes r.bytes w.toNat ++ x.1.out, x.1.count + 1, x.1.status, x.1.lost⟩, x.2)
    | (.err cause, c') => (⟨[0x5A#8], 0, cause, false⟩, c')
    | (_, c') => (⟨[], 0, 0, false⟩, c')

/-- The words of a write from word i on, of which `n` remain (R362, R363). -/
def Chip.portWrite (c : Chip) (m : Nat) (r : PortReq) (data : List Byte) (i : Nat) : Nat → PortRun × Chip
  | 0 => (⟨[0xA5#8], 0, 0, false⟩, c)
  | n + 1 =>
    let a := (r.addr + r.bytes * i) % 2 ^ 24
    let w := beNat ((data.drop (r.bytes * i)).take r.bytes)
    match c.write m a r.bytes w [] with
    | (.err cause, c') => (⟨[0x5A#8], 0, cause, false⟩, c')
    | (_, c') =>
      if c.portLost c' a (wd w) then (⟨[], 1, 0, true⟩, c')
      else
        let x := c'.portWrite m r data (i + 1) n
        (⟨x.1.out, x.1.count + 1, x.1.status, x.1.lost⟩, x.2)

/-- The trailer: STATUS, COUNT and the CRC of the response (R361, R364). -/
def portTrailer (p : PortRun) : List Byte :=
  let l := p.out ++ [BitVec.ofNat 8 p.status, BitVec.ofNat 8 p.count]
  l ++ beBytes 2 (crc16 0xFFFF l).toNat

/-- Serve a whole request: the response, none where the port was reset meanwhile. A read makes at most `words` words, and
without its trailer where CS cuts it. `early` is a STATUS that bars it. -/
def Chip.serve (c : Chip) (m : Nat) (l : List Byte) (early : Option Nat) (words : Option Nat) : Option (List Byte) × Chip :=
  let r := portReq l
  let bar := early.or (if r.bad then some 0x11 else if crcOk l then none else some 0x10)
  match bar with
  | some st =>
    let c := if st = 0x10 then c.onDev fun d => if m = 0 then d.count A.regCrcerr 15 0 1 else d.count A.regCrcerr 31 16 1 else c
    (some (portTrailer ⟨[0x5A#8], 0, st, false⟩), c.onDev fun d => d.portStat m st 0)
  | none =>
    if r.op = 1 then
      let n := Nat.min (r.len + 1) (words.getD (r.len + 1))
      let x := c.portRead m r 0 n
      let out := if n < r.len + 1 && x.1.status = 0 then x.1.out else portTrailer x.1
      (some out, x.2.onDev fun d => d.portStat m x.1.status x.1.count)
    else
      let x := c.portWrite m r ((l.drop 5).take (r.bytes * (r.len + 1))) 0 (r.len + 1)
      if x.1.lost then (none, x.2) else (some (portTrailer x.1), x.2.onDev fun d => d.portStat m x.1.status x.1.count)

/-! ## SPI (R358-R366, R591) -/

/-- Whether a frame is for this device. -/
def Dev.spiFor (d : Dev) (l : List Byte) : Bool :=
  let r := portReq l
  !d.held && !d.fuses.hsel && !l.isEmpty && (match r.op with
    | 2 => r.size == 0
    | 3 => false
    | _ => r.dev == d.fuses.id.toNat)

/-- What MISO carries of a response before CS rises: all of it, or the tokens and data of the words that were complete when CS rose
before the trailer, and nothing of a write's response (R360, R365). -/
def PortReq.driven (r : PortReq) (out : List Byte) : Option Nat → List Byte
  | none => out
  | some n => if r.op = 1 then out.take (n * (1 + r.bytes)) else []

/-- An SPI frame: its bytes from CMD on as MOSI carries them; `cut` is how many words of a read were complete when CS rose,
where it rose before the trailer. -/
def Chip.spiFrame (c : Chip) (l : List Byte) (cut : Option Nat) : Chip :=
  let d := { c.dev with miso := [] }
  let c := { c with dev := d }
  if !d.spiFor l then c
  else if !reqWhole l then
    let (v, d) := d.free
    let r := portReq l
    { c with dev := { d.portStat 0 (v % 256) 0 with
        miso := if r.op = 2 || d.chn.dupId then [] else List.replicate l.length 0xFF#8 } }
  else
    let r := portReq l
    let head := if r.bad then l.length else r.body + 2
    let x := c.serve 0 l none (cut.map (· + 1))
    match x.1 with
    | none => x.2
    | some out => x.2.onDev fun d =>
        { d with miso := if r.op = 2 || d.chn.dupId then [] else List.replicate head 0xFF#8 ++ r.driven out cut }

/-! ## I2C (R367, R368) -/

/-- A request received at the device's address; an incomplete one has no CRC that matches. Where a STOP ends the transaction, no
response is left to read (R368). -/
def Chip.i2cRequest (c : Chip) (l : List Byte) (stop : Bool) : Chip :=
  if c.dev.held || c.dev.chn.dupId then c
  else
    let r := portReq l
    let early := if r.dev ≠ c.dev.fuses.id.toNat || 1 < r.op then some 0x11 else if reqWhole l then none else some 0x10
    let x := c.serve 1 l early none
    match x.1 with
    | none => x.2.onDev fun d => { d with i2cResp := none }
    | some out => x.2.onDev fun d => { d with i2cResp := if stop then none else some out }

/-- The host reads the response after a repeated START; without a request the address is not acknowledged. -/
def Dev.i2cRead (d : Dev) : Dev :=
  if d.held || d.chn.dupId then { d with miso := [] } else { d with miso := d.i2cResp.getD [], i2cResp := none }

/-- A host access without an answer (R356): the port sends 0x5A and the trailer with STATUS TIMEOUT (R363, R368). How many words of its
frame were complete before it, and so the trailer's CRC, is left free (log entries 7, 30). -/
def Dev.hostTimeout (d : Dev) (m a : Nat) : Dev :=
  if d.held || 1 < m then d
  else
    let (v, d) := d.free
    let (w, d) := d.free
    let out := [0x5A#8, 15, BitVec.ofNat 8 (v % 64)] ++ beBytes 2 w
    let d : Dev := { (d.errTo m 15 a).portStat m 15 (v % 64) with resp := .err 15 }
    if m = 0 then { d with miso := if d.chn.dupId then [] else out } else { d with i2cResp := some out }

end Sys2Proof.Machine
end

