-- ==== Sys2Proof/Machine/Supervisor.lean ====
section
/-! DEFINITION. The supervisor's command set: taking a command, posting replies and notices, the SYS commands and the commands
of records and ratchet counters (R403-R406, R438-R443, R585). -/
namespace Sys2Proof.Machine

/-! ## Mailboxes 0-2 (R403, R405) -/

/-- Whether a CLASS and OP name a command (R406, R443, R519, R537, R475, R585). -/
def knownOp (cls op : Nat) : Bool :=
  match cls with
  | 1 => decide (1 ≤ op) && decide (op ≤ 3)
  | 2 => (decide (1 ≤ op) && decide (op ≤ 4)) || op == 0x10 || op == 0x11 || op == 0x20
  | 3 => decide (1 ≤ op) && decide (op ≤ 8)
  | 4 => decide (1 ≤ op) && decide (op ≤ 9)
  | 5 => decide (1 ≤ op) && decide (op ≤ 3)
  | _ => false

/-- The STATUS of a command that is answered at once, whatever its arguments. -/
def Dev.takeStatus (d : Dev) (h : HeldCmd) : Option Nat :=
  if fld (h.words.getD 0 0) 11 0 ≠ 0 then some 1
  else if h.cls = 3 && !d.fuses.plc then some 7
  else if h.cls = 4 && !d.fuses.dom 7 then some 7
  else if knownOp h.cls h.op then none
  else some 1

/-- The command in mailbox 0 as it is taken: its words, and the stamped sender with its level now (R404). -/
def Dev.commandWords (d : Dev) : HeldCmd :=
  let m := d.rf (A.mbxMnStamp 0) 11 8
  { words := (List.range 16).map fun w => d.reg (mbDataAt 0 w), sender := m, priv := d.level m, started := false }

/-- The supervisor takes a command from mailbox 0 while it holds fewer than four, and releases it (R405). -/
def Dev.svTake (d : Dev) : Dev :=
  if d.held || !(d.mb 0).full || 4 ≤ d.sup.held.length then d
  else
    let h := d.commandWords
    let d := (d.mbFree 0).modSup fun s => { s with held := s.held ++ [h] }
    match d.takeStatus h with
    | some st => d.answer h st []
    | none => d

/-- The supervisor writes a message into a mailbox and posts it. -/
def Dev.svPost (d : Dev) (n : Nat) (words : List Word) : Dev :=
  let d := (words.zipIdx).foldl (fun (d : Dev) (e : Word × Nat) => (d.setReg (mbDataAt n e.2) e.1).mbWrote 2 n e.2) d
  d.mbGo 2 n

/-- The oldest reply is posted once mailbox 1 is empty. -/
def Dev.replyPost (d : Dev) : Dev :=
  if d.held || (d.mb 1).full then d
  else match d.sup.replies with
    | [] => d
    | r :: rest => (d.modSup fun s => { s with replies := rest }).svPost 1 r

/-- The oldest notice is posted once mailbox 2 is empty. -/
def Dev.noticePost (d : Dev) : Dev :=
  if d.held || (d.mb 2).full then d
  else match d.sup.notices with
    | [] => d
    | r :: rest => (d.modSup fun s => { s with notices := rest }).svPost 2 r

/-- Run a held command that is not yet under way. -/
def Chip.runHeld (c : Chip) (i : Fin 4) (cls op : Nat) (f : HeldCmd → Chip → Chip) : Chip :=
  match c.dev.heldAs i cls op with
  | some h => if c.dev.held then c else f h c
  | none => c

/-! ## SYS (R406, R289) -/

def Dev.versionOf (d : Dev) (h : HeldCmd) : Dev := d.answer h 0 [d.fuses.firmware, d.fuses.romSet]

/-- ESC_Ek_W and W_FAULT of a reference program: W_SAMPLE, W_SEG, W_FAULT (R289). -/
def refFigures : Nat → Nat × Nat × Nat
  | 1 => (318, 244, 12)
  | 2 => (236, 212, 12)
  | _ => (356, 298, 12)

/-- The block index of an engine's memory window (R344). -/
def windowBlock (k : Nat) : Nat := 8 + Nat.min k 3

/-- Count a number of S-guarded writes made for a command (R404, R583). -/
def Chip.countWrites (c : Chip) (m : Nat) : Nat → Chip
  | 0 => c
  | n + 1 => (c.countSeal m 1).countWrites m n

/-- The program memory with the image of a reference program in it. -/
def refLoad (prog : SMap Word) (p : Nat) : SMap Word :=
  (List.range (Nat.min 4096 (Config.refLength p))).foldl (fun (m : SMap Word) (i : Nat) => SMap.set 0 m i (Config.refProgram p i)) prog

/-- LOADREF. How many of the S-guarded writes zero the table words is not stated: 64 to 128 (log entry 7). -/
def Chip.loadRef (h : HeldCmd) (c : Chip) : Chip :=
  let d := c.dev
  let k := (h.arg 1).toNat
  let p := (h.arg 2).toNat
  let may := fun (blk : Nat) => d.reachAt h.sender h.priv blk && d.privAt h.sender h.priv blk
  if 4 < k || p = 0 || 3 < p then c.onDev (·.answer h 2 [])
  else if !d.fuses.engine k then c.onDev (·.answer h 7 [])
  else if !(may 7 && may (windowBlock k)) then c.onDev (·.answer h 6 [])
  else if d.sealed then c.onDev (·.answer h 5 [])
  else if !d.on 5 || !(d.eng k).direct then c.onDev (·.answer h 4 [])
  else
    let (v, d) := d.free
    let (ws, wg, wf) := refFigures p
    let c := ({ c with dev := d } : Chip).countWrites h.sender (Nat.min 4096 (Config.refLength p) + 67 + v % 65)
    c.onDev fun d =>
      let d := d.restartScan.modEng k fun e => { e with prog := refLoad e.prog p, ref := some (RefProg.zero (Fin.ofNat 3 (p - 1))), table := SMap.dropRange 0 64 e.table }
      let d := (d.setReg (A.escEkW k) (wd (wg * 2 ^ 16 + ws))).setReg (A.escEkWfault k) (wd wf)
      (d.putFld (A.escEkCfg k) 4 0 1).answer h 0 []

/-! ## Record areas (R438-R443) -/

/-- Whether a page range meets another area or an enabled write-protect range (R438). -/
def Chip.areaClash (c : Chip) (area first pages : Nat) : Bool :=
  (c.nvm.areas.any fun (e : Nat × Nat × Nat) => e.1 != area && decide (first < e.2.1 + e.2.2) && decide (e.2.1 < first + pages))
    || (List.range pages).any fun i => c.dev.writeProtected (first + i)

/-- Whether a command's sender may write the array window. -/
def Dev.arrayMay (d : Dev) (h : HeldCmd) : Bool := d.reachAt h.sender h.priv 21 && d.privAt h.sender h.priv 21

/-- An area is defined anew, or undefined: the area table is stored, and the scan of the area is no longer used (R438, R442). -/
def Chip.setArea (c : Chip) (area : Nat) (v : Option (Nat × Nat)) : Chip :=
  (c.sysStore .areas [] fun x => { x with areas := match v with | some e => SMap.insert area e x.areas | none => SMap.erase area x.areas }).onNvm
    fun n => { n with scans := SMap.erase area n.scans }

/-- RDEF. -/
def Chip.rDef (h : HeldCmd) (c : Chip) : Chip :=
  let area := fld (h.arg 1) 3 0
  let first := (h.arg 2).toNat
  let pages := (h.arg 3).toNat
  if !c.dev.arrayMay h then c.onDev (·.answer h 6 [])
  else if pages = 0 then
    (c.setArea area none).onDev (·.answer h 0 [])
  else if 64 < pages || 0x3F0 < first + pages || c.areaClash area first pages then c.onDev (·.answer h 2 [])
  else
    (c.setArea area (some (first, pages))).onDev (·.answer h 0 [])

/-- The slot an RWRITE takes: the one after the newest valid record (R441). -/
def nextSlot (s : AreaScan) (pages : Nat) : Nat := match s.newest with | some (k, _) => (k + 1) % (4 * pages) | none => 0

/-- RWRITE; DATA1 and DATA2 of the reply to a failed write are not stated (log entry 7). -/
def Chip.rWrite (h : HeldCmd) (c : Chip) : Chip :=
  let area := fld (h.arg 1) 3 0
  let len := fld (h.arg 1) 15 8
  if !c.dev.arrayMay h then c.onDev (·.answer h 6 [])
  else if 48 < len then c.onDev (·.answer h 2 [])
  else match SMap.find c.nvm.areas area with
    | none => c.onDev (·.answer h 4 [])
    | some (first, pages) =>
      let (s, c) := c.areaScan area first pages
      let off := slotOff first (nextSlot s pages)
      if c.dev.writeProtected (off / 256) then
        c.onDev fun d =>
          let d := (d.raiseSq A.nvmStat 0x04).failAddr h.sender 7 (0x400000 + off)
          let (v1, d) := d.free
          let (v2, d) := d.free
          d.answer h 3 [wd v1, wd v2, d.ireg h.sender A.nvmFailaddr]
      else
        let payload := (wordBytes ((List.range 12).map fun i => h.arg (i + 2))).take len
        let (r, c) := c.recordWrite area first pages payload
        c.onDev (·.answer h 0 [wd r.1, wd (0x400000 + slotOff first r.2)])

/-- RREAD. -/
def Chip.rRead (h : HeldCmd) (c : Chip) : Chip :=
  let area := fld (h.arg 1) 3 0
  if !c.dev.reachAt h.sender h.priv 21 then c.onDev (·.answer h 6 [])
  else match SMap.find c.nvm.areas area with
    | none => c.onDev (·.answer h 4 [])
    | some (first, pages) =>
      let (s, c) := c.areaScan area first pages
      match s.newest with
      | none => c.onDev (·.answer h 4 [])
      | some (slot, seq) =>
        let off := slotOff first slot
        let (r, c) := c.readPage (off / 256) [] fun k => k / 8 == slot % 4
        let b := (r.data.drop (off % 256)).take 64
        c.onDev (·.answer h 0 (wd seq :: wd (b.getD 5 0).toNat :: leWords 12 ((b.drop 8).take 48)))

/-- RSCAN; the SEQ it reports where no record is valid is not stated (log entry 7). -/
def Chip.rScan (h : HeldCmd) (c : Chip) : Chip :=
  let area := fld (h.arg 1) 3 0
  if !c.dev.reachAt h.sender h.priv 21 then c.onDev (·.answer h 6 [])
  else match SMap.find c.nvm.areas area with
    | none => c.onDev (·.answer h 4 [])
    | some (first, pages) =>
      let (s, c) := c.areaScan area first pages
      c.onDev fun d =>
        match s.newest with
        | some (_, seq) => d.answer h 0 [wd s.valid.length, wd s.torn.length, wd seq]
        | none => let (v, d) := d.free
                  d.answer h 0 [wd s.valid.length, wd s.torn.length, wd v]

/-! ## Ratchet counters and the log (R443, R585) -/

def loHi (v : Nat) : List Word := [wd (v % 2 ^ 32), wd (v / 2 ^ 32)]

/-- CINC; RC0-RC3 serve the device (R437). -/
def Chip.cInc (h : HeldCmd) (c : Chip) : Chip :=
  let n := fld (h.arg 1) 3 0
  if !(c.dev.reachAt h.sender h.priv 0x10 && c.dev.privAt h.sender h.priv 0x10) then c.onDev (·.answer h 6 [])
  else
    let c := c.incrementBy h.sender n
    if n < 4 && h.sender != 2 then c.onDev (·.answer h 6 [])
    else c.onDev (·.answer h 0 (loHi (c.nvm.rc n)))

/-- CREAD. -/
def Chip.cRead (h : HeldCmd) (c : Chip) : Chip :=
  let n := fld (h.arg 1) 3 0
  if !c.dev.reachAt h.sender h.priv 0x10 then c.onDev (·.answer h 6 [])
  else c.onDev (·.answer h 0 (loHi (c.nvm.rc n) ++ [wd (c.nvm.rcInfo n)]))

/-- LOGREAD. -/
def Chip.logRead (h : HeldCmd) (c : Chip) : Chip :=
  match c.nvm.logEntry (fld (h.arg 1) 5 0) with
  | none => c.onDev (·.answer h 4 [])
  | some b => c.onDev (·.answer h 0 (leWords 8 b))

end Sys2Proof.Machine
end

