-- ==== Sys2Proof/Machine/Run.lean ====
section
/-! DEFINITION. How a command runs: an event of the hardware, a register access of a master, a supervisor command. While PD1 SUP
is held in reset neither a master nor the hardware beyond PD0 AON acts (R478, R479). -/
namespace Sys2Proof.Machine

/-- An event that acts whatever holds PD1 SUP in reset. -/
def State.always (s : State) (f : Chip → Chip) : Host.Outcome State Fault Refusal := .next { s with chip := f s.chip }

/-- The state after a command that may have written the array (R419). -/
def State.landed (s : State) (c : Chip) : State := { s with chip := Chip.flown s.chip c }

/-- A command that may write the array. -/
def State.stores (s : State) (f : Chip → Chip) : Host.Outcome State Fault Refusal := .next (s.landed (f s.chip))

/-- An event that needs PD1 SUP out of reset. -/
def State.event (s : State) (f : Chip → Chip) : Host.Outcome State Fault Refusal :=
  s.stores fun c => if c.dev.held then c else f c

/-- An event of the device alone. -/
def State.device (s : State) (f : Dev → Dev) : Host.Outcome State Fault Refusal :=
  s.always fun c => if c.dev.held then c else c.onDev f

/-- An event of PD0 AON or of the pins and supplies, on the device alone. -/
def State.aon (s : State) (f : Dev → Dev) : Host.Outcome State Fault Refusal := s.always fun c => c.onDev f

/-- An access with its answer recorded. -/
def Chip.answered (x : Resp × Chip) : Chip := x.2.onDev fun d => { d with resp := x.1 }

/-- An access of a master: none is answered while PD1 SUP is held in reset, and an engine makes none but its posts (R335). -/
def State.access (s : State) (m : Master) (f : Chip → Resp × Chip) : Host.Outcome State Fault Refusal :=
  s.stores fun c => if m.isEngine then c else Chip.answered (if c.dev.held then (.none, c) else f c)

/-- The bytes of a SIZE code (R359). -/
def sizeBytes (z : Fin 3) : Nat := match z.val with | 0 => 4 | 1 => 2 | _ => 1

/-- A 32-bit write of a register by a master. -/
def State.wrote (s : State) (m : Master) (a : Nat) (w : Word) : Host.Outcome State Fault Refusal :=
  s.access m fun c => c.write m.id a 4 w.toNat []

/-- A register as a command's word starts from it: the stored fields, and 0 in the bits that act (R340). -/
def Dev.plain (d : Dev) (a : Nat) : Word :=
  match rowAt a with
  | some r => if r.typ = .cm then d.reg a &&& wd r.rw else d.reg a
  | none => d.reg a

/-- A 32-bit write of a command register: the fields named, the others as they stand (log entry 31). -/
def State.order (s : State) (m : Master) (a : Nat) (f : Word → Word) : Host.Outcome State Fault Refusal :=
  s.wrote m a (f (s.chip.dev.plain a))

/-- A command register's word with OP and GO. -/
def goOp (op : Nat) (w : Word) : Word := setFld (setBit w 31 true) 30 28 op

/-- Time has come to `t`. -/
def State.at (s : State) (t : Nat) : State := { s with chip := s.chip.onDev fun d => { d with now := Nat.max d.now t } }

/-- A command the supervisor holds at a place is carried out. -/
def State.held (s : State) (i : Fin 4) (cls op : Nat) (f : HeldCmd → Chip → Chip) : Host.Outcome State Fault Refusal :=
  s.stores fun c => c.runHeld i cls op f

/-- The same for a command that touches the device alone. -/
def State.heldDev (s : State) (i : Fin 4) (cls op : Nat) (f : Dev → HeldCmd → Dev) : Host.Outcome State Fault Refusal :=
  s.held i cls op fun h c => c.onDev fun d => f d h

/-- Engine e executes an instruction. -/
def State.engine (s : State) (e : Fin 5) (pe tpe : Bool) (t : Nat) (o : Op) : Host.Outcome State Fault Refusal :=
  s.device fun d => d.engStep e.val pe tpe t o

/-- The address of a register in an alias region; none where there is no alias (R349, R409). -/
def aliasAt (a region : Nat) : Option Nat :=
  let b := a / 0x10000
  if b < 0x15 && !inWindow a then some (b * 0x10000 + region + a % 0x1000) else none

/-- An alias write. -/
def State.aliased (s : State) (m : Master) (a region : Nat) (z : Fin 3) (w : Word) : Host.Outcome State Fault Refusal :=
  s.access m fun c =>
    match aliasAt a region with
    | some x => c.write m.id x (sizeBytes z) w.toNat []
    | none => c.fail m.id 3 a

/-- A session command with its outcome: the register write, and then the command where the write was let in. -/
def State.session (s : State) (m : Master) (w : Word) (f : Chip → Chip) : Host.Outcome State Fault Refusal :=
  s.access m fun c =>
    let x := c.write m.id A.secSesscmd 4 w.toNat []
    match x.1 with
    | .done => if c.dev.admits m.id A.secSesscmd false then (.done, f x.2) else x
    | _ => x

end Sys2Proof.Machine
end

