-- ==== Sys2Proof/Machine/ExecAux.lean ====
section
/-! DEFINITION. The meanings of the commands of the auxiliary converter (09). -/
namespace Sys2Proof.Machine

/-- AUX_TIMER_EVENT (R327). -/
def execAuxTimerEvent (t : Nat) (s : State) : Host.Outcome State Fault Refusal :=
  s.device fun d => d.auxTimer t

/-- AUX_PW_PULSE_END (R328). -/
def execAuxPwPulseEnd (gpio : Fin 8) (high : Bool) (width t : Nat) (s : State) : Host.Outcome State Fault Refusal :=
  s.device fun d => d.auxPulse gpio.val high width t

/-- AUX_URGENT: AUX_CMD (R331). -/
def execAuxUrgent (m : Master) (insel : BitVec 4) (t : Nat) (s : State) : Host.Outcome State Fault Refusal :=
  (s.at t).order m A.auxCmd fun w => setFld (setBit w 31 true) 27 24 insel.toNat

/-- AUX_CONVERSION_START (R330). -/
def execAuxConversionStart (t : Nat) (s : State) : Host.Outcome State Fault Refusal :=
  s.device fun d => d.auxStart t

/-- AUX_RESULT (R325). -/
def execAuxResult (raw : Int) (t : Nat) (s : State) : Host.Outcome State Fault Refusal :=
  s.device fun d => d.auxResult raw t

/-- AUX_CAL_ZERO: AUX_CALCMD, STEP ZERO (R332). -/
def execAuxCalZero (m : Master) (pin : Fin 4) (t : Nat) (s : State) : Host.Outcome State Fault Refusal :=
  (s.at t).order m A.auxCalcmd fun w => setFld (goOp 1 w) 25 24 pin.val

/-- AUX_CAL_FULL: AUX_CALCMD, STEP FULL (R332). -/
def execAuxCalFull (m : Master) (pin : Fin 4) (t : Nat) (s : State) : Host.Outcome State Fault Refusal :=
  (s.at t).order m A.auxCalcmd fun w => setFld (goOp 2 w) 25 24 pin.val

end Sys2Proof.Machine
end

