-- ==== Sys2Proof/Machine/ExecChain.lean ====
section
/-! DEFINITION. The meanings of the events of the Dolzu ring (17). -/
namespace Sys2Proof.Machine

/-- SYNC_RECEIVED (R550). -/
def execSyncReceived (run : Nat) (s : State) : Host.Outcome State Fault Refusal :=
  s.device fun d => d.syncReceived run

/-- LNK_LOSS (R548). -/
def execLnkLoss (s : State) : Host.Outcome State Fault Refusal :=
  s.device fun d => d.lnkLoss

/-- LNK_RETURN (R548). -/
def execLnkReturn (s : State) : Host.Outcome State Fault Refusal :=
  s.device fun d => d.lnkReturn

/-- ROUND_START (R553). -/
def execRoundStart (s : State) : Host.Outcome State Fault Refusal :=
  s.device fun d => d.roundStart

/-- ROUND_PASS (R555). -/
def execRoundPass (r : Round) (s : State) : Host.Outcome State Fault Refusal :=
  s.device fun d => d.roundPass r

end Sys2Proof.Machine
end

