-- ==== Sys2Proof/Machine/ExecEngine.lean ====
section
/-! DEFINITION. The meanings of the commands of the engines, engine relief and the pulse source (05, 07). -/
namespace Sys2Proof.Machine

/-- HANDLER_DISPATCH (R189). -/
def execHandlerDispatch (e : Fin 5) (s : State) : Host.Outcome State Fault Refusal :=
  s.device fun d => d.dispatch e.val

/-- POST_QUEUE_DELIVER (R252). -/
def execPostQueueDeliver (e : Fin 5) (s : State) : Host.Outcome State Fault Refusal :=
  s.device fun d => d.postDeliver e.val

/-- HAIRSPRING_MEASURE (R195). -/
def execHairspringMeasure (e : Fin 5) (pace : BitVec 16) (s : State) : Host.Outcome State Fault Refusal :=
  s.device fun d => d.hairspring e.val pace

/-- ADMIT: ESC_Ek_CMD, OP ADMIT (R211). -/
def execAdmitEngine (m : Master) (e : Fin 5) (s : State) : Host.Outcome State Fault Refusal :=
  s.order m (A.escEkCmd e.val) fun w => goOp 1 w

/-- ENGINE_STOP: OP STOP (R210). -/
def execEngineStop (m : Master) (e : Fin 5) (s : State) : Host.Outcome State Fault Refusal :=
  s.order m (A.escEkCmd e.val) fun w => goOp 2 w

/-- ENGINE_CLEAR: OP CLEAR (R211). -/
def execEngineClear (m : Master) (e : Fin 5) (s : State) : Host.Outcome State Fault Refusal :=
  s.order m (A.escEkCmd e.val) fun w => goOp 3 w

/-- PACEMAXRST: ESC_Ek_CMD.PACEMAXRST (R195). -/
def execPacemaxrst (m : Master) (e : Fin 5) (s : State) : Host.Outcome State Fault Refusal :=
  s.order m (A.escEkCmd e.val) fun w => setBit w 1 true

/-- SLACKRST: ESC_Ek_CMD.SLACKRST (R203). -/
def execSlackrst (m : Master) (e : Fin 5) (s : State) : Host.Outcome State Fault Refusal :=
  s.order m (A.escEkCmd e.val) fun w => setBit w 0 true

/-- TABLE_WORD_WRITE (R208). -/
def execTableWordWrite (m : Master) (addr : BitVec 24) (data : Word) (s : State) : Host.Outcome State Fault Refusal :=
  s.wrote m addr.toNat data

/-- QUEUED_TABLE_WRITE (R208). -/
def execQueuedTableWrite (e : Fin 5) (s : State) : Host.Outcome State Fault Refusal :=
  s.device fun d => d.queuedTableWrite e.val

/-- SNAP: ESC_RLF_CMD, OP SNAP (R215). -/
def execSnap (m : Master) (g : Fin 4) (auto : Bool) (s : State) : Host.Outcome State Fault Refusal :=
  s.order m A.escRlfCmd fun w => setFld (setBit (goOp 1 w) 25 auto) 17 16 g.val

/-- SNAP_COPY (R215). -/
def execSnapCopy (s : State) : Host.Outcome State Fault Refusal :=
  s.device fun d => d.snapCopy

/-- SNAP_TIMEOUT (R215). -/
def execSnapTimeout (s : State) : Host.Outcome State Fault Refusal :=
  s.device fun d => d.snapTimeout

/-- TAKEOVER: OP TAKEOVER (R217). -/
def execTakeover (m : Master) (now force auto : Bool) (s : State) : Host.Outcome State Fault Refusal :=
  s.order m A.escRlfCmd fun w => setBit (setBit (setBit (goOp 2 w) 27 now) 26 force) 25 auto

/-- ENGINE_RELEASED (R217). -/
def execEngineReleased (s : State) : Host.Outcome State Fault Refusal :=
  s.device fun d => d.engineReleased

/-- HANDBACK: OP HANDBACK (R219). -/
def execHandback (m : Master) (now force auto : Bool) (s : State) : Host.Outcome State Fault Refusal :=
  s.order m A.escRlfCmd fun w => setBit (setBit (setBit (goOp 3 w) 27 now) 26 force) 25 auto

/-- HANDBACK_COPY (R219). -/
def execHandbackCopy (s : State) : Host.Outcome State Fault Refusal :=
  s.device fun d => d.handbackCopy

/-- HANDBACK_TIMEOUT (R219). -/
def execHandbackTimeout (s : State) : Host.Outcome State Fault Refusal :=
  s.device fun d => d.handbackTimeout

/-- ENGINE_RELIEF_ABORT: OP ABORT (R220). -/
def execEngineReliefAbort (m : Master) (s : State) : Host.Outcome State Fault Refusal :=
  s.order m A.escRlfCmd fun w => goOp 4 w

/-- SOURCE_BASE: BIM_Gg_SRCCMD, OP BASE (R281). -/
def execSourceBase (m : Master) (g : Fin 4) (s : State) : Host.Outcome State Fault Refusal :=
  s.order m (A.bimGgSrccmd g.val) fun w => setFld (setBit w 31 true) 30 29 1

/-- SOURCE_ENGINE: BIM_Gg_SRCCMD, OP ENGINE (R283). -/
def execSourceEngine (m : Master) (g : Fin 4) (s : State) : Host.Outcome State Fault Refusal :=
  s.order m (A.bimGgSrccmd g.val) fun w => setFld (setBit w 31 true) 30 29 2

/-- MAILBOX_COPY (R396). -/
def execMailboxCopy (e : Fin 5) (s : State) : Host.Outcome State Fault Refusal :=
  s.device fun d => d.mailCopy e.val

end Sys2Proof.Machine
end

