-- ==== Sys2Proof/Machine/ExecFabric.lean ====
section
/-! DEFINITION. The meanings of the commands of the register fabric and the host ports (10). -/
namespace Sys2Proof.Machine

/-- REG_UPDATE (R373). -/
def execRegUpdate (m : Master) (mask : BitVec 8) (t : Nat) (s : State) : Host.Outcome State Fault Refusal :=
  (s.at t).wrote m A.regUpdate (mask.setWidth 32)

/-- ALIAS_SET (R349). -/
def execAliasSet (m : Master) (addr : BitVec 24) (size : Fin 3) (data : Word) (s : State) : Host.Outcome State Fault Refusal :=
  s.aliased m addr.toNat 0x4000 size data

/-- ALIAS_CLR (R349). -/
def execAliasClr (m : Master) (addr : BitVec 24) (size : Fin 3) (data : Word) (s : State) : Host.Outcome State Fault Refusal :=
  s.aliased m addr.toNat 0x8000 size data

/-- ALIAS_TGL (R349). -/
def execAliasTgl (m : Master) (addr : BitVec 24) (size : Fin 3) (data : Word) (s : State) : Host.Outcome State Fault Refusal :=
  s.aliased m addr.toNat 0xC000 size data

/-- SQ_CLEAR: a write of an SQ register with SEQ and the bits to clear (R341). -/
def execSqClear (m : Master) (addr : BitVec 24) (seq : BitVec 8) (bits : BitVec 24) (s : State) : Host.Outcome State Fault Refusal :=
  s.wrote m addr.toNat (setFld (bits.setWidth 32) 31 24 seq.toNat)

/-- REGISTER_WRITE (R340, R354). -/
def execRegisterWrite (m : Master) (addr : BitVec 24) (size : Fin 4) (data : BitVec 64) (s : State) : Host.Outcome State Fault Refusal :=
  if h : size.val < 3 then s.access m fun c => c.write m.id addr.toNat (sizeBytes ⟨size.val, h⟩) (data.toNat % 2 ^ 32) []
  else s.access m fun c => c.writePair m.id addr.toNat data.toNat

/-- LOW_WORD_READ (R369). -/
def execLowWordRead (m : Master) (addr : BitVec 24) (s : State) : Host.Outcome State Fault Refusal :=
  s.access m fun c => c.read m.id addr.toNat 4 []

/-- LOCK_READ (R378). -/
def execLockRead (m : Master) (n : Fin 16) (s : State) : Host.Outcome State Fault Refusal :=
  s.access m fun c => c.read m.id (A.regLOCKn n.val) 4 []

/-- LOCK_RELEASE (R378). -/
def execLockRelease (m : Master) (n : Fin 16) (s : State) : Host.Outcome State Fault Refusal :=
  s.wrote m (A.regLOCKn n.val) 0

/-- SPI_READ_FRAME (R361). -/
def execSpiReadFrame (bytes : List Byte) (csAfter : Option Nat) (s : State) : Host.Outcome State Fault Refusal :=
  s.stores fun c => c.spiFrame bytes csAfter

/-- SPI_WRITE_FRAME (R362). -/
def execSpiWriteFrame (bytes : List Byte) (s : State) : Host.Outcome State Fault Refusal :=
  s.stores fun c => c.spiFrame bytes none

/-- SPI_BROADCAST_WRITE (R360). -/
def execSpiBroadcastWrite (bytes : List Byte) (s : State) : Host.Outcome State Fault Refusal :=
  s.stores fun c => c.spiFrame bytes none

/-- SPI_CS_EARLY (R365). -/
def execSpiCsEarly (bytes : List Byte) (s : State) : Host.Outcome State Fault Refusal :=
  s.stores fun c => c.spiFrame bytes (some 0)

/-- I2C_REQUEST (R367). -/
def execI2cRequest (bytes : I2cWrite) (s : State) : Host.Outcome State Fault Refusal :=
  s.stores fun c => c.i2cRequest bytes.bytes bytes.stop

/-- I2C_RESPONSE_READ (R368). -/
def execI2cResponseRead (s : State) : Host.Outcome State Fault Refusal :=
  s.always fun c => c.onDev Dev.i2cRead

/-- HOST_ACCESS_TIMEOUT (R356). -/
def execHostAccessTimeout (m : Master) (addr : BitVec 24) (s : State) : Host.Outcome State Fault Refusal :=
  s.device fun d => d.hostTimeout m.id addr.toNat

/-- CFGSUM_SCAN_DONE (R382). -/
def execCfgsumScanDone (s : State) : Host.Outcome State Fault Refusal :=
  s.device fun d => d.scanDone

/-- CFG_CAPTURE: REG_CFGCMD.CAPTURE (R384). -/
def execCfgCapture (m : Master) (s : State) : Host.Outcome State Fault Refusal :=
  s.order m A.regCfgcmd fun w => setBit w 0 true

end Sys2Proof.Machine
end

