-- ==== Sys2Proof/Machine/ExecIsa.lean ====
section
/-! DEFINITION. The meanings of the instructions of the engines (06). -/
namespace Sys2Proof.Machine

/-- ADD (R239). -/
def execAdd (e : Fin 5) (pe : Bool) (s : State) : Host.Outcome State Fault Refusal :=
  s.engine e pe false s.chip.dev.now .add

/-- SUB (R239). -/
def execSub (e : Fin 5) (pe : Bool) (s : State) : Host.Outcome State Fault Refusal :=
  s.engine e pe false s.chip.dev.now .sub

/-- NEG (R239). -/
def execNeg (e : Fin 5) (pe : Bool) (s : State) : Host.Outcome State Fault Refusal :=
  s.engine e pe false s.chip.dev.now .neg

/-- ABS (R239). -/
def execAbs (e : Fin 5) (pe : Bool) (s : State) : Host.Outcome State Fault Refusal :=
  s.engine e pe false s.chip.dev.now .abs

/-- MIN (R239). -/
def execMin (e : Fin 5) (pe : Bool) (s : State) : Host.Outcome State Fault Refusal :=
  s.engine e pe false s.chip.dev.now .min

/-- MAX (R239). -/
def execMax (e : Fin 5) (pe : Bool) (s : State) : Host.Outcome State Fault Refusal :=
  s.engine e pe false s.chip.dev.now .max

/-- SHL (R239). -/
def execShl (e : Fin 5) (pe : Bool) (s : State) : Host.Outcome State Fault Refusal :=
  s.engine e pe false s.chip.dev.now .shl

/-- SHR (R239). -/
def execShr (e : Fin 5) (pe : Bool) (s : State) : Host.Outcome State Fault Refusal :=
  s.engine e pe false s.chip.dev.now .shr

/-- SHRR (R239). -/
def execShrr (e : Fin 5) (pe : Bool) (s : State) : Host.Outcome State Fault Refusal :=
  s.engine e pe false s.chip.dev.now .shrr

/-- SAT (R239). -/
def execSat (e : Fin 5) (pe : Bool) (s : State) : Host.Outcome State Fault Refusal :=
  s.engine e pe false s.chip.dev.now .sat

/-- MOV (R239). -/
def execMov (e : Fin 5) (pe : Bool) (s : State) : Host.Outcome State Fault Refusal :=
  s.engine e pe false s.chip.dev.now .mov

/-- MOV_FROM_X (R239). -/
def execMovFromX (e : Fin 5) (pe : Bool) (s : State) : Host.Outcome State Fault Refusal :=
  s.engine e pe false s.chip.dev.now .movFromX

/-- MOV_TO_X (R239). -/
def execMovToX (e : Fin 5) (pe : Bool) (s : State) : Host.Outcome State Fault Refusal :=
  s.engine e pe false s.chip.dev.now .movToX

/-- ADDI (R239). -/
def execAddi (e : Fin 5) (pe : Bool) (s : State) : Host.Outcome State Fault Refusal :=
  s.engine e pe false s.chip.dev.now .addi

/-- MOVI (R239). -/
def execMovi (e : Fin 5) (pe : Bool) (s : State) : Host.Outcome State Fault Refusal :=
  s.engine e pe false s.chip.dev.now .movi

/-- MOVHI (R239). -/
def execMovhi (e : Fin 5) (pe : Bool) (s : State) : Host.Outcome State Fault Refusal :=
  s.engine e pe false s.chip.dev.now .movhi

/-- MUL (R240). -/
def execMul (e : Fin 5) (pe : Bool) (s : State) : Host.Outcome State Fault Refusal :=
  s.engine e pe false s.chip.dev.now .mul

/-- MAC (R240). -/
def execMac (e : Fin 5) (pe : Bool) (s : State) : Host.Outcome State Fault Refusal :=
  s.engine e pe false s.chip.dev.now .mac

/-- MSU (R240). -/
def execMsu (e : Fin 5) (pe : Bool) (s : State) : Host.Outcome State Fault Refusal :=
  s.engine e pe false s.chip.dev.now .msu

/-- SQA (R240). -/
def execSqa (e : Fin 5) (pe : Bool) (s : State) : Host.Outcome State Fault Refusal :=
  s.engine e pe false s.chip.dev.now .sqa

/-- ACLR (R240). -/
def execAclr (e : Fin 5) (pe : Bool) (s : State) : Host.Outcome State Fault Refusal :=
  s.engine e pe false s.chip.dev.now .aclr

/-- AADD (R240). -/
def execAadd (e : Fin 5) (pe : Bool) (s : State) : Host.Outcome State Fault Refusal :=
  s.engine e pe false s.chip.dev.now .aadd

/-- AMOV (R240). -/
def execAmov (e : Fin 5) (pe : Bool) (s : State) : Host.Outcome State Fault Refusal :=
  s.engine e pe false s.chip.dev.now .amov

/-- SQRT (R241). -/
def execSqrt (e : Fin 5) (pe : Bool) (s : State) : Host.Outcome State Fault Refusal :=
  s.engine e pe false s.chip.dev.now .sqrt

/-- DIV (R241). -/
def execDiv (e : Fin 5) (pe : Bool) (s : State) : Host.Outcome State Fault Refusal :=
  s.engine e pe false s.chip.dev.now .div

/-- CORD_VECTOR (R241). -/
def execCordVector (e : Fin 5) (pe : Bool) (s : State) : Host.Outcome State Fault Refusal :=
  s.engine e pe false s.chip.dev.now .cordVector

/-- CORD_ROTATE (R241). -/
def execCordRotate (e : Fin 5) (pe : Bool) (s : State) : Host.Outcome State Fault Refusal :=
  s.engine e pe false s.chip.dev.now .cordRotate

/-- IN (R242). -/
def execInPort (e : Fin 5) (pe : Bool) (s : State) : Host.Outcome State Fault Refusal :=
  s.engine e pe false s.chip.dev.now .inPort

/-- INQ (R242). -/
def execInq (e : Fin 5) (pe : Bool) (s : State) : Host.Outcome State Fault Refusal :=
  s.engine e pe false s.chip.dev.now .inq

/-- TLD (R242). -/
def execTld (e : Fin 5) (pe tpe : Bool) (s : State) : Host.Outcome State Fault Refusal :=
  s.engine e pe tpe s.chip.dev.now .tld

/-- TST (R242). -/
def execTst (e : Fin 5) (pe : Bool) (s : State) : Host.Outcome State Fault Refusal :=
  s.engine e pe false s.chip.dev.now .tst

/-- XLD (R242). -/
def execXld (e : Fin 5) (pe : Bool) (s : State) : Host.Outcome State Fault Refusal :=
  s.engine e pe false s.chip.dev.now .xld

/-- XADD (R242). -/
def execXadd (e : Fin 5) (pe : Bool) (s : State) : Host.Outcome State Fault Refusal :=
  s.engine e pe false s.chip.dev.now .xadd

/-- RES (R242). -/
def execRes (e : Fin 5) (pe : Bool) (s : State) : Host.Outcome State Fault Refusal :=
  s.engine e pe false s.chip.dev.now .res

/-- RESA (R242). -/
def execResa (e : Fin 5) (pe : Bool) (s : State) : Host.Outcome State Fault Refusal :=
  s.engine e pe false s.chip.dev.now .resa

/-- BR (R246). -/
def execBr (e : Fin 5) (pe : Bool) (s : State) : Host.Outcome State Fault Refusal :=
  s.engine e pe false s.chip.dev.now .br

/-- BRC (R246). -/
def execBrc (e : Fin 5) (pe : Bool) (s : State) : Host.Outcome State Fault Refusal :=
  s.engine e pe false s.chip.dev.now .brc

/-- LOOP (R246). -/
def execLoop (e : Fin 5) (pe : Bool) (s : State) : Host.Outcome State Fault Refusal :=
  s.engine e pe false s.chip.dev.now .loop

/-- CALL (R246). -/
def execCall (e : Fin 5) (pe : Bool) (s : State) : Host.Outcome State Fault Refusal :=
  s.engine e pe false s.chip.dev.now .call

/-- RET (R246). -/
def execRet (e : Fin 5) (pe : Bool) (t : Nat) (s : State) : Host.Outcome State Fault Refusal :=
  s.engine e pe false t .ret

/-- YIELD (R191). -/
def execYield (e : Fin 5) (pe : Bool) (s : State) : Host.Outcome State Fault Refusal :=
  s.engine e pe false s.chip.dev.now .yield

/-- TRAP (R246). -/
def execTrap (e : Fin 5) (pe : Bool) (s : State) : Host.Outcome State Fault Refusal :=
  s.engine e pe false s.chip.dev.now .trap

/-- PULSE (R250). -/
def execPulse (e : Fin 5) (pe : Bool) (s : State) : Host.Outcome State Fault Refusal :=
  s.engine e pe false s.chip.dev.now .pulse

/-- POST (R250). -/
def execPost (e : Fin 5) (pe : Bool) (s : State) : Host.Outcome State Fault Refusal :=
  s.engine e pe false s.chip.dev.now .post

/-- EVT (R250). -/
def execEvt (e : Fin 5) (pe : Bool) (s : State) : Host.Outcome State Fault Refusal :=
  s.engine e pe false s.chip.dev.now .evt

/-- FLAG_CLRS (R250). -/
def execFlagClrs (e : Fin 5) (pe : Bool) (s : State) : Host.Outcome State Fault Refusal :=
  s.engine e pe false s.chip.dev.now .flagClrs

/-- FLAG_GETF (R250). -/
def execFlagGetf (e : Fin 5) (pe : Bool) (s : State) : Host.Outcome State Fault Refusal :=
  s.engine e pe false s.chip.dev.now .flagGetf

/-- FLAG_PUTF (R250). -/
def execFlagPutf (e : Fin 5) (pe : Bool) (s : State) : Host.Outcome State Fault Refusal :=
  s.engine e pe false s.chip.dev.now .flagPutf

/-- PACE (R254). -/
def execPace (e : Fin 5) (pe : Bool) (s : State) : Host.Outcome State Fault Refusal :=
  s.engine e pe false s.chip.dev.now .pace

/-- CYC (R255). -/
def execCyc (e : Fin 5) (pe : Bool) (s : State) : Host.Outcome State Fault Refusal :=
  s.engine e pe false s.chip.dev.now .cyc

end Sys2Proof.Machine
end

