-- ==== Sys2Proof/Machine/ExecMailbox.lean ====
section
/-! DEFINITION. The meanings of the commands of the mailboxes and of the supervisor's SYS commands (11). -/
namespace Sys2Proof.Machine

/-- MBX_POST: MBX_Mn_CTRL.GO (R389). -/
def execMbxPost (m : Master) (n : Fin 32) (s : State) : Host.Outcome State Fault Refusal :=
  s.wrote m (A.mbxMnCtrl n.val) 0x80000000#32

/-- MBX_DATA_WRITE (R390). -/
def execMbxDataWrite (m : Master) (n : Fin 32) (w : Fin 16) (size : Fin 3) (data : Word) (s : State) : Host.Outcome State Fault Refusal :=
  s.access m fun c => c.write m.id (mbDataAt n.val w.val) (sizeBytes size) data.toNat []

/-- MBX_RELEASE: MBX_Mn_CTRL.REL (R395). -/
def execMbxRelease (m : Master) (n : Fin 32) (mseq : BitVec 8) (s : State) : Host.Outcome State Fault Refusal :=
  s.wrote m (A.mbxMnCtrl n.val) (setFld 0x40000000#32 23 16 mseq.toNat)

/-- MBX_CFG_WRITE (R386). -/
def execMbxCfgWrite (m : Master) (n : Fin 32) (data : Word) (s : State) : Host.Outcome State Fault Refusal :=
  s.wrote m (A.mbxMnCfg n.val) data

/-- EPOCH_NEW: MBX_EPOCHCMD.NEW (R392). -/
def execEpochNew (m : Master) (s : State) : Host.Outcome State Fault Refusal :=
  s.wrote m A.mbxEpochcmd 1

/-- SV_COMMAND_TAKE (R405). -/
def execSvCommandTake (s : State) : Host.Outcome State Fault Refusal :=
  s.device fun d => d.svTake

/-- REPLY_POST (R405). -/
def execReplyPost (s : State) : Host.Outcome State Fault Refusal :=
  s.device fun d => d.replyPost

/-- NOTICE_POST (R405). -/
def execNoticePost (s : State) : Host.Outcome State Fault Refusal :=
  s.device fun d => d.noticePost

/-- PING (R406). -/
def execPing (i : Fin 4) (s : State) : Host.Outcome State Fault Refusal :=
  s.heldDev i 1 1 fun d h => d.answer h 0 []

/-- VERSION (R406). -/
def execVersion (i : Fin 4) (s : State) : Host.Outcome State Fault Refusal :=
  s.heldDev i 1 2 fun d h => d.versionOf h

/-- LOADREF (R406). -/
def execLoadref (i : Fin 4) (s : State) : Host.Outcome State Fault Refusal :=
  s.held i 1 3 fun h c => Chip.loadRef h c

end Sys2Proof.Machine
end

