-- ==== Sys2Proof/Machine/ExecMeter.lean ====
section
/-! DEFINITION. The meanings of the commands of the converter channels, the filter chains, the cycle clock, the pulses, the harmonics and the events (01, 02, 03, 07, 08). -/
namespace Sys2Proof.Machine

/-- OUTPUT_INSTANT (R23). -/
def execOutputInstant (inst : Instant) (s : State) : Host.Outcome State Fault Refusal :=
  s.device fun d => d.outputInstant inst

/-- LOCK_LOSS_TIMEOUT (R295). -/
def execLockLossTimeout (t : Nat) (s : State) : Host.Outcome State Fault Refusal :=
  s.device fun d => d.lockLossTimeout t

/-- CYCLE_BOUNDARY (R38). -/
def execCycleBoundary (b : Boundary) (s : State) : Host.Outcome State Fault Refusal :=
  s.device fun d => d.cycleBoundary b

/-- CROSSFADE_END (R63). -/
def execCrossfadeEnd (clk : List ModClock) (s : State) : Host.Outcome State Fault Refusal :=
  s.device fun d => (d.feed clk).crossfadeEnd

/-- OFFSET_MEASURED (R63). -/
def execOffsetMeasured (ch : Fin 18) (clk : List ModClock) (s : State) : Host.Outcome State Fault Refusal :=
  s.device fun d => (d.feed clk).offsetMeasured ch

/-- SECOND_BOUNDARY (R42). -/
def execSecondBoundary (s : State) : Host.Outcome State Fault Refusal :=
  s.device fun d => d.secondBoundary

/-- PULSE_START (R277). -/
def execPulseStart (n : Fin 4) (s : State) : Host.Outcome State Fault Refusal :=
  s.device fun d => d.pulseStart n.val

/-- PULSE_END (R277). -/
def execPulseEnd (n : Fin 4) (s : State) : Host.Outcome State Fault Refusal :=
  s.device fun d => d.pulseEnd n.val

/-- HRM_CYCLE_POST (R304). -/
def execHrmCyclePost (g : Fin 4) (s : State) : Host.Outcome State Fault Refusal :=
  s.device fun d => d.hrmCyclePost g.val

/-- HRM_BLOCK_POST (R310). -/
def execHrmBlockPost (g : Fin 4) (s : State) : Host.Outcome State Fault Refusal :=
  s.device fun d => d.hrmBlockPost g.val

/-- BLKSYNC: HRM_CMD.BLKSYNC (R306). -/
def execBlksync (m : Master) (s : State) : Host.Outcome State Fault Refusal :=
  s.order m A.hrmCmd fun w => setBit w 0 true

/-- EVT_POP: EVT_CMD.POP (R315). -/
def execEvtPop (m : Master) (s : State) : Host.Outcome State Fault Refusal :=
  s.order m A.evtCmd fun w => setBit w 0 true

/-- EVT_FLUSH: EVT_CMD.FLUSH (R315). -/
def execEvtFlush (m : Master) (s : State) : Host.Outcome State Fault Refusal :=
  s.order m A.evtCmd fun w => setBit w 1 true

/-- CLAMP_DETECT (R88). -/
def execClampDetect (bank : Fin 3) (s : State) : Host.Outcome State Fault Refusal :=
  s.device fun d => d.clampDetect bank

/-- CLAMP_CURRENT_STOPS (R88). -/
def execClampCurrentStops (bank : Fin 3) (s : State) : Host.Outcome State Fault Refusal :=
  s.device fun d => d.clampStops bank

/-- FLT_SYNC_GO: FLT_SYNC.GO (R125). -/
def execFltSyncGo (m : Master) (s : State) : Host.Outcome State Fault Refusal :=
  s.order m A.fltSync fun w => setBit w 0 true

/-- SYNC_INSTANT (R126). -/
def execSyncInstant (clk : List ModClock) (s : State) : Host.Outcome State Fault Refusal :=
  s.device fun d => d.syncInstant clk

/-- CNV_RETIRE: CNV_RETCMD, OP 0 (R76). -/
def execCnvRetire (m : Master) (ch sl : Nat) (s : State) : Host.Outcome State Fault Refusal :=
  s.order m A.cnvRetcmd fun w => setFld (setFld (setFld (setBit w 8 true) 7 7 0) 6 5 sl) 4 0 ch

/-- CNV_RESTORE: CNV_RETCMD, OP 1 (R81). -/
def execCnvRestore (m : Master) (ch sl : Nat) (s : State) : Host.Outcome State Fault Refusal :=
  s.order m A.cnvRetcmd fun w => setFld (setFld (setFld (setBit w 8 true) 7 7 1) 6 5 sl) 4 0 ch

/-- MEASOFS: CNV_CHk_CMD.MEASOFS (R79). -/
def execMeasofs (m : Master) (ch : Fin 18) (s : State) : Host.Outcome State Fault Refusal :=
  s.order m (A.cnvCHkCmd ch.val) fun w => setBit w 0 true

/-- BANDGAP_COMPARE: CNV_REFCMD.COMPARE (R92). -/
def execBandgapCompare (m : Master) (s : State) : Host.Outcome State Fault Refusal :=
  s.order m A.cnvRefcmd fun w => setBit w 0 true

/-- BANDGAP_COMPARE_DONE (R92). -/
def execBandgapCompareDone (diff : Int) (s : State) : Host.Outcome State Fault Refusal :=
  s.device fun d => d.compareDone diff

/-- BANDGAP_SWAP: CNV_REFCMD.SWAP (R93). -/
def execBandgapSwap (m : Master) (s : State) : Host.Outcome State Fault Refusal :=
  s.order m A.cnvRefcmd fun w => setBit w 1 true

/-- REFDIFF_EXPIRE (R93). -/
def execRefdiffExpire (s : State) : Host.Outcome State Fault Refusal :=
  s.device fun d => d.refdiffExpire

/-- CYC_TICK_512 (R298). -/
def execCycTick512 (s : State) : Host.Outcome State Fault Refusal :=
  s.device fun d => d.cycTick512

/-- PLS_TICK (R276). -/
def execPlsTick (s : State) : Host.Outcome State Fault Refusal :=
  s.device fun d => d.plsTick

end Sys2Proof.Machine
end

