-- ==== Sys2Proof/Machine/ExecNvm.lean ====
section
/-! DEFINITION. The meanings of the commands of the ferroelectric store, the record areas and the ratchet counters (12). -/
namespace Sys2Proof.Machine

/-- NVM_WRITE (R415). -/
def execNvmWrite (m : Master) (addr : BitVec 24) (size : Fin 3) (data : Word) (s : State) : Host.Outcome State Fault Refusal :=
  s.access m fun c => c.write m.id addr.toNat (sizeBytes size) data.toNat []

/-- NVM_READ (R422). -/
def execNvmRead (m : Master) (addr : BitVec 24) (size : Fin 3) (errs : CwErrs) (s : State) : Host.Outcome State Fault Refusal :=
  s.access m fun c => c.read m.id addr.toNat (sizeBytes size) errs

/-- PAGE_CLOSE_TIMEOUT (R416). -/
def execPageCloseTimeout (s : State) : Host.Outcome State Fault Refusal :=
  s.event fun c => c.onNvm Nvm.closeOpen

/-- NVM_FLUSH: NVM_CMD.FLUSH (R416). -/
def execNvmFlush (m : Master) (s : State) : Host.Outcome State Fault Refusal :=
  s.wrote m A.nvmCmd 1

/-- PAGEINFO_READ (R423). -/
def execPageinfoRead (m : Master) (errs : CwErrs) (s : State) : Host.Outcome State Fault Refusal :=
  s.access m fun c => c.read m.id A.nvmPageinfo 4 errs

/-- SCRUB: NVM_CMD.SCRUB (R428). -/
def execScrub (m : Master) (s : State) : Host.Outcome State Fault Refusal :=
  s.wrote m A.nvmCmd 2

/-- SCRUB_DONE (R428). -/
def execScrubDone (errs : List (Nat × CwErrs)) (s : State) : Host.Outcome State Fault Refusal :=
  s.event fun c => c.scrubDone errs

/-- REMAP: NVM_CMD.REMAP (R427). -/
def execRemap (m : Master) (errs : CwErrs) (s : State) : Host.Outcome State Fault Refusal :=
  s.access m fun c => c.write m.id A.nvmCmd 4 4 errs

/-- REMAP_DONE (R427). -/
def execRemapDone (s : State) : Host.Outcome State Fault Refusal :=
  s.event fun c => c.remapFinish

/-- COUNTER_INCREMENT: NVM_RCCMD (R432). -/
def execCounterIncrement (m : Master) (n : Fin 16) (s : State) : Host.Outcome State Fault Refusal :=
  s.order m A.nvmRccmd fun w => setFld (setBit w 31 true) 3 0 n.val

/-- RDEF (R443). -/
def execRdef (i : Fin 4) (s : State) : Host.Outcome State Fault Refusal :=
  s.held i 2 0x01 Chip.rDef

/-- RWRITE (R441). -/
def execRwrite (i : Fin 4) (s : State) : Host.Outcome State Fault Refusal :=
  s.held i 2 0x02 Chip.rWrite

/-- RREAD (R443). -/
def execRread (i : Fin 4) (s : State) : Host.Outcome State Fault Refusal :=
  s.held i 2 0x03 Chip.rRead

/-- RSCAN (R443). -/
def execRscan (i : Fin 4) (s : State) : Host.Outcome State Fault Refusal :=
  s.held i 2 0x04 Chip.rScan

/-- CINC (R443). -/
def execCinc (i : Fin 4) (s : State) : Host.Outcome State Fault Refusal :=
  s.held i 2 0x10 Chip.cInc

/-- CREAD (R443). -/
def execCread (i : Fin 4) (s : State) : Host.Outcome State Fault Refusal :=
  s.held i 2 0x11 Chip.cRead

/-- LOGREAD (R585). -/
def execLogread (i : Fin 4) (s : State) : Host.Outcome State Fault Refusal :=
  s.held i 2 0x20 Chip.logRead

end Sys2Proof.Machine
end

