-- ==== Sys2Proof/Machine/ExecPanel.lean ====
section
/-! DEFINITION. The meanings of the commands of the panel (16). -/
namespace Sys2Proof.Machine

/-- UPDATE with DATA1[0] = 0, FULL (R538). -/
def execUpdateFull (i : Fin 4) (ohms : Nat) (s : State) : Host.Outcome State Fault Refusal :=
  s.held i 4 0x01 fun h c => if bit (h.arg 1) 0 then c else c.pnlUpdate h false ohms

/-- UPDATE with DATA1[0] = 1, DIFF (R538). -/
def execUpdateDiff (i : Fin 4) (ohms : Nat) (s : State) : Host.Outcome State Fault Refusal :=
  s.held i 4 0x01 fun h c => if bit (h.arg 1) 0 then c.pnlUpdate h true ohms else c

/-- WAVEFORM_DONE (R538). -/
def execWaveformDone (s : State) : Host.Outcome State Fault Refusal :=
  s.event fun c => c.pnlDone

/-- RECOVER (R540). -/
def execRecover (i : Fin 4) (ohms : Nat) (s : State) : Host.Outcome State Fault Refusal :=
  s.held i 4 0x02 fun h c => c.pnlRecover h ohms

/-- JDISCARD (R537). -/
def execJdiscard (i : Fin 4) (s : State) : Host.Outcome State Fault Refusal :=
  s.held i 4 0x03 fun h c => c.pnlDiscard h

/-- JINFO (R537). -/
def execJinfo (i : Fin 4) (s : State) : Host.Outcome State Fault Refusal :=
  s.held i 4 0x04 fun h c => c.pnlInfo h

/-- WFSAVE (R537). -/
def execWfsave (i : Fin 4) (s : State) : Host.Outcome State Fault Refusal :=
  s.held i 4 0x05 fun h c => c.pnlSave h

/-- WFLOAD (R537). -/
def execWfload (i : Fin 4) (s : State) : Host.Outcome State Fault Refusal :=
  s.held i 4 0x06 fun h c => c.pnlLoad h

/-- STRESS (R537). -/
def execStress (i : Fin 4) (s : State) : Host.Outcome State Fault Refusal :=
  s.held i 4 0x07 fun h c => c.pnlStressRead h

/-- STRESSSYNC (R543). -/
def execStresssync (i : Fin 4) (s : State) : Host.Outcome State Fault Refusal :=
  s.held i 4 0x08 fun h c => c.pnlSync h

/-- BEZEL (R537). -/
def execBezel (i : Fin 4) (ohms : Nat) (s : State) : Host.Outcome State Fault Refusal :=
  s.held i 4 0x09 fun h c => c.pnlBezel h ohms

/-- PUMP_FAULT (R530). -/
def execPumpFault (s : State) : Host.Outcome State Fault Refusal :=
  s.device fun d => d.pumpFault

/-- DIAL_UPDATE: PNL_DIALCMD.GO (R545). -/
def execDialUpdate (m : Master) (s : State) : Host.Outcome State Fault Refusal :=
  s.order m A.pnlDialcmd fun w => setBit w 0 true

/-- DIAL_DONE (R545). -/
def execDialDone (s : State) : Host.Outcome State Fault Refusal :=
  s.device fun d => d.dialDone

/-- BEZEL_CHECK: PNL_BEZCMD.CHECK (R544). -/
def execBezelCheck (m : Master) (s : State) : Host.Outcome State Fault Refusal :=
  s.order m A.pnlBezcmd fun w => setBit w 0 true

/-- BEZEL_CHECK_DONE (R544). -/
def execBezelCheckDone (ohms : Nat) (s : State) : Host.Outcome State Fault Refusal :=
  s.device fun d => d.bezelDone ohms

/-- JOURNAL_COPY (R541). -/
def execJournalCopy (s : State) : Host.Outcome State Fault Refusal :=
  s.event fun c => c.journalCopy

end Sys2Proof.Machine
end

