-- ==== Sys2Proof/Machine/ExecPlc.lean ====
section
/-! DEFINITION. The meanings of the commands of Heathline (15). -/
namespace Sys2Proof.Machine

/-- DATA_FRAME_RECEIVED (R513). -/
def execDataFrameReceived (f : DataFrame) (s : State) : Host.Outcome State Fault Refusal :=
  s.device fun d => d.dataFrame f

/-- SACK_SEND (R513). -/
def execSackSend (s : State) : Host.Outcome State Fault Refusal :=
  s.device fun d => d.sackSend

/-- SACK_RECEIVED (R514). -/
def execSackReceived (k : Sack) (s : State) : Host.Outcome State Fault Refusal :=
  s.device fun d => d.sackReceived k

/-- SACK_TIMEOUT (R514). -/
def execSackTimeout (s : State) : Host.Outcome State Fault Refusal :=
  s.device fun d => d.sackTimeout

/-- MEDIUM_ACCESS (R512). -/
def execMediumAccess (m : Contention) (s : State) : Host.Outcome State Fault Refusal :=
  (s.at m.t).device fun d => d.mediumAccess m

/-- FRAME_TRANSMIT (R511). -/
def execFrameTransmit (clip : Bool) (s : State) : Host.Outcome State Fault Refusal :=
  s.device fun d => d.frameTransmit clip

/-- TONE_MAP_MESSAGE (R505). -/
def execToneMapMessage (msg : MapMsg) (s : State) : Host.Outcome State Fault Refusal :=
  s.device fun d => d.toneMap msg

/-- NEIGHBOUR_TIMEOUT (R516). -/
def execNeighbourTimeout (slot : Fin 32) (s : State) : Host.Outcome State Fault Refusal :=
  s.device fun d => d.loseNbr slot

/-- RECEIVE_INPUT_SATURATED (R607). -/
def execReceiveInputSaturated (s : State) : Host.Outcome State Fault Refusal :=
  s.device fun d => d.rxSaturated

/-- PLC_CONFIG (R519). -/
def execPlcConfig (i : Fin 4) (s : State) : Host.Outcome State Fault Refusal :=
  s.heldDev i 3 0x01 fun d h => d.plcConfig h

/-- MAC_START (R519). -/
def execMacStart (i : Fin 4) (s : State) : Host.Outcome State Fault Refusal :=
  s.heldDev i 3 0x02 fun d h => d.macStart h

/-- MAC_STOP (R519). -/
def execMacStop (i : Fin 4) (s : State) : Host.Outcome State Fault Refusal :=
  s.heldDev i 3 0x03 fun d h => d.macStop h

/-- SEND (R519). -/
def execSend (i : Fin 4) (s : State) : Host.Outcome State Fault Refusal :=
  s.heldDev i 3 0x04 fun d h => d.plcSend h

/-- NBRINFO (R519). -/
def execNbrinfo (i : Fin 4) (s : State) : Host.Outcome State Fault Refusal :=
  s.heldDev i 3 0x05 fun d h => d.nbrInfo h

/-- TMREQ (R519). -/
def execTmreq (i : Fin 4) (s : State) : Host.Outcome State Fault Refusal :=
  s.heldDev i 3 0x06 fun d h => d.toneRequest h

/-- RXDONE (R519). -/
def execRxdone (i : Fin 4) (s : State) : Host.Outcome State Fault Refusal :=
  s.heldDev i 3 0x07 fun d h => d.rxDone h

/-- MACINFO (R519). -/
def execMacinfo (i : Fin 4) (s : State) : Host.Outcome State Fault Refusal :=
  s.heldDev i 3 0x08 fun d h => d.macInfo h

end Sys2Proof.Machine
end

