-- ==== Sys2Proof/Machine/ExecPower.lean ====
section
/-! DEFINITION. The meanings of the commands of power, resets and clocks (14). -/
namespace Sys2Proof.Machine

/-- POR (R478). -/
def execPor (s : State) : Host.Outcome State Fault Refusal :=
  s.always fun c => c.powerOn

/-- BROWN_OUT (R476). -/
def execBrownOut (s : State) : Host.Outcome State Fault Refusal :=
  s.always fun c => c.brownOut

/-- BROWN_OUT_RELEASE (R476). -/
def execBrownOutRelease (s : State) : Host.Outcome State Fault Refusal :=
  s.always fun c => c.brownOutRelease

/-- RESETN (R478). -/
def execResetn (s : State) : Host.Outcome State Fault Refusal :=
  s.always fun c => c.resetnLow

/-- RESETN_RELEASE (R479). -/
def execResetnRelease (s : State) : Host.Outcome State Fault Refusal :=
  s.always fun c => c.resetnHigh

/-- FULL_RESET: SYS_RSTCMD.FULL (R478). -/
def execFullReset (m : Master) (s : State) : Host.Outcome State Fault Refusal :=
  s.wrote m A.sysRstcmd 0x80000000#32

/-- DOMAIN_RESET: SYS_RSTCMD.DOM (R481). -/
def execDomainReset (m : Master) (dom : BitVec 8) (s : State) : Host.Outcome State Fault Refusal :=
  s.wrote m A.sysRstcmd (dom.setWidth 32)

/-- WATCHDOG_RESET (R480). -/
def execWatchdogReset (s : State) : Host.Outcome State Fault Refusal :=
  s.device fun d => d.watchdog

/-- LOW_SUPPLY (R477). -/
def execLowSupply (vdd avdd : Bool) (s : State) : Host.Outcome State Fault Refusal :=
  s.aon fun d => d.lowSupply vdd avdd

/-- XTM_FAIL (R484). -/
def execXtmFail (s : State) : Host.Outcome State Fault Refusal :=
  s.device fun d => d.xtmFail

/-- XTMOK_SET (R484). -/
def execXtmokSet (s : State) : Host.Outcome State Fault Refusal :=
  s.device fun d => d.xtmOkSet

/-- PWR_ON: PWR_CMD, OP ON (R472). -/
def execPwrOn (m : Master) (dom : BitVec 8) (s : State) : Host.Outcome State Fault Refusal :=
  s.order m A.pwrCmd fun w => setFld (goOp 1 w) 7 0 dom.toNat

/-- PWR_OFF: PWR_CMD, OP OFF (R472). -/
def execPwrOff (m : Master) (dom : BitVec 8) (s : State) : Host.Outcome State Fault Refusal :=
  s.order m A.pwrCmd fun w => setFld (goOp 2 w) 7 0 dom.toNat

/-- PWR_VCORE: PWR_CMD, OP VCORE (R473). -/
def execPwrVcore (m : Master) (vcode : BitVec 5) (s : State) : Host.Outcome State Fault Refusal :=
  s.order m A.pwrCmd fun w => setFld (goOp 3 w) 20 16 vcode.toNat

/-- POWER_STEP_DONE (R472). -/
def execPowerStepDone (s : State) : Host.Outcome State Fault Refusal :=
  s.device fun d => d.powerStep

/-- VCORE_SETTLED (R473). -/
def execVcoreSettled (s : State) : Host.Outcome State Fault Refusal :=
  s.device fun d => d.vcoreSettled

/-- PROFSAVE (R475). -/
def execProfsave (i : Fin 4) (s : State) : Host.Outcome State Fault Refusal :=
  s.held i 5 0x01 fun h c => c.profSave h

/-- PROFRUN (R475). -/
def execProfrun (i : Fin 4) (s : State) : Host.Outcome State Fault Refusal :=
  s.held i 5 0x02 fun h c => c.profRun h

/-- PWRINFO (R475). -/
def execPwrinfo (i : Fin 4) (s : State) : Host.Outcome State Fault Refusal :=
  s.heldDev i 5 0x03 fun d h => d.pwrInfo h

end Sys2Proof.Machine
end

