-- ==== Sys2Proof/Machine/ExecRelief.lean ====
section
/-! DEFINITION. The meanings of the commands of relief, patrol and calibration (04). -/
namespace Sys2Proof.Machine

/-- RELIEF_START: CNV_RLx_CMD, OP START (R142). -/
def execReliefStart (m : Master) (u : Fin 2) (target : Nat) (matchcyc : Nat) (autoswap : Bool) (s : State) : Host.Outcome State Fault Refusal :=
  s.order m (A.cnvRLxCmd u.val) fun w => setFld (setFld (setBit (goOp 1 w) 27 autoswap) 20 16 target) 15 8 matchcyc

/-- RELIEF_SWAP: OP SWAP (R148). -/
def execReliefSwap (m : Master) (u : Fin 2) (force : Bool) (s : State) : Host.Outcome State Fault Refusal :=
  s.order m (A.cnvRLxCmd u.val) fun w => setBit (goOp 2 w) 26 force

/-- RELIEF_RETURN: OP RETURN (R157). -/
def execReliefReturn (m : Master) (u : Fin 2) (matchcyc : Nat) (autoswap : Bool) (s : State) : Host.Outcome State Fault Refusal :=
  s.order m (A.cnvRLxCmd u.val) fun w => setFld (setBit (goOp 3 w) 27 autoswap) 15 8 matchcyc

/-- RELIEF_ABORT: OP ABORT (R162). -/
def execReliefAbort (m : Master) (u : Fin 2) (s : State) : Host.Outcome State Fault Refusal :=
  s.order m (A.cnvRLxCmd u.val) fun w => goOp 4 w

/-- PATROL: OP PATROL (R163). -/
def execPatrol (m : Master) (u : Fin 2) (s : State) : Host.Outcome State Fault Refusal :=
  s.order m (A.cnvRLxCmd u.val) fun w => goOp 5 w

/-- PSTOP: OP PSTOP (R167). -/
def execPstop (m : Master) (u : Fin 2) (s : State) : Host.Outcome State Fault Refusal :=
  s.order m (A.cnvRLxCmd u.val) fun w => goOp 6 w

/-- RELIEF_TIMEOUT (R144). -/
def execReliefTimeout (u : Fin 2) (s : State) : Host.Outcome State Fault Refusal :=
  s.device fun d => d.rlTimeout u

/-- REBASE: CNV_PTRL_CMD (R165). -/
def execRebase (m : Master) (a b : Bool) (s : State) : Host.Outcome State Fault Refusal :=
  s.order m A.cnvPtrlCmd fun w => setBit (setBit w 0 a) 1 b

/-- CAL_ZERO: CNV_CALCMD, STEP ZERO (R172). -/
def execCalZero (m : Master) (ch : Nat) (short : Bool) (ncyc : Nat) (s : State) : Host.Outcome State Fault Refusal :=
  s.order m A.cnvCalcmd fun w => setFld (setFld (setBit (goOp 1 w) 27 short) 20 16 ch) 15 8 ncyc

/-- CAL_FULL: CNV_CALCMD, STEP FULL (R172). -/
def execCalFull (m : Master) (ch : Nat) (dc : Bool) (ncyc : Nat) (s : State) : Host.Outcome State Fault Refusal :=
  s.order m A.cnvCalcmd fun w => setFld (setFld (setBit (goOp 2 w) 26 dc) 20 16 ch) 15 8 ncyc

/-- CAL_ABORT: CNV_CALCMD, STEP ABORT (R174). -/
def execCalAbort (m : Master) (s : State) : Host.Outcome State Fault Refusal :=
  s.order m A.cnvCalcmd fun w => goOp 3 w

/-- CAL_TIMEOUT (R174). -/
def execCalTimeout (s : State) : Host.Outcome State Fault Refusal :=
  s.device fun d => d.calTimeout

end Sys2Proof.Machine
end

