-- ==== Sys2Proof/Machine/ExecRtc.lean ====
section
/-! DEFINITION. The meanings of the commands of the real-time clock (13). -/
namespace Sys2Proof.Machine

/-- RTC_TICK (R446). -/
def execRtcTick (tamp0 tamp1 : Bool) (s : State) : Host.Outcome State Fault Refusal :=
  s.aon fun d => d.rtcTick tamp0 tamp1

/-- PERIODIC_EVENT (R455). -/
def execPeriodicEvent (t : Nat) (s : State) : Host.Outcome State Fault Refusal :=
  s.aon fun d => d.periodicEvent t

/-- HALT: RTC_CTRL.HALT = 1 (R448). -/
def execHalt (m : Master) (s : State) : Host.Outcome State Fault Refusal :=
  s.order m A.rtcCtrl fun w => setBit w 0 true

/-- CALENDAR_RELEASE: RTC_CTRL.HALT = 0 (R449). -/
def execCalendarRelease (m : Master) (load catchup : Bool) (s : State) : Host.Outcome State Fault Refusal :=
  s.order m A.rtcCtrl fun w => setBit (setBit (setBit w 0 false) 1 load) 2 catchup

/-- ARM: RTC_CMD.ARMn (R452). -/
def execArm (m : Master) (n : Fin 2) (s : State) : Host.Outcome State Fault Refusal :=
  s.order m A.rtcCmd fun w => setBit w (2 * n.val) true

/-- DISARM: RTC_CMD.DISARMn (R452). -/
def execDisarm (m : Master) (n : Fin 2) (s : State) : Host.Outcome State Fault Refusal :=
  s.order m A.rtcCmd fun w => setBit w (2 * n.val + 1) true

/-- CLRREC: RTC_CMD.CLRREC (R465). -/
def execClrrec (m : Master) (s : State) : Host.Outcome State Fault Refusal :=
  s.order m A.rtcCmd fun w => setBit w 6 true

/-- XTRETURN: RTC_CMD.XTRETURN (R459). -/
def execXtreturn (m : Master) (s : State) : Host.Outcome State Fault Refusal :=
  s.order m A.rtcCmd fun w => setBit w 5 true

/-- SUBSEC_READ (R447). -/
def execSubsecRead (m : Master) (s : State) : Host.Outcome State Fault Refusal :=
  s.access m fun c => c.read m.id A.rtcSubsec 4 []

/-- YEAR_READ (R447). -/
def execYearRead (m : Master) (s : State) : Host.Outcome State Fault Refusal :=
  s.access m fun c => c.read m.id A.rtcYear 4 []

/-- SHADOW_EXPIRE (R447). -/
def execShadowExpire (m : Master) (s : State) : Host.Outcome State Fault Refusal :=
  s.aon fun d => d.shadowRelease m.id

/-- XT32_FAIL (R457). -/
def execXt32Fail (s : State) : Host.Outcome State Fault Refusal :=
  s.aon fun d => d.xt32Fail

/-- XT32_STABLE (R459). -/
def execXt32Stable (s : State) : Host.Outcome State Fault Refusal :=
  s.aon fun d => d.xt32Stable

/-- LRC_TRIM (R458). -/
def execLrcTrim (div : BitVec 16) (s : State) : Host.Outcome State Fault Refusal :=
  s.aon fun d => d.lrcTrim div

/-- SWITCHOVER (R460). -/
def execSwitchover (s : State) : Host.Outcome State Fault Refusal :=
  s.aon fun d => d.switchover

/-- VDD_RETURN (R460). -/
def execVddReturn (s : State) : Host.Outcome State Fault Refusal :=
  s.aon fun d => d.vddReturn

/-- VBAT_LOSS (R461). -/
def execVbatLoss (s : State) : Host.Outcome State Fault Refusal :=
  s.aon fun d => d.vbatLoss

end Sys2Proof.Machine
end

