-- ==== Sys2Proof/Machine/ExecSecurity.lean ====
section
/-! DEFINITION. The meanings of the commands of privilege, the protection map and the seal (18). -/
namespace Sys2Proof.Machine

/-- OPEN: SEC_SESSCMD, OP OPEN (R574). -/
def execOpenSession (m : Master) (level : Fin 4) (slot : Fin 16) (chal : BitVec 256) (t : Nat) (s : State) : Host.Outcome State Fault Refusal :=
  (s.at t).session m (setFld (setFld 0x10000000#32 25 24 level.val) 19 16 slot.val) fun c => c.openCommand m.id level.val slot.val chal t

/-- PROVE: SEC_SESSCMD, OP PROVE (R574). -/
def execProve (m : Master) (level : Fin 4) (slot : Fin 16) (t : Nat) (s : State) : Host.Outcome State Fault Refusal :=
  (s.at t).session m (setFld (setFld 0x20000000#32 25 24 level.val) 19 16 slot.val) fun c => c.proveCommand m.id level.val slot.val t

/-- CLOSE: SEC_SESSCMD, OP CLOSE (R577). -/
def execCloseSession (m : Master) (s : State) : Host.Outcome State Fault Refusal :=
  s.session m 0x30000000#32 fun c => c.closeCommand m.id

/-- SESSION_TIMEOUT (R577). -/
def execSessionTimeout (m : Master) (s : State) : Host.Outcome State Fault Refusal :=
  s.event fun c => if m.id < 2 then c.endIfOpen m.id 1 else c

/-- LOCKOUT_EXPIRE (R576). -/
def execLockoutExpire (slot : Fin 8) (s : State) : Host.Outcome State Fault Refusal :=
  s.event fun c => c.onNvm fun n => { n with locked := n.locked.filter (· != slot) }

/-- SEAL_SET: SEC_SEALCMD.SET (R581). -/
def execSealSet (m : Master) (s : State) : Host.Outcome State Fault Refusal :=
  s.wrote m A.secSealcmd 1

/-- SEAL_OPEN: SEC_SEALCMD.OPEN (R580). -/
def execSealOpen (m : Master) (s : State) : Host.Outcome State Fault Refusal :=
  s.wrote m A.secSealcmd 2

/-- KEYCMD: SEC_KEYCMD (R572). -/
def execKeycmd (m : Master) (slot : Fin 16) (s : State) : Host.Outcome State Fault Refusal :=
  s.wrote m A.secKeycmd (setFld 0x80000000#32 19 16 slot.val)

/-- PMAP_WRITE (R578). -/
def execPmapWrite (m : Master) (n : Fin 6) (size : Fin 3) (data : Word) (s : State) : Host.Outcome State Fault Refusal :=
  s.access m fun c => c.write m.id (A.secPMAPn n.val) (sizeBytes size) data.toNat []

end Sys2Proof.Machine
end

