-- ==== Sys2Proof/Machine/Dispatch.lean ====
section
/-! DEFINITION. One arm per command: each is one call of its meaning. -/
namespace Sys2Proof.Machine

def exec (i : Instr) (s : State) : Host.Outcome State Fault Refusal :=
  match i with
  | .outputInstant inst => Sys2Proof.Machine.execOutputInstant inst s
  | .lockLossTimeout t => Sys2Proof.Machine.execLockLossTimeout t s
  | .cycleBoundary b => Sys2Proof.Machine.execCycleBoundary b s
  | .crossfadeEnd clk => Sys2Proof.Machine.execCrossfadeEnd clk s
  | .offsetMeasured ch clk => Sys2Proof.Machine.execOffsetMeasured ch clk s
  | .secondBoundary => Sys2Proof.Machine.execSecondBoundary s
  | .pulseStart n => Sys2Proof.Machine.execPulseStart n s
  | .pulseEnd n => Sys2Proof.Machine.execPulseEnd n s
  | .hrmCyclePost g => Sys2Proof.Machine.execHrmCyclePost g s
  | .hrmBlockPost g => Sys2Proof.Machine.execHrmBlockPost g s
  | .blksync m => Sys2Proof.Machine.execBlksync m s
  | .evtPop m => Sys2Proof.Machine.execEvtPop m s
  | .evtFlush m => Sys2Proof.Machine.execEvtFlush m s
  | .clampDetect bank => Sys2Proof.Machine.execClampDetect bank s
  | .fltSyncGo m => Sys2Proof.Machine.execFltSyncGo m s
  | .syncInstant clk => Sys2Proof.Machine.execSyncInstant clk s
  | .cnvRetire m ch sl => Sys2Proof.Machine.execCnvRetire m ch sl s
  | .cnvRestore m ch sl => Sys2Proof.Machine.execCnvRestore m ch sl s
  | .measofs m ch => Sys2Proof.Machine.execMeasofs m ch s
  | .bandgapCompare m => Sys2Proof.Machine.execBandgapCompare m s
  | .bandgapCompareDone diff => Sys2Proof.Machine.execBandgapCompareDone diff s
  | .bandgapSwap m => Sys2Proof.Machine.execBandgapSwap m s
  | .refdiffExpire => Sys2Proof.Machine.execRefdiffExpire s
  | .reliefStart m u target matchcyc autoswap => Sys2Proof.Machine.execReliefStart m u target matchcyc autoswap s
  | .reliefSwap m u force => Sys2Proof.Machine.execReliefSwap m u force s
  | .reliefReturn m u matchcyc autoswap => Sys2Proof.Machine.execReliefReturn m u matchcyc autoswap s
  | .reliefAbort m u => Sys2Proof.Machine.execReliefAbort m u s
  | .patrol m u => Sys2Proof.Machine.execPatrol m u s
  | .pstop m u => Sys2Proof.Machine.execPstop m u s
  | .reliefTimeout u => Sys2Proof.Machine.execReliefTimeout u s
  | .rebase m a b => Sys2Proof.Machine.execRebase m a b s
  | .calZero m ch short ncyc => Sys2Proof.Machine.execCalZero m ch short ncyc s
  | .calFull m ch dc ncyc => Sys2Proof.Machine.execCalFull m ch dc ncyc s
  | .calAbort m => Sys2Proof.Machine.execCalAbort m s
  | .calTimeout => Sys2Proof.Machine.execCalTimeout s
  | .handlerDispatch e => Sys2Proof.Machine.execHandlerDispatch e s
  | .add e pe => Sys2Proof.Machine.execAdd e pe s
  | .sub e pe => Sys2Proof.Machine.execSub e pe s
  | .neg e pe => Sys2Proof.Machine.execNeg e pe s
  | .abs e pe => Sys2Proof.Machine.execAbs e pe s
  | .min e pe => Sys2Proof.Machine.execMin e pe s
  | .max e pe => Sys2Proof.Machine.execMax e pe s
  | .shl e pe => Sys2Proof.Machine.execShl e pe s
  | .shr e pe => Sys2Proof.Machine.execShr e pe s
  | .shrr e pe => Sys2Proof.Machine.execShrr e pe s
  | .sat e pe => Sys2Proof.Machine.execSat e pe s
  | .mov e pe => Sys2Proof.Machine.execMov e pe s
  | .movFromX e pe => Sys2Proof.Machine.execMovFromX e pe s
  | .movToX e pe => Sys2Proof.Machine.execMovToX e pe s
  | .addi e pe => Sys2Proof.Machine.execAddi e pe s
  | .movi e pe => Sys2Proof.Machine.execMovi e pe s
  | .movhi e pe => Sys2Proof.Machine.execMovhi e pe s
  | .mul e pe => Sys2Proof.Machine.execMul e pe s
  | .mac e pe => Sys2Proof.Machine.execMac e pe s
  | .msu e pe => Sys2Proof.Machine.execMsu e pe s
  | .sqa e pe => Sys2Proof.Machine.execSqa e pe s
  | .aclr e pe => Sys2Proof.Machine.execAclr e pe s
  | .aadd e pe => Sys2Proof.Machine.execAadd e pe s
  | .amov e pe => Sys2Proof.Machine.execAmov e pe s
  | .sqrt e pe => Sys2Proof.Machine.execSqrt e pe s
  | .div e pe => Sys2Proof.Machine.execDiv e pe s
  | .cordVector e pe => Sys2Proof.Machine.execCordVector e pe s
  | .cordRotate e pe => Sys2Proof.Machine.execCordRotate e pe s
  | .inPort e pe => Sys2Proof.Machine.execInPort e pe s
  | .inq e pe => Sys2Proof.Machine.execInq e pe s
  | .tld e pe tpe => Sys2Proof.Machine.execTld e pe tpe s
  | .tst e pe => Sys2Proof.Machine.execTst e pe s
  | .xld e pe => Sys2Proof.Machine.execXld e pe s
  | .xadd e pe => Sys2Proof.Machine.execXadd e pe s
  | .res e pe => Sys2Proof.Machine.execRes e pe s
  | .resa e pe => Sys2Proof.Machine.execResa e pe s
  | .br e pe => Sys2Proof.Machine.execBr e pe s
  | .brc e pe => Sys2Proof.Machine.execBrc e pe s
  | .loop e pe => Sys2Proof.Machine.execLoop e pe s
  | .call e pe => Sys2Proof.Machine.execCall e pe s
  | .ret e pe t => Sys2Proof.Machine.execRet e pe t s
  | .yield e pe => Sys2Proof.Machine.execYield e pe s
  | .trap e pe => Sys2Proof.Machine.execTrap e pe s
  | .pulse e pe => Sys2Proof.Machine.execPulse e pe s
  | .post e pe => Sys2Proof.Machine.execPost e pe s
  | .evt e pe => Sys2Proof.Machine.execEvt e pe s
  | .flagClrs e pe => Sys2Proof.Machine.execFlagClrs e pe s
  | .flagGetf e pe => Sys2Proof.Machine.execFlagGetf e pe s
  | .flagPutf e pe => Sys2Proof.Machine.execFlagPutf e pe s
  | .pace e pe => Sys2Proof.Machine.execPace e pe s
  | .cyc e pe => Sys2Proof.Machine.execCyc e pe s
  | .postQueueDeliver e => Sys2Proof.Machine.execPostQueueDeliver e s
  | .hairspringMeasure e pace => Sys2Proof.Machine.execHairspringMeasure e pace s
  | .admitEngine m e => Sys2Proof.Machine.execAdmitEngine m e s
  | .engineStop m e => Sys2Proof.Machine.execEngineStop m e s
  | .engineClear m e => Sys2Proof.Machine.execEngineClear m e s
  | .pacemaxrst m e => Sys2Proof.Machine.execPacemaxrst m e s
  | .slackrst m e => Sys2Proof.Machine.execSlackrst m e s
  | .tableWordWrite m addr data => Sys2Proof.Machine.execTableWordWrite m addr data s
  | .queuedTableWrite e => Sys2Proof.Machine.execQueuedTableWrite e s
  | .snap m g auto => Sys2Proof.Machine.execSnap m g auto s
  | .snapCopy => Sys2Proof.Machine.execSnapCopy s
  | .snapTimeout => Sys2Proof.Machine.execSnapTimeout s
  | .takeover m now force auto => Sys2Proof.Machine.execTakeover m now force auto s
  | .engineReleased => Sys2Proof.Machine.execEngineReleased s
  | .handback m now force auto => Sys2Proof.Machine.execHandback m now force auto s
  | .handbackCopy => Sys2Proof.Machine.execHandbackCopy s
  | .handbackTimeout => Sys2Proof.Machine.execHandbackTimeout s
  | .engineReliefAbort m => Sys2Proof.Machine.execEngineReliefAbort m s
  | .sourceBase m g => Sys2Proof.Machine.execSourceBase m g s
  | .sourceEngine m g => Sys2Proof.Machine.execSourceEngine m g s
  | .regUpdate m mask t => Sys2Proof.Machine.execRegUpdate m mask t s
  | .aliasSet m addr size data => Sys2Proof.Machine.execAliasSet m addr size data s
  | .aliasClr m addr size data => Sys2Proof.Machine.execAliasClr m addr size data s
  | .aliasTgl m addr size data => Sys2Proof.Machine.execAliasTgl m addr size data s
  | .sqClear m addr seq bits => Sys2Proof.Machine.execSqClear m addr seq bits s
  | .registerWrite m addr size data => Sys2Proof.Machine.execRegisterWrite m addr size data s
  | .lowWordRead m addr => Sys2Proof.Machine.execLowWordRead m addr s
  | .lockRead m n => Sys2Proof.Machine.execLockRead m n s
  | .lockRelease m n => Sys2Proof.Machine.execLockRelease m n s
  | .spiReadFrame bytes csAfter => Sys2Proof.Machine.execSpiReadFrame bytes csAfter s
  | .spiWriteFrame bytes => Sys2Proof.Machine.execSpiWriteFrame bytes s
  | .spiBroadcastWrite bytes => Sys2Proof.Machine.execSpiBroadcastWrite bytes s
  | .spiCsEarly bytes => Sys2Proof.Machine.execSpiCsEarly bytes s
  | .i2cRequest bytes => Sys2Proof.Machine.execI2cRequest bytes s
  | .i2cResponseRead => Sys2Proof.Machine.execI2cResponseRead s
  | .hostAccessTimeout m addr => Sys2Proof.Machine.execHostAccessTimeout m addr s
  | .cfgsumScanDone => Sys2Proof.Machine.execCfgsumScanDone s
  | .cfgCapture m => Sys2Proof.Machine.execCfgCapture m s
  | .mbxPost m n => Sys2Proof.Machine.execMbxPost m n s
  | .mbxDataWrite m n w size data => Sys2Proof.Machine.execMbxDataWrite m n w size data s
  | .mbxRelease m n mseq => Sys2Proof.Machine.execMbxRelease m n mseq s
  | .mbxCfgWrite m n data => Sys2Proof.Machine.execMbxCfgWrite m n data s
  | .epochNew m => Sys2Proof.Machine.execEpochNew m s
  | .mailboxCopy e => Sys2Proof.Machine.execMailboxCopy e s
  | .svCommandTake => Sys2Proof.Machine.execSvCommandTake s
  | .replyPost => Sys2Proof.Machine.execReplyPost s
  | .noticePost => Sys2Proof.Machine.execNoticePost s
  | .ping j => Sys2Proof.Machine.execPing j s
  | .version j => Sys2Proof.Machine.execVersion j s
  | .loadref j => Sys2Proof.Machine.execLoadref j s
  | .nvmWrite m addr size data => Sys2Proof.Machine.execNvmWrite m addr size data s
  | .nvmRead m addr size errs => Sys2Proof.Machine.execNvmRead m addr size errs s
  | .pageCloseTimeout => Sys2Proof.Machine.execPageCloseTimeout s
  | .nvmFlush m => Sys2Proof.Machine.execNvmFlush m s
  | .pageinfoRead m errs => Sys2Proof.Machine.execPageinfoRead m errs s
  | .scrub m => Sys2Proof.Machine.execScrub m s
  | .scrubDone errs => Sys2Proof.Machine.execScrubDone errs s
  | .remap m errs => Sys2Proof.Machine.execRemap m errs s
  | .remapDone => Sys2Proof.Machine.execRemapDone s
  | .counterIncrement m n => Sys2Proof.Machine.execCounterIncrement m n s
  | .rdef j => Sys2Proof.Machine.execRdef j s
  | .rwrite j => Sys2Proof.Machine.execRwrite j s
  | .rread j => Sys2Proof.Machine.execRread j s
  | .rscan j => Sys2Proof.Machine.execRscan j s
  | .cinc j => Sys2Proof.Machine.execCinc j s
  | .cread j => Sys2Proof.Machine.execCread j s
  | .logread j => Sys2Proof.Machine.execLogread j s
  | .auxTimerEvent t => Sys2Proof.Machine.execAuxTimerEvent t s
  | .auxPwPulseEnd gpio high width t => Sys2Proof.Machine.execAuxPwPulseEnd gpio high width t s
  | .auxUrgent m insel t => Sys2Proof.Machine.execAuxUrgent m insel t s
  | .auxConversionStart t => Sys2Proof.Machine.execAuxConversionStart t s
  | .auxResult raw t => Sys2Proof.Machine.execAuxResult raw t s
  | .auxCalZero m pin t => Sys2Proof.Machine.execAuxCalZero m pin t s
  | .auxCalFull m pin t => Sys2Proof.Machine.execAuxCalFull m pin t s
  | .rtcTick tamp0 tamp1 => Sys2Proof.Machine.execRtcTick tamp0 tamp1 s
  | .periodicEvent t => Sys2Proof.Machine.execPeriodicEvent t s
  | .halt m => Sys2Proof.Machine.execHalt m s
  | .calendarRelease m load catchup => Sys2Proof.Machine.execCalendarRelease m load catchup s
  | .arm m n => Sys2Proof.Machine.execArm m n s
  | .disarm m n => Sys2Proof.Machine.execDisarm m n s
  | .clrrec m => Sys2Proof.Machine.execClrrec m s
  | .xtreturn m => Sys2Proof.Machine.execXtreturn m s
  | .subsecRead m => Sys2Proof.Machine.execSubsecRead m s
  | .yearRead m => Sys2Proof.Machine.execYearRead m s
  | .shadowExpire m => Sys2Proof.Machine.execShadowExpire m s
  | .xt32Fail => Sys2Proof.Machine.execXt32Fail s
  | .xt32Stable => Sys2Proof.Machine.execXt32Stable s
  | .lrcTrim div => Sys2Proof.Machine.execLrcTrim div s
  | .switchover => Sys2Proof.Machine.execSwitchover s
  | .vddReturn => Sys2Proof.Machine.execVddReturn s
  | .vbatLoss => Sys2Proof.Machine.execVbatLoss s
  | .por => Sys2Proof.Machine.execPor s
  | .brownOut => Sys2Proof.Machine.execBrownOut s
  | .brownOutRelease => Sys2Proof.Machine.execBrownOutRelease s
  | .resetn => Sys2Proof.Machine.execResetn s
  | .fullReset m => Sys2Proof.Machine.execFullReset m s
  | .domainReset m dom => Sys2Proof.Machine.execDomainReset m dom s
  | .watchdogReset => Sys2Proof.Machine.execWatchdogReset s
  | .lowSupply vdd avdd => Sys2Proof.Machine.execLowSupply vdd avdd s
  | .xtmFail => Sys2Proof.Machine.execXtmFail s
  | .xtmokSet => Sys2Proof.Machine.execXtmokSet s
  | .pwrOn m dom => Sys2Proof.Machine.execPwrOn m dom s
  | .pwrOff m dom => Sys2Proof.Machine.execPwrOff m dom s
  | .pwrVcore m vcode => Sys2Proof.Machine.execPwrVcore m vcode s
  | .powerStepDone => Sys2Proof.Machine.execPowerStepDone s
  | .vcoreSettled => Sys2Proof.Machine.execVcoreSettled s
  | .profsave j => Sys2Proof.Machine.execProfsave j s
  | .profrun j => Sys2Proof.Machine.execProfrun j s
  | .pwrinfo j => Sys2Proof.Machine.execPwrinfo j s
  | .dataFrameReceived f => Sys2Proof.Machine.execDataFrameReceived f s
  | .sackSend => Sys2Proof.Machine.execSackSend s
  | .sackReceived k => Sys2Proof.Machine.execSackReceived k s
  | .sackTimeout => Sys2Proof.Machine.execSackTimeout s
  | .mediumAccess m => Sys2Proof.Machine.execMediumAccess m s
  | .frameTransmit clip => Sys2Proof.Machine.execFrameTransmit clip s
  | .toneMapMessage msg => Sys2Proof.Machine.execToneMapMessage msg s
  | .neighbourTimeout slot => Sys2Proof.Machine.execNeighbourTimeout slot s
  | .plcConfig j => Sys2Proof.Machine.execPlcConfig j s
  | .macStart j => Sys2Proof.Machine.execMacStart j s
  | .macStop j => Sys2Proof.Machine.execMacStop j s
  | .send j => Sys2Proof.Machine.execSend j s
  | .nbrinfo j => Sys2Proof.Machine.execNbrinfo j s
  | .tmreq j => Sys2Proof.Machine.execTmreq j s
  | .rxdone j => Sys2Proof.Machine.execRxdone j s
  | .macinfo j => Sys2Proof.Machine.execMacinfo j s
  | .updateFull j ohms => Sys2Proof.Machine.execUpdateFull j ohms s
  | .updateDiff j ohms => Sys2Proof.Machine.execUpdateDiff j ohms s
  | .waveformDone => Sys2Proof.Machine.execWaveformDone s
  | .recover j ohms => Sys2Proof.Machine.execRecover j ohms s
  | .jdiscard j => Sys2Proof.Machine.execJdiscard j s
  | .jinfo j => Sys2Proof.Machine.execJinfo j s
  | .wfsave j => Sys2Proof.Machine.execWfsave j s
  | .wfload j => Sys2Proof.Machine.execWfload j s
  | .stress j => Sys2Proof.Machine.execStress j s
  | .stresssync j => Sys2Proof.Machine.execStresssync j s
  | .bezel j ohms => Sys2Proof.Machine.execBezel j ohms s
  | .pumpFault => Sys2Proof.Machine.execPumpFault s
  | .dialUpdate m => Sys2Proof.Machine.execDialUpdate m s
  | .dialDone => Sys2Proof.Machine.execDialDone s
  | .bezelCheck m => Sys2Proof.Machine.execBezelCheck m s
  | .bezelCheckDone ohms => Sys2Proof.Machine.execBezelCheckDone ohms s
  | .journalCopy => Sys2Proof.Machine.execJournalCopy s
  | .syncReceived run => Sys2Proof.Machine.execSyncReceived run s
  | .lnkLoss => Sys2Proof.Machine.execLnkLoss s
  | .roundStart => Sys2Proof.Machine.execRoundStart s
  | .roundPass r => Sys2Proof.Machine.execRoundPass r s
  | .openSession m level slot chal t => Sys2Proof.Machine.execOpenSession m level slot chal t s
  | .prove m level slot t => Sys2Proof.Machine.execProve m level slot t s
  | .closeSession m => Sys2Proof.Machine.execCloseSession m s
  | .sessionTimeout m => Sys2Proof.Machine.execSessionTimeout m s
  | .lockoutExpire slot => Sys2Proof.Machine.execLockoutExpire slot s
  | .sealSet m => Sys2Proof.Machine.execSealSet m s
  | .sealOpen m => Sys2Proof.Machine.execSealOpen m s
  | .keycmd m slot => Sys2Proof.Machine.execKeycmd m slot s
  | .pmapWrite m n size data => Sys2Proof.Machine.execPmapWrite m n size data s
  | .clampCurrentStops bank => Sys2Proof.Machine.execClampCurrentStops bank s
  | .cycTick512 => Sys2Proof.Machine.execCycTick512 s
  | .plsTick => Sys2Proof.Machine.execPlsTick s
  | .resetnRelease => Sys2Proof.Machine.execResetnRelease s
  | .lnkReturn => Sys2Proof.Machine.execLnkReturn s
  | .receiveInputSaturated => Sys2Proof.Machine.execReceiveInputSaturated s

end Sys2Proof.Machine
end

