-- ==== Sys2Proof/Safety.lean ====
section
/-! DEFINITION. What holds of the chip in every run, and the terms in which the statements speak of the engines, the registers, the
supervisor, the auxiliary converter, resets and the legal event log. -/
namespace Sys2Proof.Machine

/-- The byte memory of the store is in canonical form (R411: every byte has a value; an unlisted one is 0x00), and so is what the array held
before each of its latest write pulses (R419). -/
def Nvm.Ok (n : Nvm) : Prop := Memory.wf n.mem = true ∧ ∀ x ∈ n.flight, Memory.wf x.mem = true

/-- The invariant of the machine. -/
def State.Inv (s : State) : Prop := s.chip.nvm.Ok


/-! ## The terms statements about the engines use (06) -/

/-- The command by which engine e executes an instruction with no parity error; `t` is the time of a commit. -/
def Op.command (o : Op) (e : Fin 5) (t : Nat) : Instr :=
  match o with
  | .add => .add e false | .sub => .sub e false | .neg => .neg e false | .abs => .abs e false
  | .min => .min e false | .max => .max e false | .shl => .shl e false | .shr => .shr e false
  | .shrr => .shrr e false | .sat => .sat e false | .mov => .mov e false | .movFromX => .movFromX e false
  | .movToX => .movToX e false | .addi => .addi e false | .movi => .movi e false | .movhi => .movhi e false
  | .mul => .mul e false | .mac => .mac e false | .msu => .msu e false | .sqa => .sqa e false
  | .aclr => .aclr e false | .aadd => .aadd e false | .amov => .amov e false | .sqrt => .sqrt e false
  | .div => .div e false | .cordVector => .cordVector e false | .cordRotate => .cordRotate e false
  | .inPort => .inPort e false | .inq => .inq e false | .tld => .tld e false false | .tst => .tst e false
  | .xld => .xld e false | .xadd => .xadd e false | .res => .res e false | .resa => .resa e false
  | .br => .br e false | .brc => .brc e false | .loop => .loop e false | .call => .call e false
  | .ret => .ret e false t | .yield => .yield e false | .trap => .trap e false | .pulse => .pulse e false
  | .post => .post e false | .evt => .evt e false | .flagClrs => .flagClrs e false
  | .flagGetf => .flagGetf e false | .flagPutf => .flagPutf e false | .pace => .pace e false | .cyc => .cyc e false

/-- Engine e runs handler h and stands at word w, an encoding of instruction o (R190, R256). -/
def State.standsAt (s : State) (e : Fin 5) (o : Op) (w : Word) (h : Handler) : Prop :=
  s.chip.dev.held = false ∧ s.chip.dev.on 5 = true ∧ (s.chip.dev.eng e.val).cur = some h ∧
  (s.chip.dev.eng e.val).pc < 4096 ∧
  SMap.get 0 (s.chip.dev.eng e.val).prog (s.chip.dev.eng e.val).pc = w ∧ decodeOp w = some o

/-- As `standsAt`, and the declared figure leaves the instruction its paces (R200). -/
def State.fetches (s : State) (e : Fin 5) (o : Op) (w : Word) (h : Handler) : Prop :=
  s.standsAt e o w h ∧ h.paces + o.paces ≤ s.chip.dev.paceLimit e.val

/-- The state with engine e replaced: nothing else of the machine changes. -/
def State.ran (s : State) (e : Fin 5) (x : Engine) : State := { s with chip := s.chip.onDev fun d => d.setEng e.val x }

/-- An engine past one instruction of n paces. -/
def Engine.past (x : Engine) (h : Handler) (n : Nat) : Engine :=
  { x with pc := x.pc + 1, cur := some { h with paces := h.paces + n } }

/-- The d range of R224, in units of 2^-46. -/
def limit48 (v : Int) : Int := max (-(2 ^ 47)) (min (2 ^ 47 - 1) v)

/-- r is n / m rounded to the nearest integer, a tie to the even one (R232). -/
def NearestEven (n : Int) (m : Nat) (r : Int) : Prop :=
  2 * (n - r * m).natAbs ≤ m ∧ (2 * (n - r * m).natAbs = m → r % 2 = 0)

/-- r is the square root of n rounded to the nearest integer. -/
def NearestRoot (n : Int) (r : Int) : Prop :=
  (n = 0 ∧ r = 0) ∨ (0 < r ∧ r * r - r < n ∧ n ≤ r * r + r)

/-- An engine past an instruction that writes a saturated d result and Z, N, V (and S with V) (R229, R233). -/
def Engine.saturating (x : Engine) (h : Handler) (n rd : Nat) (v : Int) : Engine :=
  { (x.setD rd (limit48 v)).past h n with
    z := decide (limit48 v = 0), n := decide (limit48 v < 0), v := decide (limit48 v ≠ v)
    s := x.s || decide (limit48 v ≠ v) }

/-- The accumulator value an exact sum is reduced to (R234). -/
def mod96 (v : Int) : Int := (BitVec.ofInt 96 v).toInt

/-- An engine past an instruction that writes an accumulator and Z, N, V (and S with V) (R229, R234). -/
def Engine.accumulating (x : Engine) (h : Handler) (n ai : Nat) (v : Int) : Engine :=
  { (x.setA ai (mod96 v)).past h n with
    z := decide (mod96 v = 0), n := decide (mod96 v < 0), v := decide (mod96 v ≠ v)
    s := x.s || decide (mod96 v ≠ v) }

/-- An engine past an instruction that writes d and the flags Z and N of it. -/
def Engine.reading (x : Engine) (h : Handler) (rd : Nat) (v : Int) : Engine :=
  { (x.setD rd v).past h 2 with z := decide (v = 0), n := decide (v < 0) }

/-- An engine past an instruction that stages (R193, R245). -/
def Engine.staging (x : Engine) (h : Handler) (n : Nat) (st : Stage) : Engine := x.past { h with stage := st } n

/-! ## The terms statements about command registers and events use (10) -/

/-- The state with another device: the queue and the ferroelectric store stay. -/
def State.to (s : State) (d : Dev) : State := { s with chip := { s.chip with dev := d } }

/-- A 32-bit write of command register a by master m passes every check of the fabric: the register is there with its domain
on, its guards let the master through, the seal does not bar it, no operation it starts is running, and the register's own
entry does not refuse the word (R340, R343-R346). An engine makes no access but its posts (R335). -/
def Chip.lets (c : Chip) (m a : Nat) (w : Word) : Prop :=
  c.dev.held = false ∧ (m < 3 ∨ 8 ≤ m) ∧ ∃ r, c.dev.target a = .ok r ∧ r.typ = .cm ∧ c.dev.admits m a r.gp = true ∧
    (r.gs && c.dev.sealed) = false ∧ (c.value r m a false &&& w &&& wd r.cm) = 0#32 ∧
    c.dev.ownRefuses a (c.dev.stored r m a) w = none

/-- The chip as an accepted write of a command register finds it once the fields are loaded: an S-guarded write counted
(R347), the stored fields of the word in the register. -/
def Chip.loaded (c : Chip) (m a : Nat) (w : Word) : Chip :=
  match rowAt a with
  | some r => (c.sCount m r.gs).onDev fun d =>
      d.store r m a ((c.dev.stored r m a &&& ~~~(wd r.rw)) ||| (w &&& wd r.rw))
  | none => c

/-- The same of the word a command makes: the fields it names set in the stored ones. -/
def State.lets (s : State) (m : Master) (a : Nat) (f : Word → Word) : Prop := s.chip.lets m.id a (f (s.chip.dev.plain a))

/-- The chip and its device with the word's fields loaded. -/
def State.loads (s : State) (m : Master) (a : Nat) (f : Word → Word) : Chip := s.chip.loaded m.id a (f (s.chip.dev.plain a))
def State.loaded (s : State) (m : Master) (a : Nat) (f : Word → Word) : Dev := (s.loads m a f).dev

/-- The state after an accepted command: the fields loaded, an effect on the chip, and the fabric's answer. -/
def State.done (s : State) (c : Chip) : State := s.landed (c.onDev fun d => { d with resp := .done })

/-- The same for an effect on the device alone. -/
def State.took (s : State) (m : Master) (a : Nat) (f : Word → Word) (g : Dev → Dev) : State := s.done ((s.loads m a f).onDev g)

/-! ## The terms statements about register accesses use (10) -/

/-- A write of a plain register (RW or BW) by master m through the fabric passes every check: `base` is the register's own
address, `bytes` and `data` what is written at `addr`, `k` the kind of write (R340, R344-R351). -/
def Chip.acceptsPlain (c : Chip) (m base addr bytes : Nat) (k : WKind) (data : Nat) (r : RegRow) : Prop :=
  c.dev.held = false ∧ (m < 3 ∨ 8 ≤ m) ∧ c.dev.target base = .ok r ∧ (r.typ = .rw ∨ r.typ = .bw) ∧ c.dev.admits m base r.gp = true ∧
    (r.gs && c.dev.sealed) = false ∧ fixedCfg base = false ∧ lockAt base = none ∧ addr % bytes = 0 ∧
    c.dev.ownRefuses base (c.dev.stored r m base)
      (c.dev.written r m base k ((2 ^ (8 * bytes) - 1) * 2 ^ (8 * (addr % 4))) (data % 2 ^ (8 * bytes) * 2 ^ (8 * (addr % 4)))) = none

/-- What bit i of a plain register holds after a write of `bytes` bytes at byte lane `lane`: the enabled bytes act, by kind; a
bit that software does not write keeps its value (R340, R349, R351). -/
def bitAfter (k : WKind) (cur data : Word) (mask : Word) (lane bytes i : Nat) : Bool :=
  let en := decide (8 * lane ≤ i ∧ i < 8 * lane + 8 * bytes)
  let b := data.getLsbD (i - 8 * lane)
  let old := cur.getLsbD i
  if mask.getLsbD i then
    match k with
    | .plain => if en then b else old
    | .set => old || (en && b)
    | .clr => old && !(en && b)
    | .tgl => old != (en && b)
  else old

/-- An access ended in an error response: the cause is answered, and recorded with the address in the master's REG_ERRINFO; the
count of errors advances, saturating, and no other register changes (R355). -/
def State.errored (s : State) (m : Master) (cause : Nat) (addr : BitVec 24) : State :=
  s.to { (s.chip.dev.setIreg m.id A.regErrinfo (wd (cause * 2 ^ 28 + addr.toNat))).setReg A.regErrcnt
    (wd (min (2 ^ 32 - 1) ((s.chip.dev.reg A.regErrcnt).toNat + 1))) with resp := .err cause }

/-- The reply words of a held command, and the command gone from the supervisor's list (R403, R405). -/
def State.answered (s : State) (h : HeldCmd) (status : Nat) (data : List Word) : State :=
  s.to { s.chip.dev with sup := { s.chip.dev.sup with
    held := s.chip.dev.sup.held.erase h, replies := s.chip.dev.sup.replies ++ [setFld (h.words.getD 0 0) 11 0 status :: data] } }

/-- The supervisor holds command h at place i, of a class and code, not yet under way, and PD1 is out of reset (R403, R405). -/
def State.holds (s : State) (i : Fin 4) (cls op : Nat) (h : HeldCmd) : Prop :=
  s.chip.dev.held = false ∧ s.chip.dev.sup.held[i.val]? = some h ∧ h.started = false ∧
    fld (h.words.getD 0 0) 31 28 = cls ∧ fld (h.words.getD 0 0) 27 20 = op

/-! ## The terms statements about the auxiliary converter use (09) -/

/-- The trigger an event of source n brings at time t: the input and delay in force (R327). -/
def Dev.trigNow (d : Dev) (n t : Nat) : AuxTrig :=
  { src := n, insel := d.af (A.auxTRGnCfg n) 27 24, t := t, delay := d.af (A.auxTRGnCfg n) 15 0 }

/-- The device with the time moved on to t at least. -/
def Dev.at (d : Dev) (t : Nat) : Dev := { d with now := Nat.max d.now t }

/-! ## The terms statements about resets use (14) -/

/-- No scrub runs at time t, and no write of the array can still be in progress (R419, R428). -/
def Nvm.quiet (n : Nvm) (t : Nat) : Prop := n.scrubbing = false ∧ (n.flight = [] ∨ n.flightAt + flightLife < t)

/-- What a reset of PD1 SUP leaves: PD2-PD7 off and VCODE 20, the source recorded, mailboxes, epochs, locks, sessions and the supervisor
empty, the engines as at power-up; PD0 AON goes on as it was, and so, where no write is in progress and no codeword reads wrong, do the
bytes of the store but those of the page of the event log (R392, R419, R462, R468, R478). -/
def State.restarted (s t : State) (cause : Nat) : Prop :=
  let d := s.chip.dev
  let e := t.chip.dev
  (∀ n < 8, e.on n = decide (n < 2)) ∧ e.rf A.pwrVcore 4 0 = 20 ∧ e.rb A.sysRstcause cause = true ∧ e.pwr = none ∧
  (∀ n : Fin 32, (e.mb n.val).full = false) ∧ (∀ m < 9, e.epoch m = 0) ∧ e.locks = [] ∧ e.sess = [] ∧ e.sup = Sup.zero ∧
  (∀ k : Fin 5, e.eng k.val = Engine.zero) ∧ e.chn.up = false ∧ e.xtmOk = false ∧
  e.rtc.ticks = d.rtc.ticks ∧ (∀ a, 0x110000 ≤ a → a < 0x120000 → a ≠ A.rtcSwpend → e.reg a = d.reg a) ∧
  (s.chip.nvm.quiet d.now → s.chip.nvm.errs = [] →
    ∀ a, a / 256 ≠ t.chip.nvm.phys SysRec.log.page → t.chip.nvm.byteAt a = s.chip.nvm.byteAt a) ∧
  t.chip.nvm.openPage = none ∧ t.chip.nvm.scrubbing = false ∧ t.chip.nvm.remapRun = none
/-! ## The terms statements about the legal event log use (18) -/

/-- An entry of the legal event log is written: RC1 advances, and the newest entry carries its value, the kind, the master, the level,
ARG, RC0 and the CRC-32C of what goes before (R584). -/
def Chip.logs (c c' : Chip) (kind m level arg : Nat) : Prop :=
  c'.nvm.rc 1 = (c.nvm.rc 1 + 1) % 2 ^ 64 ∧ ∃ b : LogEntry, c'.nvm.log.getLast? = some b ∧
    b.take 8 = leBytes 8 (c'.nvm.rc 1) ∧ (b.drop 8).take 4 = [kind, m, level, arg].map (BitVec.ofNat 8) ∧
    (b.drop 12).take 8 = leBytes 8 (c'.nvm.rc 0) ∧ b.drop 28 = leBytes 4 (crc32c (b.take 28)).toNat


/-! ## The terms statements about stored records use (12) -/

/-- Records of the system region are stored (R408): the bytes of the array outside their pages stay, where no codeword reads wrong and
neither a remap nor a scrub is in progress. -/
def Nvm.keeps (n n' : Nvm) (l : List SysRec) : Prop :=
  n.errs = [] → n.scrubbing = false → n.remapRun = none → ∀ a, (∀ r ∈ l, a / 256 ≠ n.phys r.page) → n'.byteAt a = n.byteAt a

/-- No register changes outside the block of the store. -/
def Dev.sameRegs (d e : Dev) : Prop := ∀ a, a / 0x10000 ≠ 0x10 → e.reg a = d.reg a

end Sys2Proof.Machine
end

