-- ==== Sys2Proof/WellFormed.lean ====
section
/-! DEFINITION. Which commands can be given: operands within the ranges the spec gives what they name. `exec` is total; a
command outside these ranges is one that nothing outside the block can make. -/
namespace Sys2Proof

/-- A slice emits packets from -4 to +4 (R57). -/
def Tri.packets (t : Tri) : Bool := [t.s0, t.s1, t.s2].all fun v => decide (-4 ≤ v) && decide (v ≤ 4)

/-- A MOD clock has packets of at most the 18 channels (R19, R57). -/
def ModClock.wf (c : ModClock) : Bool := decide (c.length ≤ 18) && c.all Tri.packets

/-- The packets an event carries. -/
def clksWf (l : List ModClock) : Bool := l.all ModClock.wf

/-- Codewords named at most once (R412). -/
def CwErrs.wf (l : CwErrs) : Bool := (l.map Prod.fst).Nodup

/-- A tone map has six swaths, with REP 1, 2 or 4 and codes 0 to 4 (R494, R505). -/
def ToneMap.wf (m : ToneMap) : Bool :=
  decide (m.tmid < 256) && decide (m.swaths.length = 6) &&
    m.swaths.all fun s => (s.rep == 1 || s.rep == 2 || s.rep == 4) && s.codes.all fun c => decide (c < 5)

/-- The fields of a header lie within their bits (R500). -/
def DataHdr.wf (h : DataHdr) : Bool :=
  decide (h.typ < 16) && decide (h.pri < 4) && decide (h.src < 4096) && decide (h.dst < 4096) && decide (h.fdst < 4096) && decide (h.hops < 8) &&
    decide (h.seq < 256) && decide (1 ≤ h.nblk) && decide (h.nblk ≤ 64) && decide (h.tmid < 256) && decide (h.sphase < 1024) &&
    decide (h.nid < 256)

/-- A frame has as many blocks as its header says (R500). -/
def DataFrame.wf (f : DataFrame) : Bool :=
  f.hdr.wf && decide (f.blocks.length = f.hdr.nblk) && decide (f.origSrc < 4096)

/-- The fields of a message slot lie within their bits (R557). -/
def RingSlot.wf (s : RingSlot) : Bool :=
  decide (s.w < 16) && decide (s.mbx < 32) && decide (s.dst < 8) && decide (s.src < 8) && decide (s.result < 8)

/-- A round has eight status words, four cells and sixteen slots, their fields within their bits (R554). -/
def Round.wf (r : Round) : Bool :=
  decide (r.status.length = 8) && decide (r.cells.length = 4) && decide (r.slots.length = 16) && r.slots.all RingSlot.wf &&
    r.status.all (fun s => decide (s.variant < 16)) && r.cells.all fun c => decide (-(2 ^ 63) ≤ c.collect) && decide (c.collect < 2 ^ 63)

/-- An access of 64 bits is an internal master's; an engine makes none but its posts (R335, R354). -/
def accessWf (m : Master) (size : Fin 4) : Bool :=
  !m.isEngine && (decide (size.val < 3) || match m with | .sv => true | .cl => true | _ => false)

/-- A host master: HS or HI (R335). -/
def Master.host : Master → Bool
  | .hs => true
  | .hi => true
  | _ => false

/-- An address of the array window (R408). -/
def arrayAddr (a : BitVec 24) : Bool := decide (0x400000 ≤ a.toNat) && decide (a.toNat < 0x440000)

/-- An address of a block's register, which has aliases: not in an engine memory window (R205, R336, R349). -/
def blockAddr (a : BitVec 24) : Bool := decide (a.toNat < 0x150000) && !(decide (0x080000 ≤ a.toNat) && decide (a.toNat < 0x0C0000))

/-- A table word's half in an engine memory window (R205). -/
def tableAddr (a : BitVec 24) : Bool :=
  decide (0x080000 ≤ a.toNat) && decide (a.toNat < 0x0C0000) && decide (0x4000 ≤ a.toNat % 0x10000) && decide (a.toNat % 0x10000 < 0x8000)

/-- Whether the operands of a command are within range. -/
def Instr.wf : Instr → Bool
  | .outputInstant i => clksWf i.clk
  | .cycleBoundary b => clksWf b.clk && decide (b.u1.length ≤ 18)
  | .crossfadeEnd clk => clksWf clk
  | .offsetMeasured _ clk => clksWf clk
  | .syncInstant clk => clksWf clk
  | .cnvRetire _ ch sl => decide (ch < 32) && decide (sl < 4)
  | .cnvRestore _ ch sl => decide (ch < 32) && decide (sl < 4)
  | .reliefStart _ _ target matchcyc _ => decide (target < 32) && decide (matchcyc < 256)
  | .reliefReturn _ _ matchcyc _ => decide (matchcyc < 256)
  | .calZero _ ch _ ncyc => decide (ch < 32) && decide (ncyc < 256)
  | .calFull _ ch _ ncyc => decide (ch < 32) && decide (ncyc < 256)
  | .tableWordWrite _ addr _ => tableAddr addr
  | .aliasSet _ addr _ _ => blockAddr addr
  | .aliasClr _ addr _ _ => blockAddr addr
  | .aliasTgl _ addr _ _ => blockAddr addr
  | .sqClear _ addr _ _ => blockAddr addr
  | .nvmWrite _ addr _ _ => arrayAddr addr
  | .nvmRead _ addr _ errs => arrayAddr addr && errs.wf
  | .hostAccessTimeout m _ => m.host
  | .pageinfoRead _ errs => errs.wf
  | .remap _ errs => errs.wf
  | .scrubDone errs => errs.all fun e => decide (e.1 < 1024) && e.2.wf
  | .dataFrameReceived f => f.wf
  | .sackReceived k => decide (k.dst < 4096) && decide (k.seq < 256)
  | .toneMapMessage (.fromNeighbour a m) => decide (a < 4096) && m.wf
  | .toneMapMessage (.measured a m) => decide (a < 4096) && m.wf
  | .roundPass r => r.wf
  | .spiReadFrame bytes _ => !bytes.isEmpty
  | .spiWriteFrame bytes => !bytes.isEmpty
  | .spiBroadcastWrite bytes => !bytes.isEmpty
  | .spiCsEarly bytes => !bytes.isEmpty
  | .i2cRequest req => !req.bytes.isEmpty
  | .registerWrite m _ size _ => accessWf m size
  | .lowWordRead m _ => !m.isEngine
  | .sessionTimeout m => m.host
  | _ => true

end Sys2Proof
end

