-- ==== Sys2Proof/Certificates/Slice0/Obligations.lean ====
section
/-! DEFINITION. The statements for the provers: each formalises what the spec says a command or the machine does. -/
section Statements
open Sys2Proof Sys2Proof.Machine

/-! ## The machine as a whole -/

/-- A step takes the command at the front of the queue and runs it on the chip with the queue's rest, for every command and state.
On an empty queue the block idles: the model's choice (log entry 10). -/
def Obligations.StepRunsFront : Prop :=
  (∀ (i : Instr) (s : State), step { s with pending := i :: s.pending } = exec i s) ∧
  (∀ c : Chip, step { pending := [], chip := c } = .next { pending := [], chip := c })

/-- Every command is answered with a next state, and no command changes the queue of those that wait. -/
def Obligations.CommandsAnswer : Prop :=
  ∀ (i : Instr) (s : State), ∃ t, exec i s = .next t ∧ t.pending = s.pending

/-- After the power-on reset PD0 and PD1 are on, PD2-PD7 off and VCODE is 20 (R468); every register of every domain and of every
master reads its reset value (R17); every mailbox is empty and every epoch 0 (R392); the host masters and CL are at L3 with no session;
no lock is held (R378); the calendar stands at the epoch with TIMELOST and the alarms disarmed (R462); the link is DOWN (R556). -/
def Obligations.ResetValues : Prop :=
  let d := State.reset.chip.dev
  State.reset.pending = [] ∧ (∀ n < 8, d.on n = decide (n < 2)) ∧ d.rf A.pwrVcore 4 0 = 20 ∧
  (∀ a, d.reg a = resetVal a ∧ d.active a = resetVal a) ∧ (∀ m a, d.ireg m a = resetVal a) ∧
  (∀ n : Fin 32, (d.mb n.val).full = false) ∧ (∀ m < 9, d.epoch m = 0) ∧
  (∀ m ∈ [0, 1, 8], d.level m = 3) ∧ (∀ m, d.sessState m = 0) ∧ (∀ n, SMap.find d.locks n = none) ∧
  d.calendarNow = (0, 0, 0x050101#32, 0x80000000#32) ∧ d.armed 0 = false ∧ d.armed 1 = false ∧ d.chn.up = false

/-- The ferroelectric store is in its canonical form at reset. -/
def Obligations.StoreWellFormedAtReset : Prop :=
  State.reset.Inv

/-- Every step keeps the ferroelectric store in its canonical form: the bytes of the array stay listed in strictly rising order, none
equal to what an unlisted byte reads as, and so do those that a reset may fall back to. -/
def Obligations.StoreStaysWellFormed : Prop :=
  ∀ s t : State, s.Inv → step s = .next t → t.Inv

/-! ## The instructions of the engines (06) -/

/-- ADD, SUB, NEG, ABS, MIN, MAX and ADDI: the saturated result, Z and N of it, V and the sticky S, the carry or borrow of
ADD, ADDI and SUB; nothing else of the machine but the program counter and the pace count changes (R229, R233, R239). -/
def Obligations.ArithmeticSaturates : Prop :=
  ∀ (s : State) (e : Fin 5) (w : Word) (h : Handler),
    let x := s.chip.dev.eng e.val
    let a := x.dv (fRs w)
    let b := x.dv (fRt w)
    let imm := (BitVec.ofNat 16 (fImm16 w)).toInt
    let out := fun (v : Int) (c : Bool) => s.ran e { x.saturating h 1 (fRd w) v with c := c }
    (s.fetches e .add w h →
      exec (.add e false) s = .next (out (a + b) (decide (2 ^ 48 ≤ x.du (fRs w) + x.du (fRt w))))) ∧
    (s.fetches e .sub w h → exec (.sub e false) s = .next (out (a - b) (decide (x.du (fRs w) < x.du (fRt w))))) ∧
    (s.fetches e .neg w h → exec (.neg e false) s = .next (out (-a) x.c)) ∧
    (s.fetches e .abs w h → exec (.abs e false) s = .next (out (max a (-a)) x.c)) ∧
    (s.fetches e .min w h → exec (.min e false) s = .next (out (min a b) x.c)) ∧
    (s.fetches e .max w h → exec (.max e false) s = .next (out (max a b) x.c)) ∧
    (s.fetches e .addi w h →
      exec (.addi e false) s = .next (out (a + imm) (decide (2 ^ 48 ≤ x.du (fRs w) + (BitVec.ofInt 48 imm).toNat))))

/-- SHL, SHR, SHRR for k = 0-47 and SAT for k = 0-45: the result, Z, N and V, and for the shifts C, the last bit shifted
out and 0 for a shift of 0 (R229, R232, R239).
MOV in its three forms, MOVI and MOVHI: the register moved, no flag but V (and S) of MOV xi (R235, R239). -/
def Obligations.ShiftsClampAndMoves : Prop :=
  (∀ (s : State) (e : Fin 5) (w : Word) (h : Handler),
     let x := s.chip.dev.eng e.val
     let a := x.dv (fRs w)
     let k := fK w
     let src := SMap.get 0 x.d (fRs w)
     let out := fun (v : Int) (c : Bool) => s.ran e { x.saturating h 1 (fRd w) v with c := c }
     (s.fetches e .shl w h → k < 48 → exec (.shl e false) s = .next (out (a * 2 ^ k) (k != 0 && src.getLsbD (48 - k)))) ∧
     (s.fetches e .shr w h → k < 48 → exec (.shr e false) s = .next (out (a / 2 ^ k) (k != 0 && src.getLsbD (k - 1)))) ∧
     (s.fetches e .shrr w h → k < 48 → ∃ r, NearestEven a (2 ^ k) r ∧
       exec (.shrr e false) s = .next (out r (k != 0 && src.getLsbD (k - 1)))) ∧
     (s.fetches e .sat w h → k < 46 →
       let r := max (-(2 ^ (46 - k))) (min (2 ^ (46 - k) - 1) a)
       exec (.sat e false) s = .next (s.ran e { (x.setD (fRd w) r).past h 1 with
         z := decide (r = 0), n := decide (r < 0), v := decide (r ≠ a), s := x.s || decide (r ≠ a) }))) ∧
  (∀ (s : State) (e : Fin 5) (w : Word) (h : Handler),
     let x := s.chip.dev.eng e.val
     let a := SMap.get 0 x.d (fRs w)
     (s.fetches e .mov w h →
       exec (.mov e false) s = .next (s.ran e { x.past h 1 with d := SMap.set 0 x.d (fRd w) a })) ∧
     (s.fetches e .movFromX w h →
       exec (.movFromX e false) s =
         .next (s.ran e { x.past h 1 with d := SMap.set 0 x.d (fRd w) ((SMap.get 0 x.x (fRs w % 8)).setWidth 48) })) ∧
     (s.fetches e .movToX w h →
       let ov := decide (a.toInt < 0 ∨ 4095 < a.toInt)
       exec (.movToX e false) s =
         .next (s.ran e { x.past h 1 with x := SMap.set 0 x.x (fRd w % 8) (a.setWidth 12), v := ov, s := x.s || ov })) ∧
     (s.fetches e .movi w h →
       exec (.movi e false) s = .next (s.ran e
         { x.past h 1 with d := SMap.set 0 x.d (fRd w) ((BitVec.ofNat 16 (fImm16 w)).signExtend 48) })) ∧
     (s.fetches e .movhi w h → ∃ v : DWord,
       (∀ i < 48, v.getLsbD i = if 16 * fRs w ≤ i ∧ i < 16 * fRs w + 16 then Nat.testBit (fImm16 w) (i - 16 * fRs w)
         else (SMap.get 0 x.d (fRd w)).getLsbD i) ∧
       exec (.movhi e false) s = .next (s.ran e { x.past h 1 with d := SMap.set 0 x.d (fRd w) v })))

/-- MUL, MAC, MSU, SQA, ACLR, AADD and AMOV: one rounding of the exact product or quotient, ties to even; MUL and AMOV
saturate, the accumulators wrap modulo 2^96 (R232-R234, R240). -/
def Obligations.MultiplyAndAccumulate : Prop :=
  ∀ (s : State) (e : Fin 5) (w : Word) (h : Handler),
    let x := s.chip.dev.eng e.val
    let a := x.av (fAi w)
    let p := x.dv (fARs w)
    let q := x.dv (fARt w)
    (s.fetches e .mul w h → ∃ r, NearestEven (x.dv (fRs w) * x.dv (fRt w)) (2 ^ 46) r ∧
      exec (.mul e false) s = .next (s.ran e (x.saturating h 2 (fRd w) r))) ∧
    (s.fetches e .mac w h → ∃ r, NearestEven (p * q) (2 ^ 46) r ∧
      exec (.mac e false) s = .next (s.ran e (x.accumulating h 2 (fAi w) (a + r)))) ∧
    (s.fetches e .msu w h → ∃ r, NearestEven (p * q) (2 ^ 46) r ∧
      exec (.msu e false) s = .next (s.ran e (x.accumulating h 2 (fAi w) (a - r)))) ∧
    (s.fetches e .sqa w h → ∃ r, NearestEven (p * p) (2 ^ 46) r ∧
      exec (.sqa e false) s = .next (s.ran e (x.accumulating h 2 (fAi w) (a + r)))) ∧
    (s.fetches e .aclr w h →
      exec (.aclr e false) s = .next (s.ran e { x.past h 1 with a := SMap.set 0 x.a (fAi w) 0 })) ∧
    (s.fetches e .aadd w h → exec (.aadd e false) s = .next (s.ran e (x.accumulating h 1 (fAi w) (a + p)))) ∧
    (s.fetches e .amov w h → ∃ r, NearestEven a (2 ^ fAK w) r ∧
      exec (.amov e false) s = .next (s.ran e (x.saturating h 2 (fARs w) r)))

/-- DIV: the correctly rounded, saturated quotient; for a divisor of 0 the limit of the dividend's sign, or 0, with V
(R232, R233, R241).
SQRT: the correctly rounded root, V = 0; of a negative operand 0 with V = 1 (R232, R241).
CORD, vectoring: for an even rd the magnitude within 2^-40 (64 units) of the root of rs² + rt² goes to rd, saturated, and
an angle to rd + 1, both 0 where both operands are 0; Z and N describe rd, and V says that the magnitude saturated. Rotation:
both outputs are written, Z and N describe rd, and at the quarter turns
they lie within 2^-40 of the exact values (R230, R241). How the deviation inside the stated accuracy falls is
the model's free value (log entry 9). -/
def Obligations.DivisionRootAndCord : Prop :=
  (∀ (s : State) (e : Fin 5) (w : Word) (h : Handler), s.fetches e .div w h →
     let x := s.chip.dev.eng e.val
     let a := x.dv (fRs w)
     let b := x.dv (fRt w)
     (b ≠ 0 → ∃ r, NearestEven (a * 2 ^ 46 * b.sign) b.natAbs r ∧
       exec (.div e false) s = .next (s.ran e (x.saturating h 26 (fRd w) r))) ∧
     (b = 0 →
       let r := if 0 < a then 2 ^ 47 - 1 else if a < 0 then -(2 ^ 47) else 0
       exec (.div e false) s = .next (s.ran e
         { (x.setD (fRd w) r).past h 26 with z := decide (r = 0), n := decide (r < 0), v := true, s := true }))) ∧
  (∀ (s : State) (e : Fin 5) (w : Word) (h : Handler), s.fetches e .sqrt w h →
     let x := s.chip.dev.eng e.val
     let a := x.dv (fRs w)
     (0 ≤ a → ∃ r, NearestRoot (a * 2 ^ 46) r ∧ exec (.sqrt e false) s = .next (s.ran e
       { (x.setD (fRd w) r).past h 24 with z := decide (r = 0), n := false, v := false, s := x.s })) ∧
     (a < 0 → exec (.sqrt e false) s = .next (s.ran e
       { (x.setD (fRd w) 0).past h 24 with z := true, n := false, v := true, s := true }))) ∧
  (∀ (s : State) (e : Fin 5) (w : Word) (h : Handler), fRd w % 2 = 0 →
     let x := s.chip.dev.eng e.val
     let a := x.dv (fRs w)
     let b := x.dv (fRt w)
     (s.fetches e .cordVector w h → a = 0 → b = 0 →
       exec (.cordVector e false) s = .next (s.ran e
         { ((x.setD (fRd w) 0).setD (fRd w + 1) 0).past h 30 with z := true, n := false, v := false })) ∧
     (s.fetches e .cordVector w h → ¬(a = 0 ∧ b = 0) → ∃ (m root angle : Int),
       NearestRoot (a * a + b * b) root ∧ (m - root).natAbs ≤ 63 ∧ -(2 ^ 45) ≤ angle ∧ angle < 2 ^ 45 ∧
       exec (.cordVector e false) s = .next (s.ran e ((x.saturating h 30 (fRd w) m).setD (fRd w + 1) angle))) ∧
     (s.fetches e .cordRotate w h → ∃ (c sn : Int),
       (a % 2 ^ 46 = 0 → (c - 2 ^ 46).natAbs ≤ 64 ∧ sn.natAbs ≤ 64) ∧
       (a % 2 ^ 46 = 2 ^ 44 → c.natAbs ≤ 64 ∧ (sn - 2 ^ 46).natAbs ≤ 64) ∧
       (a % 2 ^ 46 = 2 ^ 45 → (c + 2 ^ 46).natAbs ≤ 64 ∧ sn.natAbs ≤ 64) ∧
       (a % 2 ^ 46 = 3 * 2 ^ 44 → c.natAbs ≤ 64 ∧ (sn + 2 ^ 46).natAbs ≤ 64) ∧
       exec (.cordRotate e false) s = .next (s.ran e ((x.saturating h 30 (fRd w) c).setD (fRd w + 1) sn))))

/-- IN of ports 0-7 and of FLAGI, FLAGQ and FINFO, and INQ of the companions, in a handler that processes a frame
(R227, R228, R242, R243).
TLD and TST with their post-increment, XLD and XADD with its wrap mask (R229, R235, R242, R244). -/
def Obligations.FrameTableAndIndexReads : Prop :=
  (∀ (s : State) (e : Fin 5) (w : Word) (h : Handler) (f : Frame), h.frame = some f →
     let x := s.chip.dev.eng e.val
     let p := fSel w
     (s.fetches e .inPort w h → p < 8 →
       exec (.inPort e false) s = .next (s.ran e (x.reading h (fR w) (f.ports.getD p 0 * 2 ^ 23)))) ∧
     (s.fetches e .inPort w h → p = 8 → exec (.inPort e false) s = .next (s.ran e (x.reading h (fR w) f.flagi.toNat))) ∧
     (s.fetches e .inPort w h → p = 9 → exec (.inPort e false) s = .next (s.ran e (x.reading h (fR w) f.flagq.toNat))) ∧
     (s.fetches e .inPort w h → p = 10 → exec (.inPort e false) s = .next (s.ran e (x.reading h (fR w) f.finfo.toNat))) ∧
     (s.fetches e .inq w h → p < 8 →
       exec (.inq e false) s = .next (s.ran e (x.reading h (fR w) (f.ports.getD (8 + p) 0 * 2 ^ 23))))) ∧
  (∀ (s : State) (e : Fin 5) (w : Word) (h : Handler),
     let x := s.chip.dev.eng e.val
     let i := fMXi w
     let addr := x.xv i + fDisp w
     let xs := if fMP w then SMap.set 0 x.x i (SMap.get 0 x.x i + 1) else x.x
     let word := SMap.get 0 x.table addr
     let j := fXXi w
     let imm := (BitVec.ofNat 12 (fImm12 w)).toInt
     (s.fetches e .tld w h → addr ≤ 2047 →
       exec (.tld e false false) s = .next (s.ran e
         { x.past h 2 with d := SMap.set 0 x.d (fR w) word, x := xs, z := decide (word = 0), n := word.msb })) ∧
     (s.fetches e .tst w h → addr ≤ 2047 → 64 * s.chip.dev.af (A.escEkCfg e.val) 4 0 ≤ addr →
       exec (.tst e false) s = .next (s.ran e
         { x.past h 2 with table := SMap.set 0 x.table addr (SMap.get 0 x.d (fR w)), x := xs })) ∧
     (s.fetches e .xld w h →
       let v := BitVec.ofNat 12 (fImm12 w)
       exec (.xld e false) s = .next (s.ran e { x.past h 1 with x := SMap.set 0 x.x j v, z := decide (v = 0), n := false })) ∧
     (s.fetches e .xadd w h → ∃ v : BitVec 12,
       (fXM w = 0 → (v.toNat : Int) = (x.xv j + imm) % 4096) ∧
       (fXM w ≠ 0 → v.toNat / 2 ^ fXM w = x.xv j / 2 ^ fXM w ∧
         ((v.toNat % 2 ^ fXM w : Nat) : Int) = (x.xv j + imm) % 2 ^ fXM w) ∧
       exec (.xadd e false) s = .next (s.ran e { x.past h 1 with x := SMap.set 0 x.x j v, z := decide (v = 0), n := false })))

/-- RES, RESA, PULSE and EVT stage: nothing but the running handler's stage, the program counter and the pace count changes
(R193, R242, R250, R251, R253). -/
def Obligations.StagingWaits : Prop :=
  ∀ (s : State) (e : Fin 5) (w : Word) (h : Handler),
    let x := s.chip.dev.eng e.val
    let n := fSel w
    let v := SMap.get 0 x.d (fR w)
    let a := SMap.get 0 x.a (fR w % 8)
    (s.fetches e .res w h →
      exec (.res e false) s = .next (s.ran e (x.staging h 2 { h.stage with res := h.stage.res ++ [(n, v)], resAny := true }))) ∧
    (s.fetches e .resa w h → n % 2 = 0 →
      exec (.resa e false) s = .next (s.ran e (x.staging h 3
        { h.stage with res := h.stage.res ++ [(n, a.extractLsb' 0 48), (n + 1, a.extractLsb' 48 48)], resAny := true }))) ∧
    (s.fetches e .pulse w h → n < 16 → (h.kind = .sample ∨ h.kind = .fault) →
      exec (.pulse e false) s = .next (s.ran e (x.staging h 3
        { h.stage with pulses := SMap.insert n ((SMap.find h.stage.pulses n).getD 0 + v.toInt) h.stage.pulses }))) ∧
    (s.fetches e .evt w h → h.stage.evts.length < 8 → ∃ r : StagedEvt,
      r.code = BitVec.ofNat 8 (fArg w / 2 ^ 7) ∧ r.payload = v.setWidth 32 ∧
      (∀ f, h.frame = some f → r.seq = f.seq) ∧ (h.frame = none → r.seq = x.hdone) ∧
      exec (.evt e false) s = .next (s.ran e (x.staging h 4 { h.stage with evts := h.stage.evts ++ [r] })))

/-- POST: with room one entry joins the queue and C = 0; with four entries nothing is queued and C = 1; in a handler whose posts
are discarded nothing is queued, with C = 0 (R216, R250, R252).
FLAG in its three forms, PACE and CYC: what each selection reads (R250, R254, R255). -/
def Obligations.PostsFlagsAndFigures : Prop :=
  (∀ (s : State) (e : Fin 5) (w : Word) (h : Handler), s.fetches e .post w h → fSel w < 32 →
     let x := s.chip.dev.eng e.val
     (x.mute h = false → x.postq.length < 4 → ∃ p : PostEntry,
       p.mb.val = fSel w ∧ p.w.val = fArg w / 2 ^ 11 ∧ p.go = Nat.testBit (fArg w) 10 ∧
       p.data = (SMap.get 0 x.d (fR w)).setWidth 32 ∧
       exec (.post e false) s = .next (s.ran e { x.past h 4 with postq := x.postq ++ [p], c := false })) ∧
     (x.mute h = false → 4 ≤ x.postq.length →
       exec (.post e false) s = .next (s.ran e { x.past h 4 with c := true })) ∧
     (x.mute h = true → exec (.post e false) s = .next (s.ran e { x.past h 4 with c := false }))) ∧
  (∀ (s : State) (e : Fin 5) (w : Word) (h : Handler),
     let x := s.chip.dev.eng e.val
     let d := s.chip.dev
     let v := SMap.get 0 x.d (fR w)
     let reads := fun (n : Nat) (y : Engine) (k : Nat) => s.ran e { y.past h n with d := SMap.set 0 x.d (fR w) (BitVec.ofNat 48 k) }
     let figs := match h.frame with | some f => f.figs | none => x.lastFigs
     (s.fetches e .flagClrs w h → exec (.flagClrs e false) s = .next (s.ran e { x.past h 1 with s := false })) ∧
     (s.fetches e .flagGetf w h → exec (.flagGetf e false) s =
       .next (reads 1 x (16 * x.s.toNat + 8 * x.z.toNat + 4 * x.n.toNat + 2 * x.v.toNat + x.c.toNat))) ∧
     (s.fetches e .flagPutf w h → exec (.flagPutf e false) s = .next (s.ran e { x.past h 1 with
       s := v.getLsbD 4, z := v.getLsbD 3, n := v.getLsbD 2, v := v.getLsbD 1, c := v.getLsbD 0 })) ∧
     (s.fetches e .pace w h →
       (fSel w = 0 → exec (.pace e false) s = .next (reads 2 x (h.paces + 2))) ∧
       (fSel w = 1 → exec (.pace e false) s = .next (reads 2 x (d.rf (A.escEkPace e.val) 15 0))) ∧
       (fSel w = 2 → exec (.pace e false) s = .next (reads 2 x d.boundNow)) ∧
       (fSel w = 3 → exec (.pace e false) s = .next (reads 2 { x with postRefused := 0 } (x.postq.length + 256 * x.postRefused))) ∧
       (fSel w = 4 → exec (.pace e false) s = .next (reads 2 x x.fifo.length))) ∧
     (s.fetches e .cyc w h →
       (fSel w = 0 → exec (.cyc e false) s = .next (reads 2 x figs.len)) ∧
       (fSel w = 1 → exec (.cyc e false) s = .next (reads 2 x figs.freq)) ∧
       (fSel w = 2 → exec (.cyc e false) s = .next (reads 2 x (figs.count % 2 ^ 32))) ∧
       (fSel w = 3 → exec (.cyc e false) s = .next (reads 2 x (figs.valid.toNat + 2 * figs.locked.toNat))) ∧
       (fSel w = 4 → exec (.cyc e false) s = .next (reads 2 x figs.frames))))

/-- BR, BRC, LOOP, CALL, RET above depth 0, and YIELD: where the program counter goes, the index register of LOOP, the call
stack; no flag and no other register changes (R191, R246-R248). -/
def Obligations.ControlFlow : Prop :=
  ∀ (s : State) (e : Fin 5) (w : Word) (h : Handler) (t : Nat),
    let x := s.chip.dev.eng e.val
    let goes := fun (n pc : Nat) => { x.past h n with pc := pc }
    let i := fC w
    let taken := (fC w = 0 ∧ x.z = true) ∨ (fC w = 1 ∧ x.z = false) ∨ (fC w = 2 ∧ x.n = true) ∨ (fC w = 3 ∧ x.n = false) ∨
      (fC w = 4 ∧ x.v = true) ∨ (fC w = 5 ∧ (SMap.get 0 x.d (fBRs w)).getLsbD (fB w) = true)
    (s.fetches e .br w h → 8 ≤ fTgt w → exec (.br e false) s = .next (s.ran e (goes 2 (fTgt w)))) ∧
    (s.fetches e .brc w h → (fC w = 5 → fB w < 48) → taken → 8 ≤ fTgt w →
      exec (.brc e false) s = .next (s.ran e (goes 2 (fTgt w)))) ∧
    (s.fetches e .brc w h → (fC w = 5 → fB w < 48) → ¬taken →
      exec (.brc e false) s = .next (s.ran e (goes 2 (x.pc + 1)))) ∧
    (s.fetches e .loop w h → x.xv i = 0 → exec (.loop e false) s = .next (s.ran e (goes 2 (x.pc + 1)))) ∧
    (s.fetches e .loop w h → x.xv i = 1 →
      exec (.loop e false) s = .next (s.ran e { goes 2 (x.pc + 1) with x := SMap.set 0 x.x i 0 })) ∧
    (s.fetches e .loop w h → 2 ≤ x.xv i → 8 ≤ fTgt w →
      exec (.loop e false) s = .next (s.ran e { goes 2 (fTgt w) with x := SMap.set 0 x.x i (SMap.get 0 x.x i - 1) })) ∧
    (s.fetches e .call w h → 8 ≤ fTgt w → x.stack.length < 8 →
      exec (.call e false) s = .next (s.ran e { goes 3 (fTgt w) with stack := ((x.pc + 1) % 4096) :: x.stack })) ∧
    (∀ (r : Nat) (rest : List Nat), s.fetches e .ret w h → h.base < x.stack.length → x.stack = r :: rest → 8 ≤ r →
      exec (.ret e false t) s = .next (s.ran e { goes 3 r with stack := rest })) ∧
    (s.fetches e .yield w h → (h.kind = .sample ∨ h.kind = .fault) →
      exec (.yield e false) s = .next (s.ran e (goes 1 (x.pc + 1)))) ∧
    (s.fetches e .yield w h → h.kind.background = true → x.fifo = [] →
      exec (.yield e false) s = .next (s.ran e { x.past h 1 with cur := some { h with paces := 0 } })) ∧
    (s.fetches e .yield w h → h.kind.background = true → x.fifo ≠ [] →
      exec (.yield e false) s = .next (s.ran e { x.past h 1 with
        cur := none
        susp := some { h := { h with paces := h.paces + 1 }, pc := x.pc + 1, z := x.z, n := x.n, v := x.v, c := x.c } }))

/-- An instruction that would take the pace count above the declared figure has none of its effects and raises PACE, code 6,
with its address in ESC_Ek_FAULT.PC (R200, R256, R257).
No parity error is met: MEMERR comes first.
TRAP raises the fault TRAP, code 7: it is the effect of the instruction. Outside FAULT the code and the address stand in
ESC_Ek_FAULT, no register of the engine changes, the handler ends, and with a FAULT entry the engine is FAULTING with its FAULT
handler pending, without one FAULTED (R213, R246, R256). Inside FAULT it sets NESTED with its code in CODE2, PC takes its address, and
the engine is FAULTED (R256).
A word that is no encoding raises OPCODE, code 1, whatever instruction is commanded; a fetch past word 4095 raises PCRANGE,
code 2, with PC 0; a fetch with a parity error raises MEMERR, code 11 (R212, R237, R249, R257). -/
def Obligations.EngineFaults : Prop :=
  (∀ (s : State) (e : Fin 5) (o : Op) (w : Word) (h : Handler) (t : Nat),
     s.standsAt e o w h → s.chip.dev.paceLimit e.val < h.paces + o.paces →
       exec (o.command e t) s = .next { s with chip := s.chip.onDev fun d => d.engFault e.val 6 (s.chip.dev.eng e.val).pc }) ∧
  ((∀ (s : State) (e : Fin 5) (w : Word) (h : Handler), s.fetches e .trap w h → h.kind = .fault →
     let x := s.chip.dev.eng e.val
     ∃ t, exec (.trap e false) s = .next t ∧ (t.chip.dev.eng e.val).st = .faulted ∧
       t.chip.dev.rb (A.escEkFault e.val) 31 = true ∧ t.chip.dev.rf (A.escEkFault e.val) 27 24 = 7 ∧
       t.chip.dev.rf (A.escEkFault e.val) 11 0 = x.pc ∧ (t.chip.dev.eng e.val).d = x.d ∧ t.chip.nvm = s.chip.nvm) ∧
   (∀ (s : State) (e : Fin 5) (w : Word) (h : Handler), s.fetches e .trap w h → h.kind ≠ .fault →
     let x := s.chip.dev.eng e.val
     ∃ t, exec (.trap e false) s = .next t ∧
       let y := t.chip.dev.eng e.val
       y.d = x.d ∧ y.a = x.a ∧ y.x = x.x ∧ y.table = x.table ∧ y.results = x.results ∧ y.postq = x.postq ∧
       y.cur = none ∧ y.susp = none ∧
       (x.entryOn 5 = true → y.st = .faulting ∧ y.evFault = true) ∧ (x.entryOn 5 = false → y.st = .faulted) ∧
       t.chip.nvm = s.chip.nvm ∧ t.pending = s.pending)) ∧
  (∀ (s : State) (e : Fin 5) (h : Handler),
     let x := s.chip.dev.eng e.val
     let faults := fun (code pc : Nat) => { s with chip := s.chip.onDev fun d => d.engFault e.val code pc }
     s.chip.dev.held = false → s.chip.dev.on 5 = true → x.cur = some h →
       (x.pc < 4096 → decodeOp (SMap.get 0 x.prog x.pc) = none → ∀ (o : Op) (t : Nat),
         exec (o.command e t) s = .next (faults 1 x.pc)) ∧
       (4096 ≤ x.pc → ∀ (o : Op) (t : Nat), exec (o.command e t) s = .next (faults 2 0)) ∧
       (x.pc < 4096 → exec (.add e true) s = .next (faults 11 x.pc)))

/-- The encodings are unambiguous: no word is an encoding of two rows of the table (R236-R238).
A handler's fields are read from any word an encoder of R236 builds: for every rd, rs and rt the word of ADD decodes to ADD
with those registers, and the word of MOVHI with p = 2 to MOVHI with its register and immediate (R236, R239). -/
def Obligations.InstructionEncodings : Prop :=
  (∀ (w : Word) (r r' : OpRow), r ∈ opRowsArith ++ opRowsOther → r' ∈ opRowsArith ++ opRowsOther →
     r.holds w = true → r'.holds w = true → r.op = r'.op ∧ r.major = r'.major ∧ r.used = r'.used ∧ r.fixed = r'.fixed) ∧
  ((∀ rd rs rt : Fin 32,
     let w := BitVec.ofNat 32 (0x04000000 + rd.val * 2 ^ 21 + rs.val * 2 ^ 16 + rt.val * 2 ^ 11)
     decodeOp w = some .add ∧ fRd w = rd.val ∧ fRs w = rs.val ∧ fRt w = rt.val) ∧
   (∀ (rd : Fin 32) (imm : Fin 65536),
     let w := BitVec.ofNat 32 (0x10020000 + rd.val * 2 ^ 21 + imm.val)
     decodeOp w = some .movhi ∧ fRd w = rd.val ∧ fRs w = 2 ∧ fImm16 w = imm.val))

/-! ## Converter channels, filter chains, events (02, 03, 08) -/

/-- EVT_CMD.POP takes the oldest record, FLUSH all; NONEMPTY follows (R315). HRM_CMD.BLKSYNC binds a block sync to the next
boundary a request can reach, one at most (R306, R318). FLT_SYNC.GO on the chain master makes one more sync instant due (R125,
R568); on a member it is refused with REFUSED (R549).
CNV_RETCMD on a channel whose bank is on binds the retirement or the restore to the next boundary a request can reach;
with the bank off the retirement record alone changes, and never loses the last slice (log entry 13); SLICE code 3 with the
bank on is ignored with CMDERR (R76-R78, R80, R81). MEASOFS of a channel in two-slice mode is bound (R79). -/
def Obligations.EventSyncAndSliceOrders : Prop :=
  (∀ (s : State) (m : Master),
     (let f := fun w => setBit w 0 true
      s.lets m A.evtCmd f → exec (.evtPop m) s = .next (s.took m A.evtCmd f fun d =>
        { d with evt := { d.evt with fifo := d.evt.fifo.drop 1 } }.putBit A.evtStat 3 (decide (2 ≤ d.evt.fifo.length)))) ∧
     (let f := fun w => setBit w 1 true
      s.lets m A.evtCmd f → exec (.evtFlush m) s = .next (s.took m A.evtCmd f fun d =>
        { d with evt := { d.evt with fifo := [] } }.putBit A.evtStat 3 false)) ∧
     (let f := fun w => setBit w 0 true
      let n := (s.loaded m A.hrmCmd f).nextBoundary
      s.lets m A.hrmCmd f →
        ((n, Bind.blkSync) ∉ (s.loaded m A.hrmCmd f).bound →
          exec (.blksync m) s = .next (s.took m A.hrmCmd f fun d => { d with bound := d.bound ++ [(n, .blkSync)] })) ∧
        ((n, Bind.blkSync) ∈ (s.loaded m A.hrmCmd f).bound →
          exec (.blksync m) s = .next (s.took m A.hrmCmd f fun d => d))) ∧
     (let f := fun w => setBit w 0 true
      s.lets m A.fltSync f →
        (s.chip.dev.fuses.id = 0#3 → s.chip.dev.modOn = true →
          exec (.fltSyncGo m) s = .next (s.took m A.fltSync f fun d => { d with syncDue := d.syncDue + 1 })) ∧
        (s.chip.dev.fuses.id ≠ 0#3 → exec (.fltSyncGo m) s = .next (s.took m A.fltSync f fun d => d.raiseSq A.fltStat 0x4)))) ∧
  (∀ (s : State) (m : Master) (ch : Fin 18) (sl : Fin 4),
     let f := fun (op : Nat) (w : Word) => setFld (setFld (setFld (setBit w 8 true) 7 7 op) 6 5 sl.val) 4 0 ch.val
     let i : Fin 3 := Fin.ofNat 3 sl.val
     let d := fun op => s.loaded m A.cnvRetcmd (f op)
     let others := fun (op : Nat) => slicesAll.filter fun j => j != i && !(d op).retired ch.val j
     (s.lets m A.cnvRetcmd (f 0) → sl.val < 3 → (d 0).chanOn ch.val = true →
       exec (.cnvRetire m ch.val sl.val) s = .next (s.took m A.cnvRetcmd (f 0) fun d => d.bind (.retire ch i))) ∧
     (s.lets m A.cnvRetcmd (f 0) → sl.val < 3 → (d 0).chanOn ch.val = false → others 0 ≠ [] →
       exec (.cnvRetire m ch.val sl.val) s = .next (s.took m A.cnvRetcmd (f 0) fun d => d.setRetired ch.val i true)) ∧
     (s.lets m A.cnvRetcmd (f 0) → sl.val < 3 → (d 0).chanOn ch.val = false → others 0 = [] →
       exec (.cnvRetire m ch.val sl.val) s = .next (s.took m A.cnvRetcmd (f 0) fun d => d)) ∧
     (s.lets m A.cnvRetcmd (f 1) → sl.val < 3 → (d 1).chanOn ch.val = true →
       exec (.cnvRestore m ch.val sl.val) s = .next (s.took m A.cnvRetcmd (f 1) fun d => d.bind (.restore ch i))) ∧
     (s.lets m A.cnvRetcmd (f 1) → sl.val < 3 → (d 1).chanOn ch.val = false →
       exec (.cnvRestore m ch.val sl.val) s = .next (s.took m A.cnvRetcmd (f 1) fun d => d.setRetired ch.val i false)) ∧
     (s.lets m A.cnvRetcmd (f 0) → sl.val = 3 → (d 0).chanOn ch.val = true →
       exec (.cnvRetire m ch.val sl.val) s = .next (s.took m A.cnvRetcmd (f 0) fun d => d.raiseSq (A.cnvCHkStat ch.val) 0x40)) ∧
     (let g := fun w => setBit w 0 true
      s.lets m (A.cnvCHkCmd ch.val) g → ((s.loaded m (A.cnvCHkCmd ch.val) g).chan ch.val).mode = 1 →
        exec (.measofs m ch) s = .next (s.took m (A.cnvCHkCmd ch.val) g fun d => d.bind (.measofs ch))))

/-- The bandgap comparison: COMPARE sets RUNNING; its end stores the difference with VALID and sets DONE (R92). SWAP with a
valid difference and no comparison running is bound, once to a boundary; 60 s after the latest COMPARE VALID clears (R93).
A clamp current in a bank that is on shows in CNV_CLAMP; when it stops, the bank's channels carry DISTURB for two more
samples (R88, R89).
The end of a crossfade, with 64 MOD clocks since m0, leaves no channel in one; the end of an offset window stores the offset, 2^-20
packet from the sum of its 32 768 packets, saturated to 24 bits, in the resting slice, and no other slice changes (R63, R74). -/
def Obligations.SliceMonitorsAndRotation : Prop :=
  ((∀ (s : State) (m : Master),
     let f := fun w => setBit w 0 true
     s.lets m A.cnvRefcmd f →
       exec (.bandgapCompare m) s = .next (s.took m A.cnvRefcmd f fun d => d.putBit A.cnvRefstat 4 true)) ∧
   (∀ (s : State) (m : Master),
     let f := fun w => setBit w 1 true
     s.lets m A.cnvRefcmd f → (s.loaded m A.cnvRefcmd f).rb A.cnvRefdiff 31 = true →
       (s.loaded m A.cnvRefcmd f).rb A.cnvRefstat 4 = false →
       let n := (s.loaded m A.cnvRefcmd f).nextBoundary
       ((n, Bind.bgSwap) ∉ (s.loaded m A.cnvRefcmd f).bound →
         exec (.bandgapSwap m) s = .next (s.took m A.cnvRefcmd f fun d => { d with bound := d.bound ++ [(n, .bgSwap)] })) ∧
       ((n, Bind.bgSwap) ∈ (s.loaded m A.cnvRefcmd f).bound →
         exec (.bandgapSwap m) s = .next (s.took m A.cnvRefcmd f fun d => d))) ∧
   (∀ (s : State) (diff : Int), s.chip.dev.held = false → s.chip.dev.rb A.cnvRefstat 4 = true → -(2 ^ 23) ≤ diff → diff < 2 ^ 23 →
     ∃ t, exec (.bandgapCompareDone diff) s = .next t ∧ t.chip.dev.rb A.cnvRefstat 4 = false ∧
       t.chip.dev.rb A.cnvRefstat 0 = true ∧ t.chip.dev.rb A.cnvRefdiff 31 = true ∧
       sextN 24 (t.chip.dev.rf A.cnvRefdiff 23 0) = diff ∧ t.chip.nvm = s.chip.nvm) ∧
   (∀ s : State, s.chip.dev.held = false →
     exec .refdiffExpire s = .next (s.to (s.chip.dev.putBit A.cnvRefdiff 31 false)))) ∧
  (∀ (s : State) (b : Fin 3), s.chip.dev.held = false →
     (s.chip.dev.on (b.val + 2) = true →
       exec (.clampDetect b) s = .next (s.to (s.chip.dev.putBit A.cnvClamp b.val true))) ∧
     (s.chip.dev.rb A.cnvClamp b.val = true → ∃ t, exec (.clampCurrentStops b) s = .next t ∧
       t.chip.dev.rb A.cnvClamp b.val = false ∧
       (∀ k < 18, bankOf k = b.val → (t.chip.dev.chan k).distTail = 2) ∧ t.chip.nvm = s.chip.nvm)) ∧
  ((∀ s : State, s.chip.dev.held = false → (∀ (k : Nat) (x : Xfade), (s.chip.dev.chan k).xfade = some x → 64 ≤ x.k) →
     ∃ t, exec (.crossfadeEnd []) s = .next t ∧ (∀ k, (t.chip.dev.chan k).xfade = none) ∧
       (∀ (k : Nat) (i : Fin 3), (t.chip.dev.chan k).slice i = (s.chip.dev.chan k).slice i) ∧ t.chip.nvm = s.chip.nvm) ∧
   (∀ (s : State) (ch : Fin 18) (sum : Int) (i : Fin 3) (n : Nat),
     s.chip.dev.held = false → s.chip.dev.chanOn ch.val = true →
     (s.chip.dev.chan ch.val).inRole .resting = [i] → ((s.chip.dev.chan ch.val).slice i).rest = some (n, sum) → 33088 ≤ n →
     ∃ t, exec (.offsetMeasured ch []) s = .next t ∧
       ((t.chip.dev.chan ch.val).slice i).ofs = max (-(2 ^ 23)) (min (2 ^ 23 - 1) (sum * 32)) ∧
       ((t.chip.dev.chan ch.val).slice i).ofsValid = true ∧
       (∀ j, j ≠ i → (t.chip.dev.chan ch.val).slice j = (s.chip.dev.chan ch.val).slice j) ∧
       (∀ k, k ≠ ch.val → t.chip.dev.chan k = s.chip.dev.chan k) ∧ t.chip.nvm = s.chip.nvm))

/-- An output instant of the frame preset takes the marks of the boundary, the block, the second and the swap with it, so that one
frame carries each; where it is the last one before the predicted tick 0, later requests bind to the boundary after the next (R23, R40,
R184). Another output instant builds no frame and leaves the marks (R130). A sync instant that is due clears the decimator counter and
every integrator and comb of the channels that are on, and sets SYNCDONE (R126).
The second marks the frame to come while CK2 XTM runs, and tick 512 does, once in a cycle (R42, R298, R311); a lock that has met
no crossing for 424 056 periods of CK2 XTM is lost, and CYC goes on at the nominal frequency; otherwise the time limit changes nothing
(R44, R295).
CYC tick 0 with CYC free-running, nothing bound or staged and PD2-PD7 off: it falls where the nominal frequency puts it, the cycle
counter advances, the request cut-off reopens, CLK_CYCLEN and CLK_CYCFREQ hold the nominal figures with VALID = 0, and the frame to come
is a boundary frame (R38, R40, R44, R255). While CK2 XTM stands still there is no tick (R484). -/
def Obligations.MarksAndBoundaries : Prop :=
  ((∀ (s : State) (i : Instant), s.chip.dev.held = false → s.chip.dev.modOn = true →
     (instantAt s.chip.dev.framePreset (s.chip.dev.modCnt + i.clk.length) = true → ∃ t, exec (.outputInstant i) s = .next t ∧
       t.chip.dev.cycMark = false ∧ t.chip.dev.blkMark = false ∧ t.chip.dev.secMark = false ∧ t.chip.dev.swpMark = [] ∧
       t.chip.dev.halfMark = false ∧ (t.chip.dev.isCutoff i.t = true → t.chip.dev.cutoffPassed = true) ∧ t.chip.nvm = s.chip.nvm ∧
       t.pending = s.pending) ∧
     (instantAt s.chip.dev.framePreset (s.chip.dev.modCnt + i.clk.length) = false → ∃ t, exec (.outputInstant i) s = .next t ∧
       t.chip.dev.cycMark = s.chip.dev.cycMark ∧ t.chip.dev.frameSeq = s.chip.dev.frameSeq ∧ t.chip.nvm = s.chip.nvm)) ∧
   (∀ (s : State) (clk : List ModClock), s.chip.dev.held = false → s.chip.dev.modOn = true → 0 < s.chip.dev.syncDue →
     ∃ t, exec (.syncInstant clk) s = .next t ∧ t.chip.dev.modCnt = 0 ∧ t.chip.dev.syncDue = s.chip.dev.syncDue - 1 ∧
       (∀ k < 18, s.chip.dev.chanOn k = true → (t.chip.dev.chan k).integ = [] ∧ (t.chip.dev.chan k).combs = []) ∧
       t.chip.dev.rb A.fltStat 1 = true ∧ t.chip.nvm = s.chip.nvm)) ∧
  (∀ s : State, s.chip.dev.held = false →
     (s.chip.dev.xtmOk = true → exec .secondBoundary s = .next (s.to { s.chip.dev with secMark := true })) ∧
     (s.chip.dev.xtmOk = true → s.chip.dev.cycHigh = true →
       exec .cycTick512 s = .next (s.to { s.chip.dev with halfMark := true, cycHigh := false })) ∧
     (s.chip.dev.cycHigh = false → exec .cycTick512 s = .next s) ∧
     (s.chip.dev.locked = false → ∀ t, exec (.lockLossTimeout t) s = .next s) ∧
     (∀ (x t : Nat), s.chip.dev.fll.lastX = some x → s.chip.dev.locked = true → x + 424056 ≤ t →
       ∃ u, exec (.lockLossTimeout t) s = .next u ∧ u.chip.dev.locked = false ∧ u.chip.dev.fll.run = 0 ∧
         u.chip.dev.fll.lockedAll = false ∧ u.chip.dev.fll.period = (if s.chip.dev.nom60 then 273067 else 327680) ∧
         u.chip.dev.rb A.clkCycstat 1 = true ∧ u.chip.nvm = s.chip.nvm)) ∧
  (∀ (s : State) (b : Boundary), s.chip.dev.held = false →
     (s.chip.dev.xtmOk = false → exec (.cycleBoundary b) s = .next s) ∧
     (s.chip.dev.xtmOk = true → s.chip.dev.locked = false →
     s.chip.dev.bound = [] → s.chip.dev.staged = [] → (∀ n, 2 ≤ n → n ≤ 7 → s.chip.dev.on n = false) →
     s.chip.dev.relief = #v[Relief.idle, Relief.idle] → s.chip.dev.cal = none → s.chip.dev.rlState 0 = 0 → s.chip.dev.rlState 1 = 0 →
     s.chip.dev.er = EngineRelief.zero →
     ∃ t, exec (.cycleBoundary b) s = .next t ∧ t.chip.dev.cycN = s.chip.dev.cycN + 1 ∧ t.chip.dev.cutoffPassed = false ∧
       t.chip.dev.cycMark = true ∧ t.chip.dev.framesPrev = s.chip.dev.framesCyc ∧ t.chip.dev.framesCyc = 0 ∧
       t.chip.dev.reg A.clkCyclen = wd (if s.chip.dev.nom60 then 273067 else 327680) ∧
       t.chip.dev.fll.tick0 = s.chip.dev.fll.due ∧
       t.chip.dev.fll.due = s.chip.dev.fll.due + (if s.chip.dev.nom60 then 273067 else 327680) ∧
       t.chip.dev.reg A.clkCycfreq = wd ((if s.chip.dev.nom60 then 60 else 50) * 65536) ∧ t.chip.nvm = s.chip.nvm))

/-- The harmonic results of the oldest waiting cycle are posted once 12 frames after its end are in, with the cycle's count and
length and CYCNEW; those of a closed block with the next BSEQ, BLKNEW, and TRUNC where it was cut short (R304, R306, R310). -/
def Obligations.HarmonicPosts : Prop :=
  ∀ (s : State) (g : Fin 4), s.chip.dev.held = false →
    (∀ (c : HCyc) (rest : List HCyc), (s.chip.dev.hrm g.val).wait = c :: rest →
      12 ≤ ((s.chip.dev.hrm g.val).pts.filter fun p => decide (c.t1 ≤ p.t)).length →
      ∃ t, exec (.hrmCyclePost g) s = .next t ∧ (t.chip.dev.hrm g.val).wait = rest ∧
        t.chip.dev.reg (A.hrmGgCseq g.val) = wd c.count ∧ t.chip.dev.reg (A.hrmGgClen g.val) = wd c.len ∧
        bit (t.chip.dev.reg (A.hrmGgCinfo g.val)) 31 = c.valid ∧ (t.chip.dev.hrm g.val).blkSeq = (s.chip.dev.hrm g.val).blkSeq ∧
        (c.ends = 0 → (t.chip.dev.hrm g.val).block = (s.chip.dev.hrm g.val).block ++ [c.transform (s.chip.dev.hrm g.val).pts]) ∧
        (∀ k, k ≠ g.val → t.chip.dev.hrm k = s.chip.dev.hrm k) ∧
        t.chip.dev.rb (A.hrmGgStat g.val) 0 = true ∧ t.chip.nvm = s.chip.nvm) ∧
    (∀ (b : List HRes) (trunc : Bool), (s.chip.dev.hrm g.val).blkWait = some (b, trunc) →
      ∃ t, exec (.hrmBlockPost g) s = .next t ∧ (t.chip.dev.hrm g.val).blkWait = none ∧
        (t.chip.dev.hrm g.val).blkSeq = ((s.chip.dev.hrm g.val).blkSeq + 1) % 2 ^ 32 ∧
        t.chip.dev.reg (A.hrmGgBseq g.val) = wd (((s.chip.dev.hrm g.val).blkSeq + 1) % 2 ^ 32) ∧
        t.chip.dev.reg (A.hrmGgBlen g.val) = wd ((b.map (·.len)).sum) ∧ (∀ k, k ≠ g.val → t.chip.dev.hrm k = s.chip.dev.hrm k) ∧
        (trunc = true → (t.chip.dev.hrm g.val).page = (s.chip.dev.hrm g.val).page) ∧
        t.chip.dev.rb (A.hrmGgStat g.val) 1 = true ∧ (trunc = true → t.chip.dev.rb (A.hrmGgStat g.val) 2 = true) ∧
        t.chip.nvm = s.chip.nvm)

/-! ## Relief, patrol and calibration (04) -/

/-- START of a unit that is in IDLE or PATROL, with no START bound, on a channel that is present with its bank and PD2 on, neither about to go off, and is
no target, is bound with its MATCHCYC and AUTOSWAP; SWAP in ARMED or RARMED binds the swap; RETURN in RELIEVED with the
target's settings as the job has them is bound; ABORT of a handover, PATROL from IDLE and PSTOP from PATROL are bound (R140-R142,
R148, R157, R162, R163, R167).
The refusals of RELIEF_START and SWAP leave everything but CNV_RLx_STAT as it is: CAUSE 5 in another state, 3 for a channel without power or about to lose it, 4 for one that is a target, 8 for a SWAP after a disagreement without FORCE (R139,
R140, R148).
A handover whose window has run past its limit aborts with CAUSE 10 and ABORTED, and leaves its window at the next boundary
a request can reach; the unit's other state is unchanged (R144). -/
def Obligations.ReliefCommands : Prop :=
  (∀ (s : State) (m : Master) (u : Fin 2) (cyc : Fin 256) (auto force : Bool),
     let a := A.cnvRLxCmd u.val
     (∀ k : Fin 16, let f := fun w => setFld (setFld (setBit (goOp 1 w) 27 auto) 20 16 k.val) 15 8 cyc.val
       let d := s.loaded m a f
       s.lets m a f → (d.rlState u = 0 ∨ d.rlState u = 8) → d.startBound u = false → d.chanOn k.val = true → d.on 2 = true →
         d.goesOff 2 = false → d.goesOff (bankDom k.val) = false → d.isTarget k.val = false →
         exec (.reliefStart m u k.val cyc.val auto) s = .next (s.took m a f fun d => d.bind (.rlStart u k cyc.val auto))) ∧
     (let f := fun w => setBit (goOp 2 w) 26 force
      let d := s.loaded m a f
      s.lets m a f → (d.rlState u = 3 ∨ d.rlState u = 7) →
        (force = true ∨ (d.rb (A.cnvRLxStat u) 5 = false ∧ d.rb (A.cnvRLxStat u) 6 = false)) →
        ((∀ e ∈ d.bound, e.2 ≠ Bind.rlSwap u) →
          exec (.reliefSwap m u force) s = .next (s.took m a f fun d => d.bind (.rlSwap u))) ∧
        (∀ e ∈ d.bound, e.2 = Bind.rlSwap u → exec (.reliefSwap m u force) s = .next (s.took m a f fun d => d))) ∧
     (let f := fun w => setFld (setBit (goOp 3 w) 27 auto) 15 8 cyc.val
      let d := s.loaded m a f
      let own := d.ownCfg (d.rlTarget u)
      let job := d.chCfg (16 + u.val)
      s.lets m a f → d.rlState u = 4 → own.preset = job.preset → own.rank = job.rank → own.resp = job.resp →
        exec (.reliefReturn m u cyc.val auto) s = .next (s.took m a f fun d =>
          (d.unbindHere fun b => match b with | .rlReturn v _ _ => v == u | _ => false).bind (.rlReturn u cyc.val auto))) ∧
     (let f := goOp 4
      s.lets m a f → (1 ≤ (s.loaded m a f).rlState u ∧ (s.loaded m a f).rlState u ≤ 7 ∧ (s.loaded m a f).rlState u ≠ 4) →
        exec (.reliefAbort m u) s = .next (s.took m a f fun d => d.bind (.rlAbort u))) ∧
     (let f := goOp 5
      s.lets m a f → (s.loaded m a f).rlState u = 0 →
        exec (.patrol m u) s = .next (s.took m a f fun d => d.bind (.rlPatrol u))) ∧
     (let f := goOp 6
      s.lets m a f → (s.loaded m a f).rlState u = 8 →
        exec (.pstop m u) s = .next (s.took m a f fun d => d.bind (.rlPstop u)))) ∧
  (∀ (s : State) (m : Master) (u : Fin 2) (cyc : Fin 256) (auto : Bool),
     let a := A.cnvRLxCmd u.val
     let refused := fun (f : Word → Word) (cause : Nat) =>
       s.took m a f fun d => (d.putFld (A.cnvRLxStat u.val) 19 16 cause).raiseSq (A.cnvRLxStat u.val) 0x4
     (∀ k : Fin 16, let f := fun w => setFld (setFld (setBit (goOp 1 w) 27 auto) 20 16 k.val) 15 8 cyc.val
       let d := s.loaded m a f
       s.lets m a f →
         ((d.rlState u ≠ 0 ∧ d.rlState u ≠ 8) → exec (.reliefStart m u k.val cyc.val auto) s = .next (refused f 5)) ∧
         ((d.rlState u = 0 ∨ d.rlState u = 8) → d.startBound u = false → d.fuses.chan k.val = true →
           ((d.chanOn k.val && d.on 2) = false ∨ d.goesOff 2 = true ∨ d.goesOff (bankDom k.val) = true) → exec (.reliefStart m u k.val cyc.val auto) s = .next (refused f 3)) ∧
         ((d.rlState u = 0 ∨ d.rlState u = 8) → d.startBound u = false → d.chanOn k.val = true → d.on 2 = true →
           d.goesOff 2 = false → d.goesOff (bankDom k.val) = false → d.isTarget k.val = true → exec (.reliefStart m u k.val cyc.val auto) s = .next (refused f 4))) ∧
     (let f := fun w => setBit (goOp 2 w) 26 false
      let d := s.loaded m a f
      s.lets m a f → (d.rlState u = 3 ∨ d.rlState u = 7) → (d.rb (A.cnvRLxStat u) 5 || d.rb (A.cnvRLxStat u) 6) = true →
        exec (.reliefSwap m u false) s = .next (refused f 8))) ∧
  (∀ (s : State) (u : Fin 2), s.chip.dev.held = false →
     let d := s.chip.dev
     let r := d.unit u.val
     (d.rlState u.val = 2 ∨ d.rlState u.val = 6) → 4 * max 4 r.matchcyc + 8 ≤ r.sinceB1 →
       (∀ e ∈ d.bound, e.2 ≠ Bind.rlTimeout u) →
       exec (.reliefTimeout u) s = .next (s.to
         (((d.putFld (A.cnvRLxStat u.val) 19 16 10).raiseSq (A.cnvRLxStat u.val) 0x8).bind (.rlTimeout u))))

/-- ZERO and FULL of a calibration on a channel that is present with its bank on, no step running, no short across a slot in
use, and for FULL a zero point: the step waits for its boundary in state 1 with RESTARTS cleared (R171, R172, R179). ABORT ends
the step with CAUSE 10; past its limit a running step ends with CAUSE 7 (R174). REBASE drops the references of the units named
(R165). -/
def Obligations.CalibrationOrders : Prop :=
  ∀ (s : State) (m : Master),
    let a := A.cnvCalcmd
    let starts := fun (d : Dev) (full short dc : Bool) (k : Fin 16) (n : Nat) =>
      (((({ d with cal := some ⟨full, k, short, dc, Nat.max 1 n, false, 0, 0, 0, ⟨0, 1⟩, ⟨0, 1⟩, false⟩ } : Dev).putFld
        A.cnvCalstat 23 20 1).putFld A.cnvCalinfo 31 16 0).bind .cal)
    (∀ (k : Fin 16) (short : Bool) (n : Fin 256),
      let f := fun w => setFld (setFld (setBit (goOp 1 w) 27 short) 20 16 k.val) 15 8 n.val
      let d := s.loaded m a f
      s.lets m a f → d.chanOn k.val = true → d.cal = none → (short = true → ∀ x ∈ d.slots, x.val ≠ k.val) →
        exec (.calZero m k.val short n.val) s = .next (s.took m a f fun d =>
          starts d false short (bit (f (s.chip.dev.plain a)) 26) k n.val)) ∧
    (∀ (k : Fin 16) (dc : Bool) (n : Fin 256),
      let f := fun w => setFld (setFld (setBit (goOp 2 w) 26 dc) 20 16 k.val) 15 8 n.val
      let d := s.loaded m a f
      s.lets m a f → d.chanOn k.val = true → d.cal = none → (SMap.find d.calZeros k.val).isSome = true →
        exec (.calFull m k.val dc n.val) s = .next (s.took m a f fun d => starts d true false dc k n.val)) ∧
    (let f := goOp 3
     s.lets m a f → (s.loaded m a f).cal.isSome = true → ∃ t, exec (.calAbort m) s = .next t ∧ t.chip.dev.cal = none ∧
       t.chip.dev.rf A.cnvCalstat 23 20 = 0 ∧ t.chip.dev.rf A.cnvCalstat 19 16 = 10 ∧ t.chip.dev.rb A.cnvCalstat 2 = true ∧
       (∀ x ∈ t.chip.dev.bound, x.2 ≠ .cal)) ∧
    (∀ (x y : Bool), let f := fun w => setBit (setBit w 0 x) 1 y
     s.lets m A.cnvPtrlCmd f → ∃ t, exec (.rebase m x y) s = .next t ∧
       (x = true → (t.chip.dev.unit 0).refs = []) ∧ (y = true → (t.chip.dev.unit 1).refs = []) ∧
       (x = false → t.chip.dev.unit 0 = (s.loaded m A.cnvPtrlCmd f).unit 0) ∧
       (y = false → t.chip.dev.unit 1 = (s.loaded m A.cnvPtrlCmd f).unit 1)) ∧
    (∀ c : CalUnit, s.chip.dev.held = false → s.chip.dev.cal = some c → c.running = true → 4 * c.ncyc + 8 ≤ c.since →
      ∃ t, exec .calTimeout s = .next t ∧ t.chip.dev.cal = none ∧ t.chip.dev.rf A.cnvCalstat 19 16 = 7 ∧
        t.chip.dev.rb A.cnvCalstat 2 = true ∧ t.chip.nvm = s.chip.nvm)

/-! ## Engines, engine relief, pulses and updates (05, 07, 10) -/

/-- ADMIT of E0-E3 in IDLE with a measured pace, a dispatch table that R188 allows, declared figures that fit at the frame preset
and at a preset that is staged, and no change of role of its group pending: ARMED with ADMITTED, bound to the next boundary a request can reach (R209, R211). STOP of an ARMED
engine cancels the ADMIT; of a RUNNING one whose groups are all on BASE it is bound (R210). CLEAR of a FAULTED or RELEASED engine
gives IDLE with the start state and a new epoch (R211, R231).
The refusals of ADMIT in the order of R209: CAUSE 4 unless E0-E3 in IDLE, then 2 without a measured pace, 5 for a dispatch
table that R188 forbids, 3 for figures that do not fit at the frame preset or at one that is staged (R222), 7 for a change of role pending; nothing but ESC_Ek_STAT changes. -/
def Obligations.EngineCommands : Prop :=
  (∀ (s : State) (m : Master) (e : Fin 5),
     let a := A.escEkCmd e.val
     (let d := s.loaded m a (goOp 1)
      s.lets m a (goOp 1) → e ≠ 4 → (d.eng e.val).st = .idle → d.rb (A.escEkStat e.val) 15 = true →
        (d.eng e.val).tableBad = false → (∀ p ∈ d.presetsDue, d.declared e.val ≤ admitA p d.boundNow) → d.rolePending e.val = false →
        exec (.admitEngine m e) s = .next (s.took m a (goOp 1) fun d =>
          (((d.modEng e.val fun x => { x with st := .armed }).putFld (A.escEkStat e.val) 23 20 2).raiseSq
            (A.escEkStat e.val) 0x1).bind (.admitting e))) ∧
     (s.lets m a (goOp 2) → ((s.loaded m a (goOp 2)).eng e.val).st = .armed →
        exec (.engineStop m e) s = .next (s.took m a (goOp 2) fun d =>
          ((d.unbind (· == .admitting e)).modEng e.val fun x => { x with st := .idle }).putFld (A.escEkStat e.val) 23 20 1)) ∧
     (s.lets m a (goOp 2) → ((s.loaded m a (goOp 2)).eng e.val).st = .running →
        (∀ g ∈ (s.loaded m a (goOp 2)).carries e.val, ((s.loaded m a (goOp 2)).group g).base = true) →
        exec (.engineStop m e) s = .next (s.took m a (goOp 2) fun d => (d.unbind (· == .stop e)).bind (.stop e))) ∧
     (s.lets m a (goOp 3) → (((s.loaded m a (goOp 3)).eng e.val).st = .faulted ∨ ((s.loaded m a (goOp 3)).eng e.val).st = .released) →
        ∃ t, exec (.engineClear m e) s = .next t ∧
          let x := t.chip.dev.eng e.val
          x.st = .idle ∧ x.d = [] ∧ x.a = [] ∧ x.x = [] ∧ x.stack = [] ∧ x.cur = none ∧ x.fifo = [] ∧
          x.prog = ((s.loaded m a (goOp 3)).eng e.val).prog ∧ x.results = ((s.loaded m a (goOp 3)).eng e.val).results ∧
          t.chip.dev.epoch (3 + e.val) = ((s.loaded m a (goOp 3)).epoch (3 + e.val) + 1) % 2 ^ 16)) ∧
  (∀ (s : State) (m : Master) (e : Fin 5),
     let a := A.escEkCmd e.val
     let d := s.loaded m a (goOp 1)
     let c1 := e ≠ 4 ∧ (d.eng e.val).st = .idle
     let c2 := d.rb (A.escEkStat e.val) 15 = true
     let c3 := (d.eng e.val).tableBad = false
     let c4 := ∀ p ∈ d.presetsDue, d.declared e.val ≤ admitA p d.boundNow
     let refused := fun (cause : Nat) =>
       s.took m a (goOp 1) fun d => (d.putFld (A.escEkStat e.val) 19 16 cause).raiseSq (A.escEkStat e.val) 0x4
     s.lets m a (goOp 1) →
       (¬c1 → exec (.admitEngine m e) s = .next (refused 4)) ∧
       (c1 → ¬c2 → exec (.admitEngine m e) s = .next (refused 2)) ∧
       (c1 → c2 → ¬c3 → exec (.admitEngine m e) s = .next (refused 5)) ∧
       (c1 → c2 → c3 → ¬c4 → exec (.admitEngine m e) s = .next (refused 3)) ∧
       (c1 → c2 → c3 → c4 → d.rolePending e.val = true → exec (.admitEngine m e) s = .next (refused 7)))

/-- PACEMAXRST starts the highest measurement again, SLACKRST the lowest slack (R195, R203); a hairspring measurement with PD5 on
and CK2 XTM verified writes NOW, keeps the highest in MAX, sets HSCAL, and PACEHIGH where it exceeds the bound (R195, R196).
A dispatch with no handler running and none set aside, of an engine that is RUNNING or in SHADOW: the oldest frame goes to
SAMPLE before any background event, CYCLE before BLOCK before SECOND before MAIL; the handler starts at its dispatch entry at
depth 0 with an empty stage and Z, N, V and C clear, keeping S (R188-R190). -/
def Obligations.FigureAndDispatch : Prop :=
  (∀ (s : State) (m : Master) (e : Fin 5),
     let a := A.escEkCmd e.val
     (let f := fun w => setBit w 1 true
      s.lets m a f → exec (.pacemaxrst m e) s = .next (s.took m a f fun d => d.putFld (A.escEkPace e.val) 31 16 0)) ∧
     (let f := fun w => setBit w 0 true
      s.lets m a f → exec (.slackrst m e) s = .next (s.took m a f fun d => d.putFld (A.escEkSlack e.val) 15 0 0x7FFF)) ∧
     (∀ pace : BitVec 16, s.chip.dev.held = false → s.chip.dev.on 5 = true → s.chip.dev.xtmOk = true →
       s.chip.dev.fuses.engine e.val = true → ∃ t, exec (.hairspringMeasure e pace) s = .next t ∧
         t.chip.dev.rf (A.escEkPace e.val) 15 0 = pace.toNat ∧
         t.chip.dev.rf (A.escEkPace e.val) 31 16 = max (s.chip.dev.rf (A.escEkPace e.val) 31 16) pace.toNat ∧
         t.chip.dev.rb (A.escEkStat e.val) 15 = true ∧
         (s.chip.dev.boundNow < pace.toNat → t.chip.dev.rb (A.escEkStat e.val) 7 = true) ∧ t.chip.nvm = s.chip.nvm)) ∧
  (∀ (s : State) (e : Fin 5), s.chip.dev.held = false → s.chip.dev.on 5 = true →
     let x := s.chip.dev.eng e.val
     x.cur = none → x.susp = none → x.tqueue = [] → (x.st = .running ∨ x.st = .shadow) →
     let starts := fun (y : Engine) (k : HKind) (i : Nat) (f : Option Frame) =>
       s.ran e { y with
         cur := some ⟨k, x.stack.length, 0, ⟨[], false, [], []⟩, f⟩
         pc := (SMap.get 0 x.prog i).toNat % 4096, z := false, n := false, v := false, c := false }
     let cyc := x.evCycle = true ∧ bit (SMap.get 0 x.prog 1) 31 = true
     let blk := x.evBlock = true ∧ bit (SMap.get 0 x.prog 2) 31 = true
     let sec := x.evSecond = true ∧ bit (SMap.get 0 x.prog 3) 31 = true
     let mail := x.evMail = true ∧ bit (SMap.get 0 x.prog 4) 31 = true
     (∀ (f : Frame) (rest : List Frame), x.fifo = f :: rest →
       exec (.handlerDispatch e) s = .next (starts { x with fifo := rest } .sample 0 (some f))) ∧
     (x.fifo = [] → cyc → exec (.handlerDispatch e) s = .next (starts { x with evCycle := false } .cycle 1 none)) ∧
     (x.fifo = [] → ¬cyc → blk → exec (.handlerDispatch e) s = .next (starts { x with evBlock := false } .block 2 none)) ∧
     (x.fifo = [] → ¬cyc → ¬blk → sec → exec (.handlerDispatch e) s = .next (starts { x with evSecond := false } .second 3 none)) ∧
     (x.fifo = [] → ¬cyc → ¬blk → ¬sec → mail →
       exec (.handlerDispatch e) s = .next (starts { x with evMail := false, mailServed := x.mailCopied } .mail 4 none)) ∧
     (x.fifo = [] → ¬cyc → ¬blk → ¬sec → ¬mail → exec (.handlerDispatch e) s = .next (s.ran e x)))

/-- RET at depth 0 in CYCLE, BLOCK or SECOND of a program that is no reference program of the ROM commits: each result register takes the value staged last, the others keep theirs,
RESSEQ advances once where anything was staged, and no handler runs (R193, R194, R245). -/
def Obligations.BackgroundCommit : Prop :=
  ∀ (s : State) (e : Fin 5) (w : Word) (h : Handler) (t : Nat), s.fetches e .ret w h →
    let x := s.chip.dev.eng e.val
    (h.kind = .cycle ∨ h.kind = .block ∨ h.kind = .second) → x.ref = none → x.stack.length ≤ h.base → s.chip.dev.freeze = none →
      ∃ u, exec (.ret e false t) s = .next u ∧
        (u.chip.dev.eng e.val).cur = none ∧
        (∀ n, SMap.get 0 (u.chip.dev.eng e.val).results n =
          match (h.stage.res.filter fun r => r.1 == n).getLast? with
          | some r => r.2
          | none => SMap.get 0 x.results n) ∧
        u.chip.dev.rf (A.escEkResseq e.val) 31 0 =
          (s.chip.dev.rf (A.escEkResseq e.val) 31 0 + (if h.stage.resAny then 1 else 0)) % 2 ^ 32 ∧
        u.chip.nvm = s.chip.nvm

/-- The oldest entry of a post queue is taken. Its data word goes to an empty mailbox whose receiver is on; a GO fills the mailbox
with the engine's stamp; an entry for a full mailbox, for a receiver that is off or for a data register that is not there is
discarded and counted in the post status (R252, R254, R389, R390). -/
def Obligations.PostDelivery : Prop :=
  ∀ (s : State) (e : Fin 5) (p : PostEntry) (rest : List PostEntry), s.chip.dev.held = false →
    (s.chip.dev.eng e.val).postq = p :: rest →
    let n := p.mb.val
    let refused := s.chip.dev.mbSize n ≤ p.w.val ∨ (s.chip.dev.mb n).full = true ∨ s.chip.dev.rxOff (s.chip.dev.mbRx n) = true
    ∃ t, exec (.postQueueDeliver e) s = .next t ∧ (t.chip.dev.eng e.val).postq = rest ∧ t.chip.nvm = s.chip.nvm ∧
      (¬refused → t.chip.dev.reg (mbDataAt n p.w.val) = p.data ∧ (t.chip.dev.mb n).full = p.go ∧
        (p.go = true → (t.chip.dev.mb n).mseq = (s.chip.dev.mb n).mseq + 1) ∧
        (p.go = true → (s.chip.dev.mb n).high ≤ 16 → fld (t.chip.dev.reg (A.mbxMnStamp n)) 11 8 = 3 + e.val)) ∧
      (refused → (t.chip.dev.eng e.val).postRefused = min 255 ((s.chip.dev.eng e.val).postRefused + 1) ∧
        t.chip.dev.mbox = s.chip.dev.mbox)

/-- A 32-bit write of a table word's low half by a master completes the word with the high half it holds, and with the word's own
where it holds none: in IDLE, FAULTED or RELEASED the table takes it at once, in ARMED or RUNNING it is queued (R205, R208). Of the high
halves the master holds, that one alone is used up (R205). Queued words that are ready are written, in their order, when no handler
runs, those whose apply point fell in a background handler only after its RET (R208, R222); a word of the constant region starts
the scan of CFGSUM anew (R207, R382). -/
def Obligations.TableWords : Prop :=
  (∀ (s : State) (m : Master) (addr : BitVec 24) (data : Word) (k n : Nat),
    let c := s.chip
    let d := c.dev
    let x := d.eng k
    let v := BitVec.ofNat 48 (d.heldHalf m.id k n * 2 ^ 32 + data.toNat)
    0x080000 ≤ addr.toNat → addr.toNat < 0x0C0000 → k = d.windowEngine m.id addr.toNat → n < 2048 →
    addr.toNat % 0x10000 = 0x4000 + 8 * n → d.held = false → d.fuses.engine k = true → d.on 5 = true →
    d.admits m.id addr.toNat true = true → d.sealed = false → m.isEngine = false →
      ((x.st = .idle ∨ x.st = .faulted ∨ x.st = .released) →
        ∃ t, exec (.tableWordWrite m addr data) s = .next t ∧ t.chip.dev.resp = .done ∧
          (t.chip.dev.eng k).table = SMap.set 0 x.table n v ∧
          (∀ w, SMap.find t.chip.dev.halves m.id ≠ some (winTag k n, w)) ∧
          (∀ j w, j ≠ winTag k n → SMap.find d.halves m.id = some (j, w) → SMap.find t.chip.dev.halves m.id = some (j, w))) ∧
      ((x.st = .armed ∨ x.st = .running) → x.tqueue.length < 16 →
        ∃ t, exec (.tableWordWrite m addr data) s = .next t ∧ t.chip.dev.resp = .done ∧ (t.chip.dev.eng k).table = x.table ∧
          (t.chip.dev.eng k).tqueue = x.tqueue ++ [⟨Fin.ofNat 2048 n, v, none, false, false⟩]) ∧
      ((x.st = .armed ∨ x.st = .running) → 16 ≤ x.tqueue.length →
        ∃ t, exec (.tableWordWrite m addr data) s = .next t ∧ t.chip.dev.resp = .err 9 ∧ (t.chip.dev.eng k) = x)) ∧
  (∀ (s : State) (e : Fin 5), s.chip.dev.held = false → (s.chip.dev.eng e.val).cur = none →
    let d := s.chip.dev
    let x := d.eng e.val
    let due := fun (w : TableEntry) => w.ready && (!w.held || x.susp.isNone)
    let covered := ∃ w ∈ x.tqueue, due w = true ∧ w.word.val < 64 * d.af (A.escEkCfg e.val) 4 0
    exec (.queuedTableWrite e) s = .next (s.to ((if covered then d.restartScan else d).setEng e.val { x with
      table := (x.tqueue.filter due).foldl (fun t w => SMap.set 0 t w.word.val w.data) x.table
      tqueue := x.tqueue.filter fun w => !due w })))

/-- The copy point of an engine that is RUNNING with no handler: each full mailbox addressed to it that it has not copied, here the
only one, goes to its inbox, the header first and then one table word a data register; the mailbox stays full and MAIL is raised
where its entry is enabled (R396). -/
def Obligations.MailboxCopied : Prop :=
  ∀ (s : State) (e : Fin 5) (n : Fin 32), s.chip.dev.held = false → s.chip.dev.on 5 = true →
    let d := s.chip.dev
    let x := d.eng e.val
    let inbox := d.rf (A.mbxMnCfg n.val) 26 16
    x.st = .running → x.cur = none → x.susp = none → d.tsplit e.val ≤ inbox →
    (∀ k : Fin 32, ((d.mb k.val).full = true ∧ e.val ∈ d.copyTo k.val ∧ k ∉ x.mailCopied) ↔ k = n) →
    ∃ t, exec (.mailboxCopy e) s = .next t ∧
      let y := t.chip.dev.eng e.val
      SMap.get 0 y.table inbox = d.inboxHead n.val ∧
      (∀ w < d.mbSize n.val, SMap.get 0 y.table (inbox + 1 + w) = (d.reg (mbDataAt n.val w)).setWidth 48) ∧
      (∀ j, (j < inbox ∨ inbox + d.mbSize n.val < j) → SMap.get 0 y.table j = SMap.get 0 x.table j) ∧
      n ∈ y.mailCopied ∧ (x.entryOn 4 = true → y.evMail = true) ∧ t.chip.dev.mbox = d.mbox ∧ t.chip.nvm = s.chip.nvm

/-- Engine relief accepts: SNAP of a RUNNING group engine that holds its role, with E4 IDLE, measured and large enough; TAKEOVER
while E4 shadows, without DIVERGE or with FORCE; HANDBACK while E4 holds the role and the group's engine is IDLE or RELEASED; ABORT
of a copy that waits or a shadow (R215, R217, R219, R220). -/
def Obligations.EngineReliefOrders : Prop :=
  ∀ (s : State) (m : Master) (now force auto : Bool),
    let a := A.escRlfCmd
    (∀ g : Fin 4, let f := fun w => setFld (setBit (goOp 1 w) 25 auto) 17 16 g.val
      let d := s.loaded m a f
      s.lets m a f → (d.eng 4).st = .idle → (d.eng g.val).st = .running → (d.holder g.val).val = g.val →
        g.val < d.fuses.groups → d.rb (A.escEkStat 4) 15 = true → d.declared g.val ≤ admitA d.framePreset d.boundNow →
        exec (.snap m g auto) s = .next (s.took m a f fun d =>
          (({ d with er := { d.er with group := g, snapWait := true } } : Dev).modEng 4 fun x => { x with st := .snap }).putFld
            (A.escEkStat 4) 23 20 6)) ∧
    (let f := fun w => setBit (setBit (setBit (goOp 2 w) 27 now) 26 force) 25 auto
     let d := s.loaded m a f
     s.lets m a f → d.er.shadow = some 4 → (d.eng 4).st = .shadow → (force = true ∨ d.rb A.escRlfStat 5 = false) →
       exec (.takeover m now force auto) s = .next (s.took m a f fun d =>
         { d with er := { d.er with takeBound := some (if now then .frame 0 else .cycle d.nextBoundary) } })) ∧
    (let f := fun w => setBit (setBit (setBit (goOp 3 w) 27 now) 26 force) 25 auto
     let d := s.loaded m a f
     let g := d.er.group.val
     s.lets m a f → d.holder g = 4 → d.er.passing = none → ((d.eng g).st = .idle ∨ (d.eng g).st = .released) →
       d.rb (A.escEkStat g) 15 = true → d.declared 4 ≤ admitA d.framePreset d.boundNow →
       exec (.handback m now force auto) s = .next (s.took m a f fun d =>
         { d with er := { d.er with handWait := true, handNow := now } })) ∧
    (let f := goOp 4
     let d := s.loaded m a f
     s.lets m a f → d.er.snapWait = false → d.er.handWait = false → d.er.shadow.isSome = true →
       exec (.engineReliefAbort m) s = .next (s.took m a f fun d =>
         { d with er := { d.er with snapWait := false, handWait := false, abortDue := true } }))

/-- A waiting SNAP at its copy point: E4 enters SHADOW with the group engine's program, table, registers, flags and results, an
empty FIFO and no handler, and SNAPDONE is set; a waiting HANDBACK copies E4 back in the same way and binds the return. After 1 s
without a copy point the SNAP ends with E4 IDLE and the HANDBACK with the role where it is, CAUSE 5 (R215, R219).
The old holder of a role that is passing has worked off its queue: the new holder has the role, the old one is RELEASED, or
IDLE where it is E4, and TOOK or HANDED is set (R217, R219). -/
def Obligations.ReliefCopiesAndRoles : Prop :=
  (∀ s : State, s.chip.dev.held = false →
     let d := s.chip.dev
     let g := d.er.group.val
     let same := fun (x y : Engine) => y.st = .shadow ∧ y.prog = x.prog ∧ y.table = x.table ∧ y.d = x.d ∧ y.a = x.a ∧ y.x = x.x ∧
       y.z = x.z ∧ y.n = x.n ∧ y.v = x.v ∧ y.c = x.c ∧ y.s = x.s ∧ y.results = x.results ∧ y.fifo = [] ∧ y.cur = none
     (d.er.snapWait = true → (d.eng g).st = .running → (d.eng g).fifo = [] → (d.eng g).cur = none → (d.eng g).susp = none →
       ∃ t, exec .snapCopy s = .next t ∧ same (d.eng g) (t.chip.dev.eng 4) ∧ t.chip.dev.er.snapWait = false ∧
         t.chip.dev.er.shadow = some 4 ∧ t.chip.dev.rb A.escRlfStat 0 = true ∧ t.chip.nvm = s.chip.nvm) ∧
     (d.er.handWait = true → (d.eng 4).st = .running → (d.eng 4).fifo = [] → (d.eng 4).cur = none → (d.eng 4).susp = none →
       ∃ t, exec .handbackCopy s = .next t ∧ same (d.eng 4) (t.chip.dev.eng g) ∧ t.chip.dev.er.handWait = false ∧
         t.chip.dev.er.handBound = some (if d.er.handNow then .frame 0 else .cycle d.nextBoundary) ∧ t.chip.nvm = s.chip.nvm) ∧
     (d.er.snapWait = true → ∃ t, exec .snapTimeout s = .next t ∧ (t.chip.dev.eng 4).st = .idle ∧ t.chip.dev.er.snapWait = false ∧
         t.chip.dev.rf A.escRlfStat 19 16 = 5 ∧ t.chip.dev.rb A.escRlfStat 1 = true ∧ t.chip.nvm = s.chip.nvm) ∧
     (d.er.handWait = true → ∃ t, exec .handbackTimeout s = .next t ∧ t.chip.dev.roles = d.roles ∧
         t.chip.dev.er.handWait = false ∧ t.chip.dev.rf A.escRlfStat 19 16 = 5 ∧ t.chip.nvm = s.chip.nvm)) ∧
  (∀ (s : State) (k old : Fin 5) (f : Nat), s.chip.dev.held = false →
     let d := s.chip.dev
     let g := d.er.group.val
     d.er.passing = some (k, f) → d.holder g = old → k ≠ old →
     (d.eng old.val).st = .running → (d.eng old.val).fifo = [] → (d.eng old.val).cur = none → (d.eng old.val).susp = none →
     ∃ t, exec .engineReleased s = .next t ∧ t.chip.dev.holder g = k ∧ t.chip.dev.er.passing = none ∧
       (t.chip.dev.eng old.val).st = (if old = 4 then .idle else .released) ∧
       (t.chip.dev.eng k.val).st = (d.eng k.val).st ∧
       t.chip.dev.rb A.escRlfStat (if k = 4 then 2 else 3) = true ∧ t.chip.nvm = s.chip.nvm)

/-- SRCCMD BASE on a group whose source is ENGINE falls back with CAUSE 5 and FBSEQ the next frame; SRCCMD ENGINE of a group on
BASE whose role's holder is RUNNING with no fault handled and without CFG_FAULT is bound (R281, R283). -/
def Obligations.SourceOrders : Prop :=
  ∀ (s : State) (m : Master) (g : Fin 4),
    let a := A.bimGgSrccmd g.val
    (let f := fun w => setFld (setBit w 31 true) 30 29 1
     let d := s.loaded m a f
     s.lets m a f → (d.group g.val).base = false → ∃ t, exec (.sourceBase m g) s = .next t ∧
       (t.chip.dev.group g.val).base = true ∧ t.chip.dev.rb (A.bimGgSrc g.val) 31 = true ∧
       t.chip.dev.rf (A.bimGgSrc g.val) 18 16 = 5 ∧ t.chip.dev.reg (A.bimGgFbseq g.val) = wd d.frameSeq ∧
       t.chip.dev.rb (A.bimGgStat g.val) 0 = true ∧ (∀ x ∈ t.chip.dev.bound, x.2 ≠ .srcEngine g)) ∧
    (let f := fun w => setFld (setBit w 31 true) 30 29 2
     let d := s.loaded m a f
     s.lets m a f → (d.group g.val).base = true → (∀ x ∈ d.bound, x.2 ≠ .srcEngine g) →
       (d.eng (d.holder g.val).val).st = .running → (d.eng (d.holder g.val).val).evFault = false → d.cfgFault = false →
       exec (.sourceEngine m g) s = .next (s.took m a f fun d => d.bind (.srcEngine g)))

/-- A tick of CK5 PLS moves min(R, H) of every enabled output from H to P (not of an aggregate one) and nothing but the outputs
changes (R276). A pulse starts when P reaches T, the output has been inactive for 32 ticks and is enabled, while CK2 XTM is verified: P loses T, COUNT and
PULSE count it, and its width is 81 920 ticks at R x 163 840 <= T and max(32, T / 2R) above; at its end the output is inactive
again (R277). -/
def Obligations.PulseGeneration : Prop :=
  (∀ s : State, s.chip.dev.held = false → s.chip.dev.on 5 = true → s.chip.dev.xtmOk = true →
    let d := s.chip.dev
    exec .plsTick s = .next (s.to { d with outs := d.outs.mapIdx fun n o =>
      if n < d.fuses.cfs then
        let mv : Int := if d.ab (A.bimCFnCfg n) 0 = true ∧ d.ab (A.bimCFnCfg n) 5 = false then min (o.rate : Int) (o.h.toNat : Int) else 0
        { o with
          h := o.h - mv, p := o.p + mv, left := o.left - 1, idle := if o.active then 0 else min 32 (o.idle + 1)
          sinceStart := min 163840 (o.sinceStart + 1) }
      else o })) ∧
  (∀ (s : State) (n : Fin 4), s.chip.dev.held = false →
    let d := s.chip.dev
    let o := d.out n.val
    let t := d.cfT n.val
    d.on 5 = true → n.val < d.fuses.cfs → d.xtmOk = true → d.ab (A.bimCFnCfg n.val) 0 = true → (t : Int) ≤ o.p → 32 ≤ o.idle → o.active = false →
    ∃ u, exec (.pulseStart n) s = .next u ∧
      (u.chip.dev.out n.val).p = o.p - t ∧ (u.chip.dev.out n.val).active = true ∧ (u.chip.dev.out n.val).h = o.h ∧
      (d.ab (A.bimCFnCfg n.val) 5 = false → (u.chip.dev.out n.val).left =
        if o.rate * 163840 ≤ t then 81920 else max 32 (t / (2 * o.rate))) ∧
      u.chip.dev.rf (A.bimCFnCount n.val) 31 0 = (d.rf (A.bimCFnCount n.val) 31 0 + 1) % 2 ^ 32 ∧
      u.chip.dev.rb (A.bimCFnStat n.val) 0 = true ∧ (∀ j, j ≠ n.val → u.chip.dev.out j = d.out j) ∧ u.chip.nvm = s.chip.nvm) ∧
  (∀ (s : State) (n : Fin 4), s.chip.dev.held = false → (s.chip.dev.out n.val).active = true → (s.chip.dev.out n.val).left = 0 →
    s.chip.dev.xtmOk = true →
    exec (.pulseEnd n) s = .next (s.to ((s.chip.dev.setOut n.val
      { s.chip.dev.out n.val with active := false, idle := 0 }).putBit (A.bimCFnStat n.val) 4 false)))

/-- REG_UPDATE of groups that apply at once, with the checks of R131 passed and no copy staged: every pending value of the groups
named is in force, and no other register's active value changes (R371-R373). REG_UPDATE of one group that applies at the next frame,
with no register that waits for a boundary: the copy is staged with its values, and nothing is in force yet (R373).
A completed scan shows its sum in REG_CFGSUM, sets SCANDONE with SCANNING at 1, and with EN compares it with REG_CFGREF:
CFG_FAULT is set exactly on a mismatch; a CAPTURE waiting for this scan copies the sum to REG_CFGREF first, and those given during it wait
for the next one (R382, R384). A CAPTURE waits for a scan that has not begun (R384). -/
def Obligations.UpdatesAndConfigurationScan : Prop :=
  (∀ (s : State) (m : Master) (mask : BitVec 8) (t : Nat),
     let s' := s.at t
     let d := (s'.chip.loaded m.id A.regUpdate (mask.setWidth 32)).dev
     s'.chip.lets m.id A.regUpdate (mask.setWidth 32) → d.staged = [] → d.updateCheck mask.toNat = none →
       (mask ≠ 0 → (∀ n : Fin 8, mask.getLsbD n.val = true → d.ugApply n.val = 0) →
         (∀ a, isBuffered a = true → mask.getLsbD (d.ugOf a) = true → cycleOnly a = true → d.reg a = d.active a) →
         ∃ u, exec (.regUpdate m mask t) s = .next u ∧ u.chip.dev.staged = [] ∧
           (∀ a, isBuffered a = true → u.chip.dev.active a =
             if mask.getLsbD (d.ugOf a) = true then d.reg a else d.active a)) ∧
       (∀ n : Fin 8, mask = BitVec.ofNat 8 (2 ^ n.val) → d.ugApply n.val = 1 →
         (∀ a, isBuffered a = true → d.ugOf a = n.val → cycleOnly a = true → d.reg a = d.active a) →
         ∃ u, exec (.regUpdate m mask t) s = .next u ∧ u.chip.dev.act = d.act ∧
           u.chip.dev.staged = [⟨n, false, .frame (d.now + 33), d.pendingVals fun a => d.ugOf a == n.val && !cycleOnly a⟩])) ∧
  ((∀ s : State, s.chip.dev.held = false → s.chip.dev.rf A.regCfgctl 1 0 = 0 →
     let d := s.chip.dev
     let sum := d.cfgsum
     let ref := if false ∈ d.cfgCapture then sum else d.reg A.regCfgref
     ∃ t, exec .cfgsumScanDone s = .next t ∧ t.chip.dev.reg A.regCfgsum = sum ∧ t.chip.dev.reg A.regCfgref = ref ∧
       t.chip.dev.rb A.regCfgstat 8 = true ∧ t.chip.dev.rb A.regCfgstat 0 = true ∧
       (d.rb A.regCfgctl 8 = true → t.chip.dev.rb A.regCfgstat 9 = decide (sum ≠ ref)) ∧
       (d.rb A.regCfgctl 8 = false → t.chip.dev.rb A.regCfgstat 9 = d.rb A.regCfgstat 9) ∧
       t.chip.dev.cfgCapture = (d.cfgCapture.filter id).map (fun _ => false) ∧ t.chip.nvm = s.chip.nvm) ∧
   (∀ (s : State) (m : Master), let f := fun w => setBit w 0 true
     s.lets m A.regCfgcmd f → exec (.cfgCapture m) s = .next (s.took m A.regCfgcmd f fun d =>
       { d with cfgCapture := d.cfgCapture ++ [true] })))

/-! ## The register fabric and the host ports (10) -/

/-- A write of a plain register, in the normal view or through the set, clear and toggle aliases, in words, half-words or bytes: the
register takes the enabled bytes at the bits that software writes and keeps the others, the S-guarded write is counted, a change of what
CFGSUM covers starts its scan anew (R382), and then the register's own effect follows (R340, R347, R349, R351). A 64-bit write of an
internal master is two 32-bit writes at ascending addresses (R354). -/
def Obligations.RegisterWrites : Prop :=
  (∀ (s : State) (m : Master) (addr : BitVec 24) (wide : BitVec 64), s.chip.dev.held = false → m.isEngine = false → 2 ≤ m.id →
    let x := s.chip.write m.id addr.toNat 4 (wide.toNat % 2 ^ 32) []
    let y := x.2.write m.id ((addr.toNat + 4) % 2 ^ 24) 4 (wide.toNat / 2 ^ 32) []
    exec (.registerWrite m addr 3 wide) s = .next (s.landed (y.2.onDev fun d =>
      { d with resp := match x.1 with | .err n => .err n | _ => y.1 }))) ∧
  (∀ (s : State) (m : Master) (addr : BitVec 24) (size : Fin 3) (wide : BitVec 64) (r : RegRow),
    let a := addr.toNat
    let data : Word := wide.setWidth 32
    let bytes := sizeBytes size
    let base := a / 4 * 4
    let old := s.chip.dev.stored r m.id base
    let after := fun (k : WKind) (new : Word) =>
      (∀ i < 32, new.getLsbD i = bitAfter k old data
        (wd ((r.rw ||| r.bw) &&& (0xFFFFFFFF - s.chip.dev.hidden base))) (a % 4) bytes i)
    let result := fun (new : Word) => s.done (((s.chip.sCount m.id r.gs).onDev fun d =>
      (if r.typ = .bw ∧ (old ^^^ new) &&& wd r.rw ≠ 0#32 then d.restartScan else d).store r m.id base new).effect m.id base old new [])
    a < 0x150000 → inWindow a = false → a % 0x10000 < 0x1000 →
      (s.chip.acceptsPlain m.id base a bytes .plain data.toNat r →
        ∃ new, after .plain new ∧ exec (.registerWrite m addr size.castSucc wide) s = .next (result new)) ∧
      (s.chip.acceptsPlain m.id base a bytes .set data.toNat r →
        ∃ new, after .set new ∧ exec (.aliasSet m addr size data) s = .next (result new)) ∧
      (s.chip.acceptsPlain m.id base a bytes .clr data.toNat r →
        ∃ new, after .clr new ∧ exec (.aliasClr m addr size data) s = .next (result new)) ∧
      (s.chip.acceptsPlain m.id base a bytes .tgl data.toNat r →
        ∃ new, after .tgl new ∧ exec (.aliasTgl m addr size data) s = .next (result new)))

/-- A write of an SQ register whose bits [31:24] equal SEQ clears exactly the sticky bits written with 1; with another SEQ it clears
nothing; SEQ itself stays (R341). -/
def Obligations.SequencedClear : Prop :=
  ∀ (s : State) (m : Master) (addr : BitVec 24) (seq : BitVec 8) (bits : BitVec 24) (r : RegRow),
    let a := addr.toNat
    let d := s.chip.dev
    let cur := d.stored r m.id a
    d.held = false → a < 0x150000 → inWindow a = false → a % 0x10000 < 0x1000 → a % 4 = 0 → d.target a = .ok r → r.typ = .sq →
      r.sq < 2 ^ 24 → m.isEngine = false → d.admits m.id a r.gp = true → (r.gs && d.sealed) = false → fixedCfg a = false → lockAt a = none →
      d.ownRefuses a cur (d.written r m.id a .plain 0xFFFFFFFF ((bits.toNat + seq.toNat * 2 ^ 24) % 2 ^ 32)) = none →
      ∃ new, exec (.sqClear m addr seq bits) s = .next (s.done (((s.chip.sCount m.id r.gs).onDev fun d => d.store r m.id a new).effect
          m.id a cur new [])) ∧
        (fld cur 31 24 = seq.toNat → ∀ i < 32, new.getLsbD i =
          (cur.getLsbD i && !(decide (i < 24) && bits.getLsbD i && (wd r.sq).getLsbD i))) ∧
        (fld cur 31 24 ≠ seq.toNat → new = cur)

/-- The error responses of a register access, each with its cause, its record in REG_ERRINFO and the count: UNMAPPED (3) above the
blocks and where no register is, UNALIGNED (4), ABSENT (1), DOMAIN (2), RO (7), WIDTH (5) of a narrow write of a register that is
neither RW nor BW, ALIAS (6) of such a register; a write that a guard keeps out is answered and counted as denied, and its
read gives 0 (R337, R340, R345, R350, R351, R355). An engine makes no access of its own (R335).
A write of an S-guarded register with the seal set is refused with SEALED (10) and counted as a seal denial; nothing else
changes (R346, R355). -/
def Obligations.AccessErrorsAndSealBars : Prop :=
  ((∀ (s : State) (k : Fin 5) (addr : BitVec 24) (size : Fin 4) (wide : BitVec 64),
     exec (.registerWrite (.eng k) addr size wide) s = .next s ∧ exec (.lowWordRead (.eng k) addr) s = .next s) ∧
   (∀ (s : State) (m : Master) (addr : BitVec 24) (size : Fin 3) (wide : BitVec 64),
     let a := addr.toNat
     let data : Word := wide.setWidth 32
     let z : Fin 4 := size.castSucc
     let d := s.chip.dev
     let base := a / 4 * 4
     d.held = false → m.isEngine = false →
       (0x150000 ≤ a → ¬(0x400000 ≤ a ∧ a < 0x440000) →
         exec (.registerWrite m addr z wide) s = .next (s.errored m 3 addr) ∧
         exec (.lowWordRead m addr) s = .next (s.errored m 3 addr)) ∧
       (a < 0x150000 → a % sizeBytes size ≠ 0 → exec (.registerWrite m addr z wide) s = .next (s.errored m 4 addr)) ∧
       (a < 0x150000 → inWindow a = false → inView base = false → a % 0x10000 < 0x1000 → a % sizeBytes size = 0 →
         (d.absentAt base = true → exec (.registerWrite m addr z wide) s = .next (s.errored m 1 addr)) ∧
         (d.absentAt base = false → d.on (domOf base) = false →
           exec (.registerWrite m addr z wide) s = .next (s.errored m 2 addr)) ∧
         (d.absentAt base = false → d.on (domOf base) = true → rowAt base = none →
           exec (.registerWrite m addr z wide) s = .next (s.errored m 3 addr)) ∧
         (∀ r, d.target base = .ok r → d.admits m.id base r.gp = true → (r.gs && d.sealed) = false → lockAt base = none →
           (r.typ = .ro → exec (.registerWrite m addr z wide) s = .next (s.errored m 7 addr)) ∧
           (r.typ ≠ .ro → r.typ ≠ .rw → r.typ ≠ .bw → sizeBytes size ≠ 4 →
             exec (.registerWrite m addr z wide) s = .next (s.errored m 5 addr)) ∧
           (r.typ ≠ .rw → r.typ ≠ .bw → exec (.aliasSet m addr size data) s =
             .next (s.errored m 6 (BitVec.ofNat 24 (a / 0x10000 * 0x10000 + 0x4000 + a % 0x1000))))) ∧
         (∀ r, d.target base = .ok r → d.admits m.id base r.gp = false →
           exec (.registerWrite m addr z wide) s = .next (s.to
             { (d.setReg A.secDenyinfo (wd (m.id * 2 ^ 28 + a))).count A.secGuardDenied 31 0 1 with resp := .done }) ∧
           (a % 4 = 0 → exec (.lowWordRead m addr) s = .next (s.to { d with resp := .data 0 })))))) ∧
  (∀ (s : State) (m : Master) (addr : BitVec 24) (data : BitVec 64) (r : RegRow),
     let a := addr.toNat
     let d := s.chip.dev
     d.held = false → m.isEngine = false → a < 0x150000 → inWindow a = false → a % 0x10000 < 0x1000 → a % 4 = 0 → d.target a = .ok r →
       d.admits m.id a r.gp = true → r.gs = true → d.sealed = true →
       exec (.registerWrite m addr 0 data) s = .next (State.errored (s.to (d.sealDenied m.id a)) m 10 addr))

/-- A read of the low word of a value of several words answers it and holds the upper words for that master; its next read of an
upper word answers what was held, whatever the value has become since, and other masters' shadows stay (R369).
A read of a free lock acquires it and answers 0; the owner reads 0; another master reads bit 31 with the owner's ID; a write of 0
by the owner frees the lock, one by another master is refused with LOCK (14) (R378). -/
def Obligations.LowWordLatchAndLocks : Prop :=
  ((∀ (s : State) (m : Master), s.chip.dev.held = false → m.isEngine = false → s.chip.dev.on 1 = true → s.chip.dev.mayReach m.id 3 = true →
     (∀ r, s.chip.dev.shadowed m.id r A.clkCyccnt false = none) →
     let d := s.chip.dev
     exec (.lowWordRead m (BitVec.ofNat 24 A.clkCyccnt)) s = .next (s.to
       { d with
         shadow := SMap.insert m.id (A.clkCyccnt, [d.reg A.clkCycsumLo, d.reg A.clkCycsumHi]) d.shadow
         resp := .data (d.reg A.clkCyccnt) })) ∧
   (∀ (s : State) (m : Master) (lo hi : Word), s.chip.dev.held = false → m.isEngine = false → s.chip.dev.on 1 = true → s.chip.dev.mayReach m.id 3 = true →
     SMap.find s.chip.dev.shadow m.id = some (A.clkCyccnt, [lo, hi]) →
     exec (.lowWordRead m (BitVec.ofNat 24 A.clkCycsumLo)) s = .next (s.to { s.chip.dev with resp := .data lo }) ∧
     exec (.lowWordRead m (BitVec.ofNat 24 A.clkCycsumHi)) s = .next (s.to { s.chip.dev with resp := .data hi }))) ∧
  (∀ (s : State) (m : Master) (n : Fin 16),
     let d := s.chip.dev
     let a := A.regLOCKn n.val
     d.held = false → m.isEngine = false → (∃ r, d.target a = .ok r ∧ r.typ = .rw ∧ r.gs = false ∧ d.admits m.id a r.gp = true) →
       (SMap.find d.locks n.val = none → exec (.lockRead m n) s =
         .next (s.to { d with locks := SMap.insert n.val m.id d.locks, resp := .data 0 })) ∧
       (SMap.find d.locks n.val = some m.id → exec (.lockRead m n) s = .next (s.to { d with resp := .data 0 })) ∧
       (SMap.find d.locks n.val = none → exec (.lockRelease m n) s = .next (s.errored m 14 (BitVec.ofNat 24 a))) ∧
       (∀ k, SMap.find d.locks n.val = some k → k ≠ m.id →
         exec (.lockRead m n) s = .next (s.to { d with resp := .data (wd (2 ^ 31 + k)) }) ∧
         exec (.lockRelease m n) s = .next (s.errored m 14 (BitVec.ofNat 24 a))) ∧
       (SMap.find d.locks n.val = some m.id → ∃ t, exec (.lockRelease m n) s = .next t ∧
         SMap.find t.chip.dev.locks n.val = none ∧ t.chip.dev.resp = .done ∧ t.chip.nvm = s.chip.nvm))

/-- One word through the SPI port: with the device's number, a valid header and a matching CRC, a read answers 0xA5, the word, STATUS
0, COUNT 1 and the CRC-16 of the response after the fill bytes; a write of a word that the fabric lets in answers 0xA5, STATUS 0,
COUNT 1 and the CRC; a device that found its ID in use leaves MISO undriven (R555); REG_PORTSTAT_HS records STATUS and COUNT (R359, R361,
R362, R364, R365). A write whose trailer CS cuts acts all the same, and MISO carries nothing more (R360, R365). A broadcast write acts and
answers nothing (R360).
A request whose CRC does not match performs nothing: 0x5A, STATUS 0x10, COUNT 0, and CRCERR counts it (R364). A frame that CS cuts
before its request is whole performs nothing but its record (R365). How many bytes of it the record's STATUS is made of is not stated:
it is free (log entry 7).
The same word through I2C, whose response waits until it is read, once, or is gone with a STOP (R367, R368); a host access that no block
answers ends with TIMEOUT (15) in the master's REG_ERRINFO, in the port's record and in the response (R356, R363, R368), whose COUNT and
CRC are free (log entry 7). -/
def Obligations.PortFrames : Prop :=
  (∀ (s : State) (l : List Byte) (w : Word) (c' : Chip),
     let d := s.chip.dev
     let c : Chip := { s.chip with dev := { d with miso := [] } }
     let r := portReq l
     let crc := fun (x : List Byte) => x ++ beBytes 2 (crc16 0xFFFF x).toNat
     let shown := fun (d : Dev) =>
       ((d.countMod A.regPortstatHs 31 16 1).putFld A.regPortstatHs 15 8 0).putFld A.regPortstatHs 6 0 1
     let fill := List.replicate (r.body + 2) (0xFF : Byte)
     d.held = false → d.fuses.hsel = false → reqWhole l = true → r.bad = false → crcOk l = true → r.len = 0 →
       (r.op = 1 → r.dev = d.fuses.id.toNat → c.read 0 r.addr r.bytes [] = (.data w, c') →
         exec (.spiReadFrame l none) s = .next (s.landed { c' with dev :=
           { shown c'.dev with miso := if c'.dev.chn.dupId then [] else fill ++ crc ([0xA5] ++ beBytes r.bytes w.toNat ++ [0, 1]) } })) ∧
       (r.op = 0 → r.dev = d.fuses.id.toNat → r.addr ≠ A.sysRstcmd →
         c.write 0 r.addr r.bytes (beNat ((l.drop 5).take r.bytes)) [] = (.done, c') →
         exec (.spiWriteFrame l) s = .next (s.landed { c' with dev :=
           { shown c'.dev with miso := if c'.dev.chn.dupId then [] else fill ++ crc [0xA5, 0, 1] } }) ∧
         exec (.spiCsEarly l) s = .next (s.landed { c' with dev :=
           { shown c'.dev with miso := if c'.dev.chn.dupId then [] else fill } })) ∧
       (r.op = 2 → r.size = 0 → r.addr ≠ A.sysRstcmd →
         c.write 0 r.addr 4 (beNat ((l.drop 5).take 4)) [] = (.done, c') →
         exec (.spiBroadcastWrite l) s = .next (s.landed { c' with dev := { shown c'.dev with miso := [] } }))) ∧
  (∀ (s : State) (l : List Byte),
     let d := s.chip.dev
     let r := portReq l
     d.held = false → d.fuses.hsel = false → d.chn.dupId = false → r.dev = d.fuses.id.toNat → l ≠ [] →
       (reqWhole l = true → r.bad = false → crcOk l = false → r.op = 0 →
         ∃ t, exec (.spiWriteFrame l) s = .next t ∧
           t.chip.dev.miso = List.replicate (r.body + 2) (0xFF : Byte) ++
             ([0x5A, 0x10, 0] ++ beBytes 2 (crc16 0xFFFF [0x5A, 0x10, 0]).toNat) ∧
           t.chip.dev.rf A.regPortstatHs 15 8 = 0x10 ∧
           t.chip.dev.rf A.regCrcerr 15 0 = min (2 ^ 16 - 1) (d.rf A.regCrcerr 15 0 + 1) ∧
           (∀ a, a ≠ A.regPortstatHs → a ≠ A.regCrcerr → t.chip.dev.reg a = d.reg a) ∧ t.chip.nvm = s.chip.nvm) ∧
       (reqWhole l = false → r.op = 0 ∨ r.op = 1 →
         ∃ t, exec (.spiCsEarly l) s = .next t ∧ t.chip.dev.rf A.regPortstatHs 6 0 = 0 ∧
           t.chip.dev.rf A.regPortstatHs 31 16 = (d.rf A.regPortstatHs 31 16 + 1) % 2 ^ 16 ∧
           (∀ a, a ≠ A.regPortstatHs → t.chip.dev.reg a = d.reg a) ∧ t.chip.nvm = s.chip.nvm)) ∧
  ((∀ (s : State) (l : List Byte) (stop : Bool) (w : Word) (c' : Chip),
     let d := s.chip.dev
     let r := portReq l
     let crc := fun (x : List Byte) => x ++ beBytes 2 (crc16 0xFFFF x).toNat
     let shown := fun (d : Dev) =>
       ((d.countMod A.regPortstatHi 31 16 1).putFld A.regPortstatHi 15 8 0).putFld A.regPortstatHi 6 0 1
     d.held = false → d.chn.dupId = false → r.dev = d.fuses.id.toNat → reqWhole l = true → r.bad = false → crcOk l = true →
       r.len = 0 →
       (r.op = 1 → s.chip.read 1 r.addr r.bytes [] = (.data w, c') →
         exec (.i2cRequest ⟨l, stop⟩) s = .next (s.landed { c' with dev := { shown c'.dev with
           i2cResp := if stop then none else some (crc ([0xA5] ++ beBytes r.bytes w.toNat ++ [0, 1])) } })) ∧
       (r.op = 0 → r.addr ≠ A.sysRstcmd → s.chip.write 1 r.addr r.bytes (beNat ((l.drop 5).take r.bytes)) [] = (.done, c') →
         exec (.i2cRequest ⟨l, stop⟩) s = .next (s.landed { c' with dev := { shown c'.dev with
           i2cResp := if stop then none else some (crc [0xA5, 0, 1]) } }))) ∧
   (∀ (s : State) (l : List Byte), s.chip.dev.held = false → s.chip.dev.chn.dupId = false → s.chip.dev.i2cResp = some l →
     exec .i2cResponseRead s = .next (s.to { s.chip.dev with miso := l, i2cResp := none })) ∧
   (∀ (s : State) (m : Master) (addr : BitVec 24), s.chip.dev.held = false → m.id < 2 →
     ∃ t, exec (.hostAccessTimeout m addr) s = .next t ∧ t.chip.dev.resp = .err 15 ∧
       t.chip.dev.ireg m.id A.regErrinfo = wd (15 * 2 ^ 28 + addr.toNat) ∧
       t.chip.dev.rf (if m.id = 0 then A.regPortstatHs else A.regPortstatHi) 15 8 = 15 ∧ t.chip.nvm = s.chip.nvm ∧
       ∃ n < 64, ∃ w : Nat, let out := [0x5A#8, 15#8, BitVec.ofNat 8 n] ++ beBytes 2 w
         t.chip.dev.rf (if m.id = 0 then A.regPortstatHs else A.regPortstatHi) 6 0 = n ∧
         (m.id = 0 → s.chip.dev.chn.dupId = false → t.chip.dev.miso = out) ∧ (m.id = 1 → t.chip.dev.i2cResp = some out)))

/-! ## Mailboxes and the supervisor (11) -/

/-- GO of an empty mailbox whose receiver is on fills it with the next MSEQ, clears STALE_RX, sets MIXED exactly if a data register
was written by another master, and stamps the sender with its epoch (R389-R392). A data write goes to the register and is noted for
MIXED (R390, R391). Into a full mailbox both are refused with FULL (12); into an empty one whose receiver is off with RXOFF (13) (R390).
REL by the receiver with the MSEQ of the message empties the mailbox; with another MSEQ nothing changes; by a master that is not
the receiver BADREL is set and nothing is released (R395).
A write of the configuration of an empty mailbox from 3 on loads the fields (R386), of mailboxes 0-2 it is ignored (R387). A new
epoch of a host master advances its epoch, ends what it holds of locks and read shadows, and closes its session (R392, R577). -/
def Obligations.Mailboxes : Prop :=
  (∀ (s : State) (m : Master) (n : Fin 32),
     let a := A.mbxMnCtrl n.val
     let x := s.chip.dev.mb n.val
     (s.chip.lets m.id a 0x80000000 → x.high ≤ 16 → ∃ t, exec (.mbxPost m n) s = .next t ∧ t.chip.dev.resp = .done ∧
       (t.chip.dev.mb n.val).full = true ∧ (t.chip.dev.mb n.val).mseq = x.mseq + 1 ∧ (t.chip.dev.mb n.val).stale = false ∧
       ((t.chip.dev.mb n.val).mixed = true ↔ ∃ k ∈ x.writers, k ≠ m.id) ∧
       t.chip.dev.reg (A.mbxMnStamp n.val) = wd (s.chip.dev.epoch m.id * 2 ^ 16 + m.id * 2 ^ 8 + x.high) ∧
       (∀ k, k ≠ n.val → t.chip.dev.mb k = s.chip.dev.mb k) ∧ t.chip.nvm = s.chip.nvm) ∧
     (∀ (w : Fin 16) (data : Word) (r : RegRow), let b := mbDataAt n.val w.val
       s.chip.acceptsPlain m.id b b 4 .plain data.toNat r → ∃ t, exec (.mbxDataWrite m n w 0 data) s = .next t ∧
         t.chip.dev.reg b = data ∧ m.id ∈ (t.chip.dev.mb n.val).writers ∧ (t.chip.dev.mb n.val).high = max x.high (w.val + 1) ∧
         (t.chip.dev.mb n.val).full = x.full ∧ t.chip.nvm = s.chip.nvm) ∧
     (∀ r, s.chip.dev.held = false → m.isEngine = false → s.chip.dev.target a = .ok r → s.chip.dev.admits m.id a r.gp = true →
       (x.full = true → exec (.mbxPost m n) s = .next (s.errored m 12 (BitVec.ofNat 24 a))) ∧
       (x.full = false → s.chip.dev.rxOff (s.chip.dev.mbRx n.val) = true →
         exec (.mbxPost m n) s = .next (s.errored m 13 (BitVec.ofNat 24 a)))) ∧
     (∀ (w : Fin 16) (data : Word) (r : RegRow), let b := mbDataAt n.val w.val
       s.chip.dev.held = false → m.isEngine = false → s.chip.dev.target b = .ok r → s.chip.dev.admits m.id b r.gp = true →
       (x.full = true → exec (.mbxDataWrite m n w 0 data) s = .next (s.errored m 12 (BitVec.ofNat 24 b))) ∧
       (x.full = false → s.chip.dev.rxOff (s.chip.dev.mbRx n.val) = true →
         exec (.mbxDataWrite m n w 0 data) s = .next (s.errored m 13 (BitVec.ofNat 24 b))))) ∧
  (∀ (s : State) (m : Master) (n : Fin 32) (q : BitVec 8),
     let a := A.mbxMnCtrl n.val
     let w := setFld 0x40000000#32 23 16 q.toNat
     let d := (s.chip.loaded m.id a w).dev
     let x := d.mb n.val
     s.chip.lets m.id a w →
       (d.isReceiver m.id n.val = true → x.full = true → x.mseq = q → ∃ t, exec (.mbxRelease m n q) s = .next t ∧
         t.chip.dev.mb n.val = { x with full := false, mixed := false, stale := false, writers := [], high := 0 } ∧
         (∀ b, t.chip.dev.reg b = d.reg b) ∧
         (∀ k, k ≠ n.val → t.chip.dev.mb k = d.mb k) ∧ t.chip.nvm = s.chip.nvm) ∧
       (d.isReceiver m.id n.val = true → (x.full = false ∨ x.mseq ≠ q) → ∃ t, exec (.mbxRelease m n q) s = .next t ∧
         t.chip.dev.mbox = d.mbox ∧ t.chip.dev.resp = .done) ∧
       (d.isReceiver m.id n.val = false → ∃ t, exec (.mbxRelease m n q) s = .next t ∧ t.chip.dev.mbox = d.mbox ∧
         t.chip.dev.rb A.mbxStat 2 = true)) ∧
  (∀ (s : State) (m : Master),
     (∀ (n : Fin 32) (data : Word) (r : RegRow), let a := A.mbxMnCfg n.val
       3 ≤ n.val → s.chip.acceptsPlain m.id a a 4 .plain data.toNat r → r.gs = false →
         ∃ t, exec (.mbxCfgWrite m n data) s = .next t ∧
           t.chip.dev.reg a &&& wd r.rw = data &&& wd r.rw ∧ t.chip.dev.mbox = s.chip.dev.mbox ∧ t.chip.nvm = s.chip.nvm) ∧
     (∀ (n : Fin 3) (data : Word) (r : RegRow), let a := A.mbxMnCfg n.val
       s.chip.dev.held = false → m.isEngine = false → s.chip.dev.target a = .ok r → (r.typ = .rw ∨ r.typ = .bw) → (r.gs && s.chip.dev.sealed) = false →
         s.chip.dev.admits m.id a r.gp = true →
         exec (.mbxCfgWrite m (Fin.ofNat 32 n.val) data) s = .next (s.to { s.chip.dev with resp := .done })) ∧
     (m.id < 2 → s.chip.lets m.id A.mbxEpochcmd 1 → s.chip.dev.sessState m.id = 0 → ∃ t, exec (.epochNew m) s = .next t ∧
       t.chip.dev.epoch m.id = (s.chip.dev.epoch m.id + 1) % 2 ^ 16 ∧ (∀ n, SMap.find t.chip.dev.locks n ≠ some m.id) ∧
       SMap.find t.chip.dev.shadow m.id = none ∧ t.chip.nvm = s.chip.nvm))

/-- With a full mailbox 0 and fewer than four commands held, the supervisor takes the command: mailbox 0 is empty, and the command,
its stamped sender and that sender's level now are held last; a command it does not know is answered with STATUS 1 instead
(R403-R406).
The oldest reply goes to mailbox 1 and the oldest notice to mailbox 2, each once it is empty: its words stand in the data registers,
the mailbox is full with SV's stamp, and the reply or notice no longer waits (R405). -/
def Obligations.SupervisorMail : Prop :=
  (∀ s : State, s.chip.dev.held = false → (s.chip.dev.mb 0).full = true →
     s.chip.dev.sup.held.length < 4 →
     let d := s.chip.dev
     let h := d.commandWords
     (d.takeStatus h = none → ∃ t, exec .svCommandTake s = .next t ∧ (t.chip.dev.mb 0).full = false ∧
       t.chip.dev.sup.held = d.sup.held ++ [h] ∧ t.chip.dev.sup.replies = d.sup.replies ∧ t.chip.nvm = s.chip.nvm) ∧
     (∀ st, d.takeStatus h = some st → h ∉ d.sup.held → ∃ t, exec .svCommandTake s = .next t ∧ (t.chip.dev.mb 0).full = false ∧
       t.chip.dev.sup.held = d.sup.held ∧ t.chip.dev.sup.replies = d.sup.replies ++ [h.reply st []]) ∧
     (h.words.length = 16 ∧ h.started = false ∧ h.sender = d.rf (A.mbxMnStamp 0) 11 8 ∧ h.priv = d.level h.sender)) ∧
  (∀ (s : State) (r : List Word) (rest : List (List Word)), s.chip.dev.held = false → r.length ≤ 16 →
     (s.chip.dev.sup.replies = r :: rest → (s.chip.dev.mb 1).full = false → ∃ t, exec .replyPost s = .next t ∧
       (∀ w < r.length, t.chip.dev.reg (mbDataAt 1 w) = r.getD w 0) ∧ (t.chip.dev.mb 1).full = true ∧
       t.chip.dev.sup.replies = rest ∧ t.chip.nvm = s.chip.nvm) ∧
     (s.chip.dev.sup.notices = r :: rest → (s.chip.dev.mb 2).full = false → ∃ t, exec .noticePost s = .next t ∧
       (∀ w < r.length, t.chip.dev.reg (mbDataAt 2 w) = r.getD w 0) ∧ (t.chip.dev.mb 2).full = true ∧
       t.chip.dev.sup.notices = rest ∧ t.chip.nvm = s.chip.nvm))

/-- PING answers STATUS 0 with no data, VERSION with the firmware and ROM words; LOADREF of a reference program into a present engine
that takes loads, by a sender that may write ESC and the engine's window with the seal open, loads the program, zeroes table words
0-63, sets the declared figures and TSPLIT = 1 and answers 0; its other outcomes are STATUS 2 for a bad operand, 7 for an absent
engine, 6 without the privilege, 5 with the seal set, 4 in another state (R289, R404, R406). -/
def Obligations.SystemCommands : Prop :=
  ∀ (s : State) (i : Fin 4) (h : HeldCmd),
    (s.holds i 1 1 h → exec (.ping i) s = .next (s.answered h 0 [])) ∧
    (s.holds i 1 2 h → exec (.version i) s = .next (s.answered h 0 [s.chip.dev.fuses.firmware, s.chip.dev.fuses.romSet])) ∧
    (s.holds i 1 3 h →
      let d := s.chip.dev
      let k := (h.arg 1).toNat
      let p := (h.arg 2).toNat
      let may := d.reachAt h.sender h.priv 7 = true ∧ d.privAt h.sender h.priv 7 = true ∧
        d.reachAt h.sender h.priv (8 + min k 3) = true ∧ d.privAt h.sender h.priv (8 + min k 3) = true
      ((4 < k ∨ p = 0 ∨ 3 < p) → exec (.loadref i) s = .next (s.answered h 2 [])) ∧
      (k ≤ 4 → 0 < p → p ≤ 3 → d.fuses.engine k = false → exec (.loadref i) s = .next (s.answered h 7 [])) ∧
      (k ≤ 4 → 0 < p → p ≤ 3 → d.fuses.engine k = true → ¬may → exec (.loadref i) s = .next (s.answered h 6 [])) ∧
      (k ≤ 4 → 0 < p → p ≤ 3 → d.fuses.engine k = true → may → d.sealed = true →
        exec (.loadref i) s = .next (s.answered h 5 [])) ∧
      (k ≤ 4 → 0 < p → p ≤ 3 → d.fuses.engine k = true → may → d.sealed = false → (d.on 5 && (d.eng k).direct) = false →
        exec (.loadref i) s = .next (s.answered h 4 [])) ∧
      (k ≤ 4 → 0 < p → p ≤ 3 → d.fuses.engine k = true → may → d.sealed = false → d.on 5 = true → (d.eng k).direct = true →
        ∃ t, exec (.loadref i) s = .next t ∧
          (∀ n < min 4096 (Config.refLength p), SMap.get 0 (t.chip.dev.eng k).prog n = Config.refProgram p n) ∧
          (∀ n < 64, SMap.get 0 (t.chip.dev.eng k).table n = 0) ∧ (t.chip.dev.eng k).ref = some (RefProg.zero (Fin.ofNat 3 (p - 1))) ∧
          (∀ n, 64 ≤ n → SMap.get 0 (t.chip.dev.eng k).table n = SMap.get 0 (d.eng k).table n) ∧
          t.chip.dev.reg (A.escEkW k) = wd ((refFigures p).2.1 * 2 ^ 16 + (refFigures p).1) ∧
          t.chip.dev.reg (A.escEkWfault k) = wd 12 ∧ t.chip.dev.rf (A.escEkCfg k) 4 0 = 1 ∧
          t.chip.dev.sup.replies = d.sup.replies ++ [h.reply 0 []]))

/-! ## The ferroelectric store (12) -/

/-- A write of the array by a master that may reach and is privileged for it opens the page, closing another that was open, and stores
its bytes little-endian at their addresses by the present mapping (R409, R415), and nowhere else where no codeword of the array reads
wrong; what the outer code does not restore of the page written or the one closed may be settled with it. In an enabled protected range it
stores nothing: error cause 7, WPDENIED, NVM_FAILADDR (R424, R425). A read of a page without errors answers the bytes stored; a page that is neither closed nor the
open one is TORN and says so (R409, R421-R423). FLUSH and the page-close timeout close the open page: its check bytes are
those of its contents, and its close count advances (R412, R415, R416). -/
def Obligations.ArrayAccess : Prop :=
  ∀ (s : State) (m : Master) (addr : BitVec 24) (size : Fin 3) (data : Word),
    let d := s.chip.dev
    let n := s.chip.nvm
    let off := addr.toNat - 0x400000
    let p := off / 256
    let home := 256 * n.phys p + off % 256
    let ours := d.held = false ∧ 0x400000 ≤ addr.toNat ∧ addr.toNat < 0x440000 ∧ addr.toNat % sizeBytes size = 0 ∧
      (m = .sv ∨ off < 0x3F000) ∧ d.mayReach m.id 21 = true ∧ m.isEngine = false
    (ours → d.privileged m.id 21 = true → d.writeProtected p = false → n.remapRun = none → (n.scrubbing = false ∨ p < n.scrubNext) →
      ∃ t, exec (.nvmWrite m addr size data) s = .next t ∧ t.chip.dev.resp = .done ∧
        (∀ i < sizeBytes size, t.chip.nvm.byteAt (home + i) = BitVec.ofNat 8 (data.toNat / 256 ^ i)) ∧
        (∀ a, a / 256 ≠ n.phys p → (∀ q, n.openPage = some q → a / 256 ≠ n.phys q) → t.chip.nvm.byteAt a = n.byteAt a) ∧
        (n.errs = [] → ∀ a, (a < home ∨ home + sizeBytes size ≤ a) → t.chip.nvm.byteAt a = n.byteAt a) ∧
        t.chip.nvm.openPage = some p ∧ (n.openPage ≠ some p → (t.chip.nvm.page (n.phys p)).isOpen = true) ∧
        (∀ q, n.openPage = some q → n.phys q ≠ n.phys p → n.errs = [] →
          t.chip.nvm.page (n.phys q) =
            { isOpen := false, closes := ((n.page (n.phys q)).closes + 1) % 2 ^ 48, check := pageCheck (n.pageBytes (n.phys q)) }) ∧
        t.chip.nvm.counters = n.counters ∧ (∀ a, a ≠ A.nvmTorncnt → t.chip.dev.reg a = d.reg a)) ∧
    (ours → d.privileged m.id 21 = true → d.writeProtected p = true →
      exec (.nvmWrite m addr size data) s = .next (State.errored (s.to
        ((d.raiseSq A.nvmStat 0x04).setIreg m.id A.nvmFailaddr (wd (2 ^ 31 + 7 * 2 ^ 24 + addr.toNat)))) m 7 addr)) ∧
    (ours → n.pageErrs (n.phys p) = [] → ∃ t w, exec (.nvmRead m addr size []) s = .next t ∧ t.chip.dev.resp = .data w ∧ t.chip.nvm = n ∧
      w.toNat < 256 ^ sizeBytes size ∧ (∀ i < sizeBytes size, BitVec.ofNat 8 (w.toNat / 256 ^ i) = n.byteAt (home + i)) ∧
      ((n.page (n.phys p)).isOpen = false ∨ n.openPage = some p → ∀ a, t.chip.dev.reg a = d.reg a) ∧
      ((n.page (n.phys p)).isOpen = true → n.openPage ≠ some p → t.chip.dev.rb A.nvmStat 0 = true)) ∧
    (∀ t, (d.held = false ∧ exec .pageCloseTimeout s = .next t) ∨
        (s.chip.lets m.id A.nvmCmd 1 ∧ exec (.nvmFlush m) s = .next t) →
      t.chip.nvm.openPage = none ∧ t.chip.nvm.remapNow = n.remapNow ∧
      (n.openPage = none → t.chip.nvm = n) ∧
      (∀ q, n.openPage = some q → n.pageErrs (n.phys q) = [] → t.chip.nvm.mem = n.mem ∧
        t.chip.nvm.page (n.phys q) =
          { isOpen := false, closes := ((n.page (n.phys q)).closes + 1) % 2 ^ 48, check := pageCheck (n.pageBytes (n.phys q)) } ∧
        ∀ ph, ph ≠ n.phys q → t.chip.nvm.page ph = n.page ph)) ∧
    (d.held = false → exec .pageCloseTimeout s = .next (s.landed { s.chip with nvm := n.closeOpen })) ∧
    (s.chip.lets m.id A.nvmCmd 1 → exec (.nvmFlush m) s = .next (s.done ((s.chip.loaded m.id A.nvmCmd 1).onNvm Nvm.closeOpen)))

/-- On a closed page that read clean before: one codeword that the inner code corrects, or one data codeword that fails it where the check
bytes are those of the contents, leaves what a read answers unchanged and is counted, and reads so until it is written; of two failing data codewords the bytes come back as stored, and each whose bytes are returned counts as uncorrectable
(R413, R414, R422, R423). NVM_PAGEINFO of a clean closed page reports STATUS 0 with both its codewords passing (R423).
SCRUB starts a scrub, which closes the open page; while one runs it is refused with CMDREFUSED (R428, R429). At the end of a scrub that
found every page closed and clean no byte has changed, NVM_SCRUBSTAT is 0 and SCRUBDONE is set (R428). REMAP copies the selected page
to the lowest free spare, or is refused for want of one or for a TORN page (R427); from its completion on the page is read there and
every other page where it was (R426, R427). -/
def Obligations.PageCodesScrubAndRemap : Prop :=
  (∀ (s : State) (m : Master) (addr : BitVec 24),
     let d := s.chip.dev
     let n := s.chip.nvm
     let off := addr.toNat - 0x400000
     let p := off / 256
     let home := 256 * n.phys p + off % 256
     let k := off % 256 / 8
     let closed := (n.page (n.phys p)).isOpen = false
     let ours := d.held = false ∧ 0x400000 ≤ addr.toNat ∧ addr.toNat < 0x440000 ∧
       (m = .sv ∨ off < 0x3F000) ∧ d.mayReach m.id 21 = true ∧ m.isEngine = false ∧ n.pageErrs (n.phys p) = []
     (ours → closed → ∀ j : Fin 32, ∃ t, exec (.nvmRead m addr 2 [(Fin.ofNat 34 j.val, .corrected)]) s = .next t ∧
       t.chip.dev.resp = .data ((n.byteAt home).setWidth 32) ∧
       t.chip.dev.reg A.nvmEccinner = wd (min (2 ^ 32 - 1) ((d.reg A.nvmEccinner).toNat + 1)) ∧
       (∀ a, a ≠ A.nvmEccinner → t.chip.dev.reg a = d.reg a) ∧ t.chip.nvm = n.setErrs (n.phys p) [(Fin.ofNat 34 j.val, .corrected)]) ∧
     (ours → closed → (n.page (n.phys p)).check = pageCheck (n.pageBytes (n.phys p)) → ∀ (j : Fin 32) (mask : BitVec 64),
       ∃ t, exec (.nvmRead m addr 2 [(Fin.ofNat 34 j.val, .failed mask)]) s = .next t ∧
       t.chip.dev.resp = .data ((n.byteAt home).setWidth 32) ∧
       t.chip.dev.reg A.nvmEccouter = wd (min (2 ^ 32 - 1) ((d.reg A.nvmEccouter).toNat + 1)) ∧
       (∀ a, a ≠ A.nvmEccouter → t.chip.dev.reg a = d.reg a) ∧ t.chip.nvm = n.setErrs (n.phys p) [(Fin.ofNat 34 j.val, .failed mask)]) ∧
     (ours → closed → ∀ (j : Fin 32) (mask mask' : BitVec 64), j.val ≠ k →
       ∃ t, exec (.nvmRead m addr 2 [(Fin.ofNat 34 k, .failed mask), (Fin.ofNat 34 j.val, .failed mask')]) s = .next t ∧
       t.chip.dev.resp = .data ((n.byteAt home ^^^ BitVec.ofNat 8 (mask.toNat / 256 ^ (off % 8))).setWidth 32) ∧
       t.chip.dev.reg A.nvmUncorrcnt = wd (min (2 ^ 32 - 1) ((d.reg A.nvmUncorrcnt).toNat + 1)) ∧
       t.chip.dev.rb A.nvmStat 1 = true ∧
       t.chip.nvm = n.setErrs (n.phys p) [(Fin.ofNat 34 k, .failed mask), (Fin.ofNat 34 j.val, .failed mask')]) ∧
     (let q := fld (d.ireg m.id A.nvmPagesel) 9 0
      d.held = false → m.isEngine = false → d.on 1 = true → d.mayReach m.id 16 = true → (n.page q).isOpen = false → n.pageErrs q = [] → (∀ e ∈ n.remapNow, e.1 ≠ q) →
       ∃ t, exec (.pageinfoRead m []) s = .next t ∧ t.chip.dev.resp = .data 0x00C00000#32 ∧
         t.chip.dev.ireg m.id A.nvmPageinfo = 0x00C00000#32 ∧ t.chip.dev.ireg m.id A.nvmCwvalid = 0xFFFFFFFF#32 ∧
         (∀ a, t.chip.dev.reg a = d.reg a) ∧ t.chip.nvm = n)) ∧
  ((∀ (s : State) (m : Master), s.chip.lets m.id A.nvmCmd 2 →
     let c := s.chip.loaded m.id A.nvmCmd 2
     (s.chip.nvm.scrubbing = false → exec (.scrub m) s =
       .next (s.done (c.onNvm fun n => { n.closeOpen with
         scrubbing := true, scrubNext := 0, scrubDirty := [], scrubTally := (0, 0, 0) }))) ∧
     (s.chip.nvm.scrubbing = true → exec (.scrub m) s = .next (s.done (c.onDev fun d => d.raiseSq A.nvmStat 0x80)))) ∧
   (∀ s : State, s.chip.dev.held = false → s.chip.nvm.scrubbing = true → s.chip.nvm.remapRun = none → s.chip.nvm.errs = [] →
     s.chip.nvm.scrubTally = (0, 0, 0) → (∀ p, (s.chip.nvm.closeOpen.page p).isOpen = false) →
     ∃ t, exec (.scrubDone []) s = .next t ∧ t.chip.nvm.scrubbing = false ∧ t.chip.nvm.mem = s.chip.nvm.mem ∧
       t.chip.nvm.remapNow = s.chip.nvm.remapNow ∧ t.chip.dev.reg A.nvmScrubstat = 0 ∧ t.chip.dev.rb A.nvmStat 3 = true ∧
       (∀ a, a ≠ A.nvmScrubstat → a ≠ A.nvmStat → t.chip.dev.reg a = s.chip.dev.reg a)) ∧
   (∀ (s : State) (m : Master), s.chip.lets m.id A.nvmCmd 4 → s.chip.nvm.remapRun = none → s.chip.nvm.errs = [] →
     let n := s.chip.nvm
     let p := fld (s.chip.dev.ireg m.id A.nvmPagesel) 9 0
     let torn := (n.closeOpen.page (n.phys p)).isOpen
     (∀ k, n.freeSpare = some k → torn = false → ∃ t, exec (.remap m []) s = .next t ∧
       t.chip.nvm.remapRun = some (p, k) ∧ t.chip.nvm.remapNow = n.remapNow ∧
       (∀ o < 256, t.chip.nvm.byteAt (256 * (0x400 + k) + o) = n.byteAt (256 * n.phys p + o)) ∧
       (∀ a, (a < 256 * (0x400 + k) ∨ 256 * (0x400 + k) + 256 ≤ a) → t.chip.nvm.byteAt a = n.byteAt a)) ∧
     (n.freeSpare = none ∨ torn = true → ∃ t, exec (.remap m []) s = .next t ∧ t.chip.nvm.mem = n.mem ∧
       t.chip.nvm.remapRun = none ∧ t.chip.nvm.remapNow = n.remapNow ∧ t.chip.dev.rb A.nvmStat 5 = true)) ∧
   (∀ (s : State) (p k : Nat), s.chip.dev.held = false → s.chip.nvm.remapRun = some (p, k) →
     ∃ t, exec .remapDone s = .next t ∧ t.chip.nvm.remapRun = none ∧ t.chip.nvm.mem = s.chip.nvm.mem ∧
       t.chip.nvm.phys p = 0x400 + k ∧ (∀ q, q ≠ p → t.chip.nvm.phys q = s.chip.nvm.phys q) ∧
       t.chip.dev.rb A.nvmStat 4 = true ∧ (∀ a, a ≠ A.nvmStat → t.chip.dev.reg a = s.chip.dev.reg a)))

/-- An increment adds 1 to its counter and to no other, modulo 2^64, and sets DONE (R430-R432); RC0-RC3 are refused to every master but
the supervisor, with REFUSED (R437). CINC does the same for its sender and answers the new value; CREAD answers the value and
NVM_RCINFOn; without the privilege they answer 6 (R437, R443). -/
def Obligations.Counters : Prop :=
  (∀ (s : State) (m : Master) (n : Fin 16),
    let f := fun w => setFld (setBit w 31 true) 3 0 n.val
    s.lets m A.nvmRccmd f →
      ((4 ≤ n.val ∨ m = .sv) → ∃ t, exec (.counterIncrement m n) s = .next t ∧
        t.chip.nvm.rc n.val = (s.chip.nvm.rc n.val + 1) % 2 ^ 64 ∧ (∀ k, k ≠ n.val → t.chip.nvm.rc k = s.chip.nvm.rc k) ∧
        t.chip.dev.rb A.nvmRcstat 0 = true ∧ t.chip.nvm.openPage = none ∧ (s.chip.nvm.errs = [] → t.chip.nvm.mem = s.chip.nvm.mem)) ∧
      (n.val < 4 → m ≠ .sv → exec (.counterIncrement m n) s = .next (s.took m A.nvmRccmd f fun d => d.raiseSq A.nvmRcstat 0x02))) ∧
  (∀ (s : State) (i : Fin 4) (h : HeldCmd),
    let d := s.chip.dev
    let n := fld (h.arg 1) 3 0
    let reach := d.reachAt h.sender h.priv 16 = true
    let priv := d.privAt h.sender h.priv 16 = true
    (s.holds i 2 0x10 h → reach → priv → (4 ≤ n ∨ h.sender = 2) → ∃ t, exec (.cinc i) s = .next t ∧
      t.chip.nvm.rc n = (s.chip.nvm.rc n + 1) % 2 ^ 64 ∧ (∀ k, k ≠ n → t.chip.nvm.rc k = s.chip.nvm.rc k) ∧
      t.chip.dev.sup.held = d.sup.held.erase h ∧ t.chip.dev.rb A.nvmRcstat 0 = true ∧
      (s.chip.nvm.errs = [] → t.chip.nvm.mem = s.chip.nvm.mem) ∧ t.chip.dev.sup.replies = d.sup.replies ++ [h.reply 0 [wd (t.chip.nvm.rc n), wd (t.chip.nvm.rc n / 2 ^ 32)]]) ∧
    (s.holds i 2 0x10 h → ¬(reach ∧ priv) → exec (.cinc i) s = .next (s.answered h 6 [])) ∧
    (s.holds i 2 0x11 h → reach → exec (.cread i) s = .next (s.answered h 0
      [wd (s.chip.nvm.rc n), wd (s.chip.nvm.rc n / 2 ^ 32), wd (s.chip.nvm.rcInfo n)])) ∧
    (s.holds i 2 0x11 h → ¬reach → exec (.cread i) s = .next (s.answered h 6 [])))

/-- RDEF defines an area of 1 to 64 pages that meets no other area and no protected range, or deletes it with no pages; RWRITE writes
the slot after the newest valid record, with the next SEQ and the record's check, and answers SEQ and the slot's address; RREAD answers
the newest valid record, RSCAN the valid slots, TORN pages and newest SEQ; LOGREAD answers a held entry of the log. The area table is kept in a page of the system
region (R408), the model's choice which (log entry 53). Each other outcome
has its STATUS: 6 without the privilege, 2 for a bad operand, 4 for an area or a record that is not there (R438-R443, R585). -/
def Obligations.RecordAreas : Prop :=
  ∀ (s : State) (i : Fin 4) (h : HeldCmd),
    let c := s.chip
    let n := s.chip.nvm
    let area := fld (h.arg 1) 3 0
    let may := c.dev.arrayMay h
    let reach := c.dev.reachAt h.sender h.priv 21
    (s.holds i 2 0x01 h →
      let first := (h.arg 2).toNat
      let pages := (h.arg 3).toNat
      let bad := 64 < pages ∨ 0x3F0 < first + pages ∨ c.areaClash area first pages = true
      (may = false → exec (.rdef i) s = .next (s.answered h 6 [])) ∧
      (may = true → pages ≠ 0 → bad → exec (.rdef i) s = .next (s.answered h 2 [])) ∧
      (may = true → (pages = 0 ∨ ¬bad) → ∃ t, exec (.rdef i) s = .next t ∧
        SMap.find t.chip.nvm.areas area = (if pages = 0 then none else some (first, pages)) ∧
        (∀ k, k ≠ area → SMap.find t.chip.nvm.areas k = SMap.find n.areas k) ∧
        t.chip.dev.sup = (s.answered h 0 []).chip.dev.sup ∧
        (n.remapRun = none → n.scrubbing = false → n.errs = [] →
          (∀ a, a / 256 ≠ n.phys SysRec.areas.page → t.chip.nvm.byteAt a = n.byteAt a) ∧
          (∀ a, a ≠ A.nvmTorncnt → t.chip.dev.reg a = c.dev.reg a)))) ∧
    (s.holds i 2 0x02 h →
      let len := fld (h.arg 1) 15 8
      (may = false → exec (.rwrite i) s = .next (s.answered h 6 [])) ∧
      (may = true → 48 < len → exec (.rwrite i) s = .next (s.answered h 2 [])) ∧
      (may = true → len ≤ 48 → SMap.find n.areas area = none → exec (.rwrite i) s = .next (s.answered h 4 [])) ∧
      (∀ first pages, may = true → len ≤ 48 → SMap.find n.areas area = some (first, pages) →
        n.remapRun = none → n.scrubbing = false → n.errs = [] →
        let sc := (c.areaScan area first pages).1
        let slot := nextSlot sc pages
        let seq := match sc.newest with | some (_, q) => (q + 1) % 2 ^ 32 | none => 1
        c.dev.writeProtected (slotOff first slot / 256) = false →
        ∃ t, exec (.rwrite i) s = .next t ∧ t.chip.nvm.openPage = none ∧
          t.chip.nvm.slotRead first slot = slotBytes seq area ((wordBytes ((List.range 12).map fun k => h.arg (k + 2))).take len) ∧
          t.chip.dev.sup.replies = c.dev.sup.replies ++ [h.reply 0 [wd seq, wd (0x400000 + slotOff first slot)]])) ∧
    (s.holds i 2 0x03 h →
      (reach = false → exec (.rread i) s = .next (s.answered h 6 [])) ∧
      (reach = true → SMap.find n.areas area = none → exec (.rread i) s = .next (s.answered h 4 [])) ∧
      (∀ first pages, reach = true → SMap.find n.areas area = some (first, pages) →
        ∃ t, exec (.rread i) s = .next t ∧ t.chip.nvm.mem = n.mem ∧ t.chip.dev.sup.replies = c.dev.sup.replies ++
          [match (c.areaScan area first pages).1.newest with
           | none => h.reply 4 []
           | some (slot, seq) => h.reply 0 (wd seq :: wd ((n.slotRead first slot).getD 5 0).toNat ::
              leWords 12 (((n.slotRead first slot).drop 8).take 48))])) ∧
    (s.holds i 2 0x04 h →
      (reach = false → exec (.rscan i) s = .next (s.answered h 6 [])) ∧
      (reach = true → SMap.find n.areas area = none → exec (.rscan i) s = .next (s.answered h 4 [])) ∧
      (∀ first pages, reach = true → SMap.find n.areas area = some (first, pages) →
        let sc := (c.areaScan area first pages).1
        ∃ t seq, exec (.rscan i) s = .next t ∧ t.chip.nvm.mem = n.mem ∧ (∀ k q, sc.newest = some (k, q) → seq = wd q) ∧
          t.chip.dev.sup.replies = c.dev.sup.replies ++ [h.reply 0 [wd sc.valid.length, wd sc.torn.length, seq]])) ∧
    (s.holds i 2 0x20 h →
      (n.logEntry (fld (h.arg 1) 5 0) = none → exec (.logread i) s = .next (s.answered h 4 [])) ∧
      (∀ b, n.logEntry (fld (h.arg 1) 5 0) = some b → exec (.logread i) s = .next (s.answered h 0 (leWords 8 b))))

/-! ## The auxiliary converter and the real-time clock (09, 13) -/

/-- The TIMER event falls one period after the source was enabled or last fired (R327). An enabled trigger event is accepted by an idle
converter, held by a busy one, and merged, counted and reported with TRIGLOST when one is held already (R327, R329); of two triggers of one
XTM period the lower source goes first (R334); a pulse of the chosen pin and polarity, 3 periods long at least, is its source and its width is kept
(R328). An urgent request or a calibration step waits for the next start, or is ignored with URGREFUSED while one waits (R331, R332).
A conversion starts with the urgent request first, else with the accepted trigger, when its delay and the conversion before it are over
(R330, R331), in the mode and with the lock in force (R323, R324, R334). A result comes once its window and 40 us are over (R323, R606). A result in range
of an input with unity calibration is written with its code and flags, counted, and ends the conversion; a ZERO step keeps it as the
zero point of its pin, a FULL step makes CALG of it and the zero point (R321, R325, R332). -/
def Obligations.AuxConverter : Prop :=
  (∀ (s : State) (t : Nat), let d := s.chip.dev
    let due := d.aux.timerAt + 16384 * max 1 (d.af A.auxTimer 15 0)
    let x := d.trigNow 1 due
    let a := { d.aux with timerAt := due }
    d.held = false →
      ((d.xtmOk = false ∨ d.ab (A.auxTRGnCfg 1) 31 = false ∨ t < due) → exec (.auxTimerEvent t) s = .next s) ∧
      (d.xtmOk = true → d.ab (A.auxTRGnCfg 1) 31 = true → due ≤ t →
        (d.aux.busy = false → exec (.auxTimerEvent t) s = .next (s.to { d.at t with aux := { a with waiting := some x } })) ∧
        (d.aux.busy = true → d.aux.held = none →
          (∀ w, d.aux.waiting = some w → w.t = due → 1 < w.src → d.aux.running = none →
            exec (.auxTimerEvent t) s = .next (s.to { d.at t with aux := { a with waiting := some x, held := some w } })) ∧
          ((∀ w, d.aux.waiting = some w → w.t ≠ due ∨ w.src ≤ 1 ∨ d.aux.running ≠ none) →
            exec (.auxTimerEvent t) s = .next (s.to { d.at t with aux := { a with held := some x } }))) ∧
        (d.aux.busy = true → d.aux.held ≠ none → exec (.auxTimerEvent t) s =
          .next (s.to (({ d.at t with aux := a }.count A.auxTriglost 15 8 1).raiseSq A.auxStat 0x2))))) ∧
  (∀ (s : State) (gpio : Fin 8) (high : Bool) (width t : Nat), let d := s.chip.dev
    let ours := d.xtmOk = true ∧ (d.fuses.build = .s → gpio.val < 3) ∧ d.af A.auxPwcfg 2 0 = gpio.val ∧ d.ab A.auxPwcfg 4 = high ∧ 3 ≤ width
    d.held = false →
      (¬ours → exec (.auxPwPulseEnd gpio high width t) s = .next s) ∧
      (ours → ∃ u, exec (.auxPwPulseEnd gpio high width t) s = .next u ∧
        u.chip.dev.reg A.auxPwidth = wd (min (2 ^ 32 - 1) width) ∧ u.chip.nvm = s.chip.nvm ∧
        (d.ab (A.auxTRGnCfg 2) 31 = false → u.chip.dev.aux = d.aux) ∧
        (d.ab (A.auxTRGnCfg 2) 31 = true → d.aux.busy = false → u.chip.dev.aux = { d.aux with waiting := some (d.trigNow 2 t) }))) ∧
  (∀ (s : State) (m : Master) (insel : BitVec 4) (pin : Fin 4) (t : Nat), let s' := s.at t
    let asks := fun (i : Instr) (a : Nat) (f : Word → Word) (src input : Nat) => s'.lets m a f →
      (s.chip.dev.aux.urgent = none → exec i s = .next (s'.took m a f fun d =>
        { d with aux := { d.aux with urgent := some { src := src, insel := input, t := d.now, delay := 0 } } })) ∧
      (s.chip.dev.aux.urgent ≠ none → exec i s = .next (s'.took m a f fun d => d.raiseSq A.auxStat 0x4))
    asks (.auxUrgent m insel t) A.auxCmd (fun w => setFld (setBit w 31 true) 27 24 insel.toNat) 3 insel.toNat ∧
    asks (.auxCalZero m pin t) A.auxCalcmd (fun w => setFld (goOp 1 w) 25 24 pin.val) 4 pin.val ∧
    asks (.auxCalFull m pin t) A.auxCalcmd (fun w => setFld (goOp 2 w) 25 24 pin.val) 5 pin.val) ∧
  (∀ (s : State) (x : AuxTrig) (t : Nat), let d := s.chip.dev
    let start := max x.due d.aux.lastEnd
    let mode := d.af A.auxCfg 1 0
    let run : AuxRun := { trig := x, insel := d.auxInput x, locked := d.locked, late := (start - x.due) * 1000, mode := mode
                          byCyc := d.locked, start := start, tick0 := d.cycCount (start + auxStartUp mode) }
    d.held = false → d.xtmOk = true → d.aux.running = none →
      (d.aux.urgent = some x → start ≤ t →
        exec (.auxConversionStart t) s = .next (s.to { d with aux := { d.aux with urgent := none, running := some run } })) ∧
      (d.aux.urgent = none → d.aux.waiting = some x → start ≤ t →
        exec (.auxConversionStart t) s = .next (s.to { d with aux := { d.aux with waiting := none, running := some run } })) ∧
      ((d.aux.urgent = some x ∨ (d.aux.urgent = none ∧ d.aux.waiting = some x)) → t < start →
        exec (.auxConversionStart t) s = .next s)) ∧
  (∀ (s : State) (r : AuxRun) (raw late t : Nat), let d := s.chip.dev
    let x := r.trig
    d.held = false → d.xtmOk = true → d.auxOver r t = true → d.aux.running = some r → r.insel < 8 → r.insel ≠ 4 → raw ≤ 0xFFFFF →
    (x.src < 4 → d.auxPair x r.insel = (2 ^ 22, 0)) → r.late = 16384 * late → ∃ u, exec (.auxResult raw t) s = .next u ∧
      u.chip.dev.reg (A.auxRESi r.insel) =
        wd (2 ^ 31 + (r.locked && d.locked).toNat * 2 ^ 29 + min 3 x.src * 2 ^ 26 + raw) ∧
      u.chip.dev.reg A.auxLast = wd (r.insel * 2 ^ 28 + (d.rf A.auxLast 27 16 + 1) % 4096 * 2 ^ 16 + min (2 ^ 16 - 1) late) ∧
      u.chip.dev.rb A.auxStat 0 = true ∧ u.chip.dev.aux.running = none ∧ u.chip.dev.aux.lastEnd = t ∧ u.chip.dev.aux.urgent = d.aux.urgent ∧
      (d.aux.waiting = none → d.aux.urgent = none → u.chip.dev.aux.waiting = d.aux.held ∧ u.chip.dev.aux.held = none) ∧
      (x.src = 4 → SMap.find u.chip.dev.aux.zeros x.insel = some (raw : Int)) ∧
      (∀ (x0 : Int), x.src = 5 → SMap.find d.aux.zeros x.insel = some x0 → 65536 ≤ raw - x0 →
        let g := Q.round (Q.mk (d.rf A.auxCaltgt 19 0 * 2 ^ 22) (raw - x0).toNat)
        (0x300000 ≤ g → g ≤ 0x500000 → u.chip.dev.reg A.auxCalresg = wd (2 ^ 31 + x.insel * 2 ^ 24 + g.toNat) ∧
          u.chip.dev.reg A.auxCalreso = wd (2 ^ 31 + x.insel * 2 ^ 24 + toField 24 x0) ∧ u.chip.dev.rb A.auxStat 3 = true) ∧
        ((g < 0x300000 ∨ 0x500000 < g) → u.chip.dev.reg A.auxCalresg = d.reg A.auxCalresg ∧ u.chip.dev.rb A.auxStat 4 = true)) ∧
      u.chip.nvm = s.chip.nvm)

/-- A tick advances the calendar, or counts in HALTTICKS while it is halted; past its last tick it starts over with TIMELOST (R445,
R446, R448). An armed alarm that matches the second which a tick begins, and has not fired for it or a later one, fires, and disarms
unless it repeats (R451, R452). No periodic event falls while it is halted (R455). A tamper input found low at two ticks in a row is recorded (R594). Nothing but the clock's own state changes.
HALT stops the calendar and clears HALTTICKS (R448). A release with LOAD loads the set time, with the halted ticks under CATCHUP, and
clears TIMELOST; one without LOAD goes on from where the calendar stood; a halted clock with no valid time to load refuses with VALUE
(8) and stays halted (R449, R450). ARM and DISARM act on their alarm (R452); in the tick of a match they apply before it: an ARM fires, and a DISARM gives back a
firing of that tick (R466); CLRREC makes the record of the first switchover EMPTY for
the supervisor and a host at L1 (R465); XTRETURN is refused with VALUE until XTOK, and takes effect at a tick (R459). A read of
RTC_SUBSEC freezes the calendar for its master, until its read of RTC_YEAR or the expiry (R447).
A failure of XT32 moves tick timing to LRC and sets XTAL_FAIL, and XTOK goes; it sets again once XT32 is stable (R457, R459). A
measurement of LRC sets its divisor (R458). With VDD below V_SW PD0 AON moves to VBAT: SWITCHED, the count, and the record of the
first switchover where there is none (R460, R463, R464); a loss of VBAT then, or a VBAT already low at the switchover, resets PD0 AON,
its LRC divisor again the fused one, and on VDD it sets BATLOW, which VDD_RETURN shows again (R458, R461, R462). A periodic event that is due sets PER (R455). -/
def Obligations.RealTimeClock : Prop :=
  (∀ (s : State) (t0 t1 : Bool), ∃ u, exec (.rtcTick t0 t1) s = .next u ∧
     let d := s.chip.dev
     let e := u.chip.dev
     let next := d.rtc.ticks + 1
     (d.rb A.rtcCtrl 0 = true → e.rtc.ticks = d.rtc.ticks ∧ e.rtc.perDue = d.rtc.perDue ∧
       e.reg A.rtcHaltticks = wd (min (2 ^ 32 - 1) ((d.reg A.rtcHaltticks).toNat + 1))) ∧
     (d.rb A.rtcCtrl 0 = false → e.reg A.rtcHaltticks = d.reg A.rtcHaltticks ∧
       (next ≠ calendarEnd → e.rtc.ticks = next ∧ e.rb A.rtcStat 15 = d.rb A.rtcStat 15) ∧
       (next = calendarEnd → e.rtc.ticks = 0 ∧ e.rb A.rtcStat 15 = true)) ∧
     (∀ n : Fin 2,
       let sec := next / 256
       let fires := d.rb A.rtcCtrl 0 = false ∧ next % 256 = 0 ∧ d.armed n.val = true ∧ d.alarmMatch n.val sec = true ∧
         (∀ l, d.rtc.last n.val = some l → l < sec)
       next ≠ calendarEnd →
         (fires → e.rb A.rtcStat (1 + n.val) = true ∧ e.rtc.last n.val = some sec ∧
           e.armed n.val = d.rb (A.rtcALMnDate n.val) 28) ∧
         (¬fires → e.rtc.last n.val = d.rtc.last n.val ∧ e.armed n.val = d.armed n.val)) ∧
     e.rb A.rtcTamper 8 = t0 ∧ (t0 = false → d.rb A.rtcTamper 8 = false → e.rb A.rtcTamper 0 = true) ∧
     ((t0 = true ∨ d.rb A.rtcTamper 8 = true) → e.rb A.rtcTamper 0 = d.rb A.rtcTamper 0) ∧
     (∀ a, a ≠ A.rtcStat → a ≠ A.rtcTamper → a ≠ A.rtcHaltticks → e.reg a = d.reg a) ∧
     u.chip.nvm = s.chip.nvm ∧ e.sup = d.sup ∧ e.aux = d.aux) ∧
  (∀ (s : State) (m : Master),
     let d := s.chip.dev
     let w := d.reg A.rtcCtrl
     let accepts := fun (w : Word) => ∃ r, s.chip.acceptsPlain m.id A.rtcCtrl A.rtcCtrl 4 .plain w.toNat r
     (accepts (setBit w 0 true) → ∃ u, exec (.halt m) s = .next u ∧ u.chip.dev.rb A.rtcCtrl 0 = true ∧
       u.chip.dev.reg A.rtcHaltticks = (if d.rb A.rtcCtrl 0 then d.reg A.rtcHaltticks else 0) ∧
       u.chip.dev.rtc = d.rtc ∧ u.chip.nvm = s.chip.nvm ∧
       (∀ a, a ≠ A.rtcCtrl → a ≠ A.rtcHaltticks → u.chip.dev.reg a = d.reg a)) ∧
     (∀ load catchup : Bool, let v := setBit (setBit (setBit w 0 false) 1 load) 2 catchup
       (accepts v → ∃ u, exec (.calendarRelease m load catchup) s = .next u ∧ u.chip.dev.rb A.rtcCtrl 0 = false ∧
         u.chip.dev.rb A.rtcCtrl 1 = load ∧ u.chip.dev.rb A.rtcCtrl 2 = catchup ∧ u.chip.nvm = s.chip.nvm ∧
         ((load = false ∨ d.rb A.rtcCtrl 0 = false) → u.chip.dev.rtc = d.rtc) ∧
         (∀ n, load = true → d.rb A.rtcCtrl 0 = true → setTime (d.reg A.rtcStime) (d.reg A.rtcSdate) = some n →
           u.chip.dev.rtc.ticks = n + (if catchup then (d.reg A.rtcHaltticks).toNat else 0) ∧
           u.chip.dev.rb A.rtcStat 15 = false ∧ u.chip.dev.rb A.rtcStat 0 = true)) ∧
       (∀ r, d.held = false → m.isEngine = false → d.target A.rtcCtrl = .ok r → d.admits m.id A.rtcCtrl r.gp = true →
         load = true → d.rb A.rtcCtrl 0 = true → d.releaseTime v = none →
           exec (.calendarRelease m load catchup) s = .next (s.errored m 8 (BitVec.ofNat 24 A.rtcCtrl)))) ∧
     (∀ n : Fin 2,
       (let f := fun w => setBit w (2 * n.val) true
        s.lets m A.rtcCmd f → ∃ u, exec (.arm m n) s = .next u ∧
         ((d.rtc.newSec && d.alarmMatch n.val (d.rtc.ticks / 256)) = false →
           u.chip.dev.armed n.val = true ∧ u.chip.dev.rtc.last n.val = none) ∧
         ((d.rtc.newSec && d.alarmMatch n.val (d.rtc.ticks / 256)) = true → u.chip.dev.rtc.last n.val = some (d.rtc.ticks / 256) ∧
           u.chip.dev.armed n.val = d.rb (A.rtcALMnDate n.val) 28 ∧
           (d.firedNow n.val = none → u.chip.dev.rb A.rtcStat (1 + n.val) = true)) ∧
         u.chip.dev.armed (1 - n.val) = d.armed (1 - n.val) ∧ u.chip.nvm = s.chip.nvm ∧
         (∀ a, a ≠ A.rtcStat → a ≠ A.rtcCmd → u.chip.dev.reg a = d.reg a)) ∧
       (let f := fun w => setBit w (2 * n.val + 1) true
        s.lets m A.rtcCmd f → ∃ u, exec (.disarm m n) s = .next u ∧ u.chip.dev.armed n.val = false ∧
         (d.firedNow n.val = none → u.chip.dev.rtc = d.rtc ∧ u.chip.dev.rb A.rtcStat (1 + n.val) = d.rb A.rtcStat (1 + n.val)) ∧
         (∀ alm last, d.firedNow n.val = some (alm, last) → u.chip.dev.rtc.last n.val = last ∧
           u.chip.dev.rb A.rtcStat (1 + n.val) = (alm && d.rb A.rtcStat (1 + n.val))) ∧
         u.chip.dev.armed (1 - n.val) = d.armed (1 - n.val) ∧ u.chip.nvm = s.chip.nvm ∧
         (∀ a, a ≠ A.rtcStat → a ≠ A.rtcCmd → u.chip.dev.reg a = d.reg a))) ∧
     (let f := fun w => setBit w 6 true
      s.lets m A.rtcCmd f → ∃ u, exec (.clrrec m) s = .next u ∧ u.chip.dev.rtc = d.rtc ∧ u.chip.nvm = s.chip.nvm ∧
       u.chip.dev.rf A.rtcFswDate 31 30 = (if m.id = 2 ∨ (m.id < 2 ∧ d.level m.id = 1) then 0 else d.rf A.rtcFswDate 31 30)) ∧
     (let f := fun w => setBit w 5 true
      (s.lets m A.rtcCmd f → ∃ u, exec (.xtreturn m) s = .next u ∧ u.chip.dev.rtc = { d.rtc with xtPend := true } ∧
         u.chip.nvm = s.chip.nvm) ∧
      (∀ t0 t1, d.rtc.xtPend = true → d.rb A.rtcStat 13 = true →
         ∃ u, exec (.rtcTick t0 t1) s = .next u ∧ u.chip.dev.rb A.rtcStat 14 = false ∧ u.chip.dev.rtc.xtPend = false) ∧
      (∀ r, d.held = false → m.isEngine = false → d.target A.rtcCmd = .ok r → d.admits m.id A.rtcCmd r.gp = true → d.plain A.rtcCmd = 0 →
         d.reg A.rtcCmd = 0 → d.rb A.rtcStat 13 = false → exec (.xtreturn m) s = .next (s.errored m 8 (BitVec.ofNat 24 A.rtcCmd)))) ∧
     (d.held = false → m.isEngine = false → d.mayReach m.id 0x11 = true → d.on 0 = true →
       exec (.subsecRead m) s = .next (s.to { d with
         rtc := { d.rtc with shadows := SMap.insert m.id d.calendarNow d.rtc.shadows }, resp := .data d.calendarNow.1 }) ∧
       exec (.yearRead m) s = .next (s.to { d with
         rtc := { d.rtc with shadows := SMap.erase m.id d.rtc.shadows }
         resp := .data ((SMap.find d.rtc.shadows m.id).getD d.calendarNow).2.2.2 })) ∧
     (exec (.shadowExpire m) s = .next (s.to { d with rtc := { d.rtc with shadows := SMap.erase m.id d.rtc.shadows } }))) ∧
  (∀ s : State, let d := s.chip.dev
     (∃ u, exec .xt32Fail s = .next u ∧ u.chip.dev.rb A.rtcStat 13 = false ∧ u.chip.dev.rb A.rtcStat 14 = true ∧
       u.chip.dev.rb A.rtcStat 6 = true ∧ (∀ a, a ≠ A.rtcStat → u.chip.dev.reg a = d.reg a) ∧
       u.chip.dev.rtc.ticks = d.rtc.ticks ∧ u.chip.nvm = s.chip.nvm) ∧
     (exec .xt32Stable s = .next (s.to (d.putBit A.rtcStat 13 true))) ∧
     (∀ v : BitVec 16, exec (.lrcTrim v) s = .next (s.to (if d.xtmOk then d.setReg A.rtcLrctrim (v.setWidth 32) else d))) ∧
     (d.rtc.vddLow = true → exec .switchover s = .next s) ∧
     (d.rtc.vddLow = false → d.rtc.vbatLow = false → ∃ u, exec .switchover s = .next u ∧ u.chip.dev.rtc = { d.rtc with vddLow := true } ∧
       u.chip.dev.rb A.rtcStat 7 = true ∧ u.chip.dev.rf A.rtcSwpend 7 0 = min 255 (d.rf A.rtcSwpend 7 0 + 1) ∧
       (d.rf A.rtcFswDate 31 30 = 0 → u.chip.dev.reg A.rtcFswTime = wd (stampWords d.rtc.ticks).1 ∧
         u.chip.dev.reg A.rtcFswDate = wd (2 ^ 30 + (stampWords d.rtc.ticks).2)) ∧
       (d.rf A.rtcFswDate 31 30 ≠ 0 → u.chip.dev.reg A.rtcFswTime = d.reg A.rtcFswTime ∧
         u.chip.dev.reg A.rtcFswDate = d.reg A.rtcFswDate) ∧ u.chip.nvm = s.chip.nvm) ∧
     (exec .vddReturn s = .next (s.to ({ d with rtc := { d.rtc with vddLow := false } }.putBit A.rtcStat 12 d.rtc.vbatLow))) ∧
     (d.rtc.vddLow = false → exec .vbatLoss s = .next (s.to ({ d with rtc := { d.rtc with vbatLow := true } }.putBit A.rtcStat 12 true))) ∧
     (∀ i : Instr, (i = .vbatLoss ∧ d.rtc.vddLow = true) ∨ (i = .switchover ∧ d.rtc.vddLow = false ∧ d.rtc.vbatLow = true) →
       ∃ u, exec i s = .next u ∧ u.chip.dev.rtc.ticks = 0 ∧ u.chip.dev.rb A.rtcStat 15 = true ∧ u.chip.dev.rtc.vddLow = true ∧
         u.chip.dev.rtc.vbatLow = true ∧ u.chip.dev.reg A.rtcLrctrim = d.fuses.lrcDiv.setWidth 32 ∧
         (∀ a, 0x110000 ≤ a → a < 0x120000 → a ≠ A.rtcLrctrim → u.chip.dev.reg a = resetVal a) ∧
         (∀ a, (a < 0x110000 ∨ 0x120000 ≤ a) → u.chip.dev.reg a = d.reg a) ∧ u.chip.nvm = s.chip.nvm) ∧
     (∀ t : Nat, (d.rtc.perDue = false → exec (.periodicEvent t) s = .next s) ∧
       (d.rtc.perDue = true → ∃ u, exec (.periodicEvent t) s = .next u ∧ u.chip.dev.rtc.perDue = false ∧
         u.chip.dev.rb A.rtcStat 5 = true ∧ u.chip.nvm = s.chip.nvm)))

/-! ## Power, resets and clocks (14) -/

/-- POR, brown-out, RESETN and the full reset reset PD1-PD7 and are recorded in SYS_RSTCAUSE, POR as the only cause (R468, R478); a page
that was open stays marked open and so is TORN (R419). A reset that meets a write leaves the array as it is or as it was before one of that
command's write pulses or within it (R419, R420; which, is a free value, log entry 53). Brown-out and RESETN hold the reset, in which no command of a master or of the
hardware beyond PD0 AON acts, until their release; the last to release starts the sequence, which latches the straps, takes up the
newest remap table, protection map and seal, and moves SWPEND into RC2 (R426, R464, R479, R578, R582). -/
def Obligations.ResetSources : Prop :=
  ∀ s : State, let d := s.chip.dev
    let n := s.chip.nvm
    let left := fun (t : State) => (n.quiet d.now → t.chip.nvm.toStored = n.toStored) ∧
      (n.scrubbing = false → t.chip.nvm.toStored = n.toStored ∨ t.chip.nvm.toStored ∈ n.flight)
    (d.resetPin = false → ∃ t, exec .por s = .next t ∧ s.restarted t 0 ∧ t.chip.dev.rf A.sysRstcause 5 0 = 1 ∧ t.chip.dev.held = false ∧
      (n.quiet d.now → ∀ p, p ≠ t.chip.nvm.phys SysRec.log.page → t.chip.nvm.page p = n.page p)) ∧
    (∃ t, exec .brownOut s = .next t ∧ s.restarted t 1 ∧ t.chip.dev.held = true ∧ left t ∧
      (∀ a, (a < 0x110000 ∨ 0x120000 ≤ a) → a ≠ A.sysRstcause → a ≠ A.sysSupstat → t.chip.dev.reg a = resetVal a)) ∧
    (∃ t, exec .resetn s = .next t ∧ s.restarted t 2 ∧ t.chip.dev.held = true ∧ left t ∧
      (∀ a, (a < 0x110000 ∨ 0x120000 ≤ a) → a ≠ A.sysRstcause → a ≠ A.sysSupstat → t.chip.dev.reg a = resetVal a)) ∧
    (∀ m : Master, s.chip.lets m.id A.sysRstcmd 0x80000000 → ∃ t, exec (.fullReset m) s = .next t ∧ s.restarted t 3 ∧
      t.chip.dev.held = false) ∧
    (d.held = true → ∀ (m : Master) a z w, m.isEngine = false → exec (.registerWrite m a z w) s = .next (s.to { d with resp := .none })) ∧
    (∀ i : Instr,
      (i = .brownOutRelease ∧ d.inReset = true ∧ d.resetPin = false) ∨ (i = .resetnRelease ∧ d.inReset = false ∧ d.resetPin = true) →
      n.openPage = none → n.remapRun = none → n.scrubbing = false → ∃ t, exec i s = .next t ∧ t.chip.dev.held = false ∧ t.chip.dev.fuses.id = d.fuses.idPin ∧ t.chip.dev.fuses.hsel = (d.fuses.hselPin && d.fuses.build != .s) ∧
        t.chip.nvm.remapNow = (n.remapCopy.map (·.val)).getD [] ∧
        (∀ k, n.pmapCopy = some k → ∀ j < 6, t.chip.dev.reg (A.secPMAPn j) = k.val.getD j 0xBBBBBBBB#32) ∧
        (∀ k, n.sealCopy = some k → t.chip.dev.sealed = k.val) ∧
        t.chip.dev.rf A.rtcSwpend 7 0 = 0 ∧ t.chip.nvm.endPend = [] ∧
        (∀ a, a / 256 ≠ t.chip.nvm.phys SysRec.log.page → t.chip.nvm.byteAt a = n.byteAt a)) ∧
    (d.inReset = true → d.resetPin = true → exec .brownOutRelease s = .next (s.to { d with inReset := false }) ∧
      exec .resetnRelease s = .next (s.to { d with resetPin := false })) ∧
    (d.inReset = false → exec .brownOutRelease s = .next s) ∧ (d.resetPin = false → exec .resetnRelease s = .next s)

/-- A watchdog reset discards what the supervisor holds, advances its epoch and the count, records WDOG and leaves the RESTART notice
with the new epoch (R480). A domain reset refused by R471 says so in PWR_STAT; else the named domains that are on come back as at
power-up, every domain stays as it was, and DOMRST is recorded (R481). A supply that falls below 3.00 V sets LOWSUP (R477). An XTM
failure clears XTMOK, sets XTMFAIL, stops MOD and takes every CF output inactive with its P kept; XTMOK starts the clocks again, every
channel restarting, CYC running free and a held GO released (R43, R125, R484). An IRQ pin is high-impedance in reset, low while a routed
source is pending, else high or high-impedance as SYS_IRQCFG says; pins wired together read low while one is low (R486, R487). -/
def Obligations.WatchdogAndClockFailure : Prop :=
  (∀ (d : Dev) (pin : Fin 2),
    let asserted := ∃ k < 19, d.irqSource k = true ∧ (d.irqRoute k).testBit pin.val = true
    (d.held = true → d.irqLevel pin.val = none) ∧ (d.held = false → asserted → d.irqLevel pin.val = some false) ∧
    (d.held = false → ¬asserted → d.irqLevel pin.val = if d.rb A.sysIrqcfg pin.val then some true else none)) ∧
  (∀ l : List (Option Bool), irqLine l = false ↔ some false ∈ l) ∧
  (∀ s : State, s.chip.dev.held = false → ∃ t, exec .watchdogReset s = .next t ∧
    t.chip.dev.sup.held = [] ∧ t.chip.dev.sup.replies = [] ∧ t.chip.dev.epoch 2 = (s.chip.dev.epoch 2 + 1) % 2 ^ 16 ∧
    t.chip.dev.sup.notices = [[0x18000000#32, wd (t.chip.dev.epoch 2)]] ∧ t.chip.dev.rb A.sysRstcause 4 = true ∧
    t.chip.dev.reg A.sysWdtcnt = wd (min (2 ^ 32 - 1) ((s.chip.dev.reg A.sysWdtcnt).toNat + 1)) ∧
    (∀ n, SMap.find t.chip.dev.locks n ≠ some 2) ∧ t.chip.dev.mbox = s.chip.dev.mbox ∧ t.chip.dev.engines = s.chip.dev.engines ∧
    t.chip.nvm = s.chip.nvm) ∧
  (∀ (s : State) (m : Master) (dom : BitVec 8), s.chip.lets m.id A.sysRstcmd (dom.setWidth 32) → 4 ≤ dom.toNat →
    let x := dom.toNat / 4 * 4
    let d := (s.chip.loaded m.id A.sysRstcmd (dom.setWidth 32)).dev
    (∀ c, (d.domRefuses x).or (d.offRefuses x) = some c → ∃ t, exec (.domainReset m dom) s = .next t ∧
      t.chip.dev.rf A.pwrStat 19 16 = c ∧ t.chip.dev.rb A.pwrStat 1 = true ∧ t.chip.dev.engines = d.engines ∧
      t.chip.dev.chans = d.chans ∧ t.chip.dev.plc = d.plc ∧ t.chip.dev.pnl = d.pnl) ∧
    ((d.domRefuses x).or (d.offRefuses x) = none → ∃ t, exec (.domainReset m dom) s = .next t ∧
      t.chip.dev.rb A.sysRstcause 5 = true ∧ (∀ n < 8, t.chip.dev.on n = d.on n) ∧
      (dom.getLsbD 5 = true → d.on 5 = true → ∀ k : Fin 5, t.chip.dev.eng k.val = Engine.zero) ∧
      (dom.getLsbD 5 = true → d.on 5 = true → ∀ k : Fin 5, d.fuses.engine k.val = true →
        t.chip.dev.epoch (3 + k.val) = (d.epoch (3 + k.val) + 1) % 2 ^ 16) ∧
      (dom.getLsbD 5 = false → t.chip.dev.engines = d.engines) ∧
      (dom.getLsbD 6 = true → d.on 6 = true → t.chip.dev.plc = Plc.zero) ∧ (dom.getLsbD 6 = false → t.chip.dev.plc = d.plc))) ∧
  (∀ (s : State) (vdd avdd : Bool), ∃ t, exec (.lowSupply vdd avdd) s = .next t ∧
    t.chip.dev.rb A.sysSupstat 9 = vdd ∧ t.chip.dev.rb A.sysSupstat 10 = avdd ∧
    t.chip.dev.rb A.sysSupstat 0 = (s.chip.dev.rb A.sysSupstat 0 || (vdd && !s.chip.dev.rb A.sysSupstat 9) ||
      (avdd && !s.chip.dev.rb A.sysSupstat 10)) ∧
    (∀ a, a ≠ A.sysSupstat → t.chip.dev.reg a = s.chip.dev.reg a) ∧ t.chip.nvm = s.chip.nvm) ∧
  (∀ s : State, s.chip.dev.held = false → ∃ t, exec .xtmFail s = .next t ∧ t.chip.dev.xtmOk = false ∧
    t.chip.dev.rb A.clkStat 0 = true ∧ t.chip.dev.modOn = false ∧ t.chip.dev.locked = false ∧
    (∀ n : Fin 4, n.val < s.chip.dev.fuses.cfs → (t.chip.dev.out n.val).active = false ∧
      (t.chip.dev.out n.val).p = (s.chip.dev.out n.val).p ∧ (t.chip.dev.out n.val).h = (s.chip.dev.out n.val).h) ∧
    t.chip.dev.engines = s.chip.dev.engines ∧ t.chip.nvm = s.chip.nvm) ∧
  (∀ s : State, s.chip.dev.held = false →
    (s.chip.dev.xtmOk = true → exec .xtmokSet s = .next s) ∧
    (s.chip.dev.xtmOk = false → s.chip.dev.isMaster = true → ∃ t, exec .xtmokSet s = .next t ∧ t.chip.dev.xtmOk = true ∧
      t.chip.dev.modOn = true ∧ t.chip.dev.cmPend = s.chip.dev.cmPend.filter (· != A.fltSync) ∧
      t.chip.dev.fll = { Fll.zero with
        tick0 := s.chip.dev.now, due := s.chip.dev.now + nominalLen s.chip.dev.nom60, cycLen := s.chip.dev.fll.cycLen, period := nominalLen s.chip.dev.nom60 } ∧
      (∀ k : Fin 18, t.chip.dev.chan k.val = if s.chip.dev.chanOn k.val then
        (s.chip.dev.chan k.val).restart (s.chip.dev.chCfg k.val).settle else s.chip.dev.chan k.val) ∧
      (∀ a, a ≠ A.clkStat → t.chip.dev.reg a = s.chip.dev.reg a) ∧ t.chip.nvm = s.chip.nvm))

/-- A power command is refused in full with the first cause of R471 that applies, or accepted in full: ON takes the named domains that
are off in ascending order, OFF those that are on in descending order, one at each step; BUSY stands until the last, and DONE follows
(R471, R472). VCORE sets VCODE at once and settles later (R473). A PROFRUN makes the VCORE, ON and OFF of its profile and answers
PWR_DOM; PROFSAVE stores a profile; PWRINFO answers the power registers (R475); a
sender whose level does not reach the register the command stands for is answered STATUS 6 (R404). -/
def Obligations.PowerCommands : Prop :=
  (∀ (s : State) (m : Master) (on : Bool) (dom : BitVec 8),
    let i : Instr := if on then .pwrOn m dom else .pwrOff m dom
    let f := fun w => setFld (goOp (if on then 1 else 2) w) 7 0 dom.toNat
    let d := s.loaded m A.pwrCmd f
    let refused := fun c => exec i s = .next (s.took m A.pwrCmd f fun d => (d.putFld A.pwrStat 19 16 c).raiseSq A.pwrStat 0x2)
    let absent := ∃ n < 8, dom.getLsbD n = true ∧ d.fuses.dom n = false
    let fixed := dom.getLsbD 0 = true ∨ dom.getLsbD 1 = true
    let clock := on = true ∧ d.xtmOk = false ∧ ∃ n < 7, 2 ≤ n ∧ dom.getLsbD n = true
    let relief := on = false ∧ d.reliefHolds dom.toNat = true
    let inuse := on = false ∧ ((dom.getLsbD 6 = true ∧ (d.rb A.plcStat 10 = true ∨ d.classHeld 3 = true)) ∨
      (dom.getLsbD 7 = true ∧ d.classHeld 4 = true))
    let changes := ([2, 3, 4, 5, 6, 7] : List (Fin 8)).filter fun n => dom.getLsbD n.val && d.on n.val != on
    s.lets m A.pwrCmd f →
      (absent → refused 1) ∧ (¬absent → fixed → refused 2) ∧ (¬absent → ¬fixed → d.pwr ≠ none → refused 3) ∧
      (¬absent → ¬fixed → d.pwr = none → clock → refused 4) ∧ (¬absent → ¬fixed → d.pwr = none → relief → refused 5) ∧
      (¬absent → ¬fixed → d.pwr = none → ¬relief → inuse → refused 6) ∧
      (¬absent → ¬fixed → d.pwr = none → ¬clock → ¬relief → ¬inuse →
        (changes = [] → exec i s = .next (s.took m A.pwrCmd f fun d =>
          (({ d.putBit A.pwrStat 8 true with pwr := none } : Dev).putBit A.pwrStat 8 false).raiseSq A.pwrStat 0x1)) ∧
        (changes ≠ [] → exec i s = .next (s.took m A.pwrCmd f fun d => { d.putBit A.pwrStat 8 true with
          pwr := some { steps := (if on then changes else changes.reverse).map fun n => (n, on), vcore := none } })))) ∧
  (∀ (s : State) (m : Master) (v : BitVec 5),
    let f := fun w => setFld (goOp 3 w) 20 16 v.toNat
    let d := s.loaded m A.pwrCmd f
    let old := d.rf A.pwrVcore 4 0
    let refused := fun c => exec (.pwrVcore m v) s = .next (s.took m A.pwrCmd f fun d =>
      (d.putFld A.pwrStat 19 16 c).raiseSq A.pwrStat 0x2)
    let admits := v.toNat < old → d.allFit d.framePreset (boundB v.toNat) = true
    s.lets m A.pwrCmd f →
      (d.pwr ≠ none → refused 3) ∧ (d.pwr = none → ¬admits → refused 7) ∧
      (d.pwr = none → admits → v.toNat ≠ old → ∃ t, exec (.pwrVcore m v) s = .next t ∧ t.chip.dev.rf A.pwrVcore 4 0 = v.toNat ∧
        t.chip.dev.rb A.pwrVcore 8 = false ∧ t.chip.dev.rb A.pwrStat 8 = true ∧
        t.chip.dev.pwr = some { steps := [], vcore := some v } ∧ t.chip.dev.vBound = (if v.toNat < old then v.toNat else d.vBound))) ∧
  (∀ (s : State) (n : Fin 8) (on : Bool) (rest : List (Fin 8 × Bool)) (v : Option (BitVec 5)), s.chip.dev.held = false → 2 ≤ n.val →
    s.chip.dev.pwr = some { steps := (n, on) :: rest, vcore := v } → ∃ t, exec .powerStepDone s = .next t ∧
      t.chip.dev.on n.val = on ∧ (∀ k < 8, k ≠ n.val → t.chip.dev.on k = s.chip.dev.on k) ∧
      (rest ≠ [] → t.chip.dev.pwr = some { steps := rest, vcore := v } ∧ t.chip.dev.reg A.pwrStat = s.chip.dev.reg A.pwrStat) ∧
      (rest = [] → s.chip.dev.sup.profStep = none → t.chip.dev.pwr = none ∧ t.chip.dev.rb A.pwrStat 8 = false ∧
        t.chip.dev.rb A.pwrStat 0 = true) ∧
      (∀ cmd dom, rest = [] → s.chip.dev.sup.profStep = some (3, cmd, dom) → t.chip.dev.sup.profStep = none ∧
        t.chip.dev.sup.replies = s.chip.dev.sup.replies ++ [cmd.reply 0 [t.chip.dev.pwrDomWord]]) ∧
      t.chip.nvm = s.chip.nvm) ∧
  (∀ (s : State) (v : BitVec 5), s.chip.dev.held = false → s.chip.dev.pwr = some { steps := [], vcore := some v } →
    s.chip.dev.sup.profStep = none →
      let d : Dev := ({ s.chip.dev with vBound := v.toNat } : Dev).putBit A.pwrVcore 8 true
      exec .vcoreSettled s = .next (s.to ((({ d with pwr := none } : Dev).putBit A.pwrStat 8 false).raiseSq A.pwrStat 0x1))) ∧
  (∀ (s : State) (i : Fin 4) (h : HeldCmd), let d := s.chip.dev
    let reach := d.reachAt h.sender h.priv 0
    let may := reach && d.privAt h.sender h.priv 0
    let n := fld (h.arg 1) 3 0
    (s.holds i 5 1 h → let v := fld (h.arg 3) 4 0
      (may = false → exec (.profsave i) s = .next (s.answered h 6 [])) ∧
      (may = true → (3 < n ∨ 30 < v) → exec (.profsave i) s = .next (s.answered h 2 [])) ∧
      (may = true → n ≤ 3 → v ≤ 30 → d.sealed = true → exec (.profsave i) s = .next (s.answered h 5 [])) ∧
      (may = true → n ≤ 3 → v ≤ 30 → d.sealed = false → ∃ t, exec (.profsave i) s = .next t ∧
        SMap.find t.chip.nvm.profiles n = some ((BitVec.ofNat 8 (fld (h.arg 2) 7 2 * 4)), BitVec.ofNat 5 v) ∧
        (∀ k, k ≠ n → SMap.find t.chip.nvm.profiles k = SMap.find s.chip.nvm.profiles k) ∧
        t.chip.dev.sup = (s.answered h 0 []).chip.dev.sup ∧
        (s.chip.nvm.remapRun = none → s.chip.nvm.scrubbing = false → s.chip.nvm.errs = [] →
          (∀ a, a / 256 ≠ s.chip.nvm.phys SysRec.profiles.page → t.chip.nvm.byteAt a = s.chip.nvm.byteAt a) ∧
          (∀ a, a ≠ A.nvmTorncnt → t.chip.dev.reg a = d.reg a)))) ∧
    (s.holds i 5 2 h →
      (may = false → exec (.profrun i) s = .next (s.answered h 6 [])) ∧
      (may = true → 3 < n → exec (.profrun i) s = .next (s.answered h 2 [])) ∧
      (may = true → n ≤ 3 → SMap.find s.chip.nvm.profiles n = none → exec (.profrun i) s = .next (s.answered h 4 [0])) ∧
      (∀ dom v, may = true → n ≤ 3 → SMap.find s.chip.nvm.profiles n = some (dom, v) → d.pwr = none →
        d.rf A.pwrVcore 4 0 < v.toNat → ∃ t, exec (.profrun i) s = .next t ∧
        t.chip.dev.pwr = some { steps := [], vcore := some v } ∧ t.chip.dev.rf A.pwrVcore 4 0 = v.toNat ∧
        t.chip.dev.sup.profStep = some (1, { h with started := true }, dom.toNat) ∧ t.chip.dev.sup.replies = d.sup.replies ∧
        t.chip.nvm = s.chip.nvm)) ∧
    (s.holds i 5 3 h →
      (reach = false → exec (.pwrinfo i) s = .next (s.answered h 6 [])) ∧
      (reach = true → exec (.pwrinfo i) s = .next (s.answered h 0 [d.pwrDomWord, d.reg A.pwrVcore, d.reg A.sysRstcause]))))

/-! ## The power-line link (15) -/

/-- A DATA frame whose header CRC fails is counted; one with a TYPE not used is discarded; one of another network only keeps the medium
busy until the end of its SACK (R500, R510); of one of this network the header is counted, its
figures stand in PLC_LASTRX and its sender is in the neighbour table (R500, R516). A frame for this station that asks for a SACK gets
one (R513): of a whole frame under the default map whose blocks are all good the SACK marks every block, and the message stands in
RX RAM with its RXMSG notice (R502, R513, R520, R521). A SACK sent after failed blocks in swath 0-5 of a mapped frame brings the
receiver to the downgraded map (R517).
A station sends its burst and wins the slot that it drew below CW where the medium stays idle until it and no burst of a higher priority was heard; the slots
begin after the priority windows that follow the last exchange, or after the listening time (R510, R511, R512). A station that holds a
frame and has won a slot sends it, its header as R500 gives it and SPHASE by the group delay (R501): the first message of the highest priority goes to a neighbour of its
choice, with the next SEQ on its first frame (R511, R512, R514, R516); without a neighbour it is answered with cause 4 (R519). A SACK
that marks every block returns CW to its start and completes the frame, and with it a message that has no bytes left: STATUS 0, the next
hop and the frames sent (R512, R519); failed blocks, or no SACK, repeat the frame up to RETRY times and then answer cause 5 (R514); no
SACK doubles CW up to its limit (R512). A tone-map message replaces the map of its link (R505); a neighbour not heard for its time
leaves the table with the LINKLOST notice (R516, R520); a saturated receive input sets RXSAT (R607). -/
def Obligations.PowerLineLink : Prop :=
  ((∀ (s : State) (f : DataFrame), let d := s.chip.dev
     let h := f.hdr
     let own := d.rf A.plcCfg 23 12
     let ready := d.held = false ∧ d.plc.started = true ∧ d.on 6 = true ∧ d.xtmOk = true
     let stop := if h.ackreq = true ∧ h.dst ≠ 0xFFF then d.now + 9216 * (1 + d.plc.headSyms) else d.now
     (ready → f.hdrOk = false → exec (.dataFrameReceived f) s = .next (s.to (d.count A.plcHdrfail 31 0 1))) ∧
     (ready → f.hdrOk = true → h.typ ≠ 0 → exec (.dataFrameReceived f) s = .next s) ∧
     (ready → f.hdrOk = true → h.typ = 0 → h.nid ≠ d.rf A.plcCfg 31 24 → exec (.dataFrameReceived f) s = .next (s.to
       { d with plc := { d.plc with edge := stop, hearUntil := stop } })) ∧
     (ready → f.hdrOk = true → h.typ = 0 → h.nid = d.rf A.plcCfg 31 24 → ∃ t, exec (.dataFrameReceived f) s = .next t ∧
       t.chip.dev.reg A.plcRxhdr = wd (min (2 ^ 32 - 1) ((d.reg A.plcRxhdr).toNat + 1)) ∧
       t.chip.dev.reg A.plcLastrx = wd (h.src % 2 ^ 12 * 2 ^ 20 + h.seq % 256 * 2 ^ 12 + h.lock.toNat * 2 ^ 11 + f.lq.val * 2 ^ 6 +
         (if ∀ b ∈ f.blocks, b.good = true then 6 else f.wsw.val)) ∧ t.chip.dev.plc.edge = stop ∧
       (t.chip.dev.plc.nbr h.src).map (·.heard) = some d.now ∧ (t.chip.dev.plc.nbr h.src).map (·.lockHdr) = some h.lock ∧
       (h.dst = own → h.ackreq = true → t.chip.dev.plc.sackDue.map (fun k => (k.dst, k.seq)) = some (h.src, h.seq)) ∧
       (h.dst ≠ own → t.chip.dev.plc.sackDue = d.plc.sackDue) ∧
       (h.dst ≠ own → h.dst ≠ 0xFFF → t.chip.dev.plc.queue = d.plc.queue ∧ t.chip.dev.plc.rxMsgs = d.plc.rxMsgs ∧
         t.chip.dev.plc.segs = d.plc.segs) ∧ t.chip.nvm = s.chip.nvm) ∧
     (ready → f.hdrOk = true → h.typ = 0 → h.nid = d.rf A.plcCfg 31 24 → h.dst = own → own ≠ 0xFFF → h.fdst = own → h.ackreq = true → h.full = true → h.tmid = 0 →
       let msg := (f.blocks.map (·.bytes)).flatten
       f.blocks ≠ [] → f.blocks.length ≤ 64 → (∀ b ∈ f.blocks, b.good = true) → f.lastSeg = true → f.segIndex = 0 →
       (∀ x ∈ d.plc.holds, x.src ≠ h.src) → SMap.find d.plc.segs f.origSrc = none →
       (∀ e ∈ d.plc.delivered, e.1 ≠ h.src ∨ e.2.1 ≠ h.seq) → d.plc.room msg.length = true →
       (d.plc.nbr h.src).isSome = true → d.sup.notices.length < 16 →
       ∃ t o, exec (.dataFrameReceived f) s = .next t ∧
         t.chip.dev.plc.sackDue = some { dst := h.src, seq := h.seq, bitmap := BitVec.ofNat 64 (2 ^ f.blocks.length - 1), lq := f.lq.val,
                                         wsw := 6, tmid := 0, failed := false } ∧
         (o, msg.length) ∈ t.chip.dev.plc.rxMsgs ∧ (∀ k < msg.length, SMap.get 0 t.chip.dev.plc.rxRam (o + k) = msg.getD k 0) ∧
         t.chip.dev.sup.notices = d.sup.notices ++ [[wd (3 * 2 ^ 28 + 0x80 * 2 ^ 20 + min 255 (SMap.get 0 d.sup.dropped (3 * 256 + 0x80))),
           wd (f.origSrc % 2 ^ 12 + h.pri % 4 * 2 ^ 12), wd o, wd msg.length, wd f.lq.val]])) ∧
   (∀ s : State, let d := s.chip.dev
     d.held = false →
       (d.plc.sackDue = none → exec .sackSend s = .next s) ∧
       (∀ k, d.plc.sackDue = some k → d.plc.stopping = none → (k.failed = false ∨ 5 < k.wsw ∨ k.tmid = 0) → exec .sackSend s = .next (s.to
         { d.count A.plcTxframes 31 0 1 with plc := { d.plc with
             sackDue := none, air := some (d.plc.airFrame (sackWord k.dst k.seq k.bitmap k.lq k.wsw) [] [])
             txUntil := d.now + 9216 * (1 + d.plc.headSyms), edge := d.now + 9216 * (1 + d.plc.headSyms) } })) ∧
       (∀ k c, d.plc.sackDue = some k → d.plc.stopping = some c → ∃ t, exec .sackSend s = .next t ∧ t.chip.dev.plc.sackDue = none ∧
         t.chip.dev.plc.started = false ∧ t.chip.dev.plc.stopping = none ∧ t.chip.nvm = s.chip.nvm) ∧
       (∀ k n m, d.plc.sackDue = some k → d.plc.stopping = none → k.failed = true → k.wsw ≤ 5 → k.tmid ≠ 0 → d.plc.nbr k.dst = some n → n.rxCur = some m →
         m.tmid = k.tmid → ∃ t, exec .sackSend s = .next t ∧ t.chip.dev.plc.sackDue = none ∧
           t.chip.dev.reg A.plcTxframes = wd (min (2 ^ 32 - 1) ((d.reg A.plcTxframes).toNat + 1)) ∧
           t.chip.dev.plc.nbr k.dst = some { n with rxPrev := some m, rxCur := some (d.plc.downgrade m k.wsw) }))) ∧
  ((∀ (s : State) (m : Contention) (x : TxMsg) (rest : List TxMsg), let d := (s.at m.t).chip.dev
     let e := d.plc.edge
     let slots := if x.got ≤ e + 9216 * (5 - x.pri) then e + 6 * 9216 else max x.got (e + 6 * 9216) + 6 * 9216
     let busy := m.preamble = true ∨ m.floor + d.rf A.plcRxcfg 7 0 ≤ m.energy
     d.held = false → d.plc.started = true → d.on 6 = true → d.xtmOk = true → d.plc.sent = none → d.plc.sackDue = none →
     topMsg d.plc.queue = some (x, rest) → ∃ t, exec (.mediumAccess m) s = .next t ∧
       (t.chip.dev.rb A.plcStat 8 = true ↔ busy) ∧
       t.chip.dev.plc = { d.plc with floor := m.floor, air := if ¬busy ∧ m.burst = false then some d.plc.burst else d.plc.air, access :=
         if ¬busy ∧ m.burst = false ∧ m.slot < d.plc.cw ∧ slots + 2 * 9216 * m.slot ≤ m.t then some m.t else none } ∧
       t.chip.nvm = s.chip.nvm) ∧
   (∀ (s : State) (clip : Bool) (u : Nat) (m : TxMsg) (rest : List TxMsg), let d := s.chip.dev
     d.held = false → d.plc.started = true → d.on 6 = true → d.xtmOk = true → d.plc.access = some u → d.plc.sent = none →
     d.plc.sackDue = none → topMsg d.plc.queue = some (m, rest) → m.fdst ≠ 0xFFF →
       (d.plc.nbrs ≠ [] → (∀ e ∈ d.plc.nbrs, e.2.addr ≠ 0xFFF) → m.failed ≠ some [] →
         (∀ e ∈ d.plc.nbrs, 0 < d.plc.fits (d.mapFor e.2.addr) (d.hopPhase e.2.addr u) d.cycleNow) →
         ∃ t m' map, exec (.frameTransmit clip) s = .next t ∧ t.chip.dev.plc.sent = some (m', map) ∧ t.chip.dev.plc.access = none ∧
         t.chip.dev.plc.queue = rest ∧ m'.frames = m.frames + 1 ∧ (∃ e ∈ d.plc.nbrs, e.2.addr = m'.hop) ∧ m'.bytes = m.bytes ∧
         m'.cmd = m.cmd ∧ (m.nblk = 0 → m'.seq = d.plc.seq ∧ t.chip.dev.plc.seq = (d.plc.seq + 1) % 256) ∧
         (m.nblk ≠ 0 → m.failed ≠ none → m'.seq = m.seq ∧ t.chip.dev.plc.seq = d.plc.seq) ∧
         (∃ f h, t.chip.dev.plc.air = some f ∧ f.header = DataHdr.word h ∧ h.typ = 0 ∧ h.pri = m.pri ∧ h.ackreq = true ∧
           h.src = d.rf A.plcCfg 23 12 ∧ h.dst = m'.hop ∧ h.fdst = m.fdst ∧ h.hops = m.hops ∧ h.seq = m'.seq ∧ h.tmid = map.tmid ∧
           h.sphase = d.sphaseAt u ∧ h.lock = d.locked ∧ h.nid = d.rf A.plcCfg 31 24) ∧
         t.chip.dev.plc.edge = t.chip.dev.plc.txUntil + 9216 * (1 + d.plc.headSyms) ∧
         t.chip.dev.reg A.plcTxframes = wd (min (2 ^ 32 - 1) ((d.reg A.plcTxframes).toNat + 1)) ∧
         (clip = true → t.chip.dev.rb A.plcStat 2 = true) ∧ t.chip.nvm = s.chip.nvm) ∧
       (∀ c, d.plc.nbrs = [] → m.cmd = some c → d.plc.stopping = none → ∃ t, exec (.frameTransmit clip) s = .next t ∧
         t.chip.dev.plc.queue = rest ∧ t.chip.dev.sup.replies = d.sup.replies ++ [c.reply 4 [4]])) ∧
   (∀ (s : State) (k : Sack) (m : TxMsg) (map : ToneMap) (c : HeldCmd), let d := s.chip.dev
     let bad := (List.range m.nblk).filter fun j => !k.bitmap.getLsbD j
     d.held = false → d.plc.sent = some (m, map) → d.plc.started = true → k.dst = d.rf A.plcCfg 23 12 → d.plc.stopping = none →
       (k.seq ≠ m.seq → exec (.sackReceived k) s = .next s) ∧
       (k.seq = m.seq → bad = [] → m.bytes.length ≤ m.take → m.cmd = some c → ∃ t, exec (.sackReceived k) s = .next t ∧
         t.chip.dev.plc.sent = none ∧ t.chip.dev.plc.cw = 2 ^ min (d.rf A.plcMaccfg 11 8) (d.rf A.plcMaccfg 19 16) ∧
         t.chip.dev.plc.queue = d.plc.queue ∧ t.chip.dev.sup.replies = d.sup.replies ++ [c.reply 0 [wd m.hop, wd m.frames]] ∧
         t.chip.nvm = s.chip.nvm) ∧
       (k.seq = m.seq → bad ≠ [] → m.repeats < d.rf A.plcMaccfg 3 0 → ∃ t, exec (.sackReceived k) s = .next t ∧
         t.chip.dev.plc.sent = none ∧ t.chip.dev.plc.queue = { m with failed := some bad, repeats := m.repeats + 1 } :: d.plc.queue ∧
         t.chip.dev.sup = d.sup ∧ (∀ n, d.plc.nbr m.hop = some n → k.wsw.val ≤ 5 → map.tmid ≠ 0 →
           (t.chip.dev.plc.nbr m.hop).map (·.tx) = some (some (d.plc.downgrade map k.wsw.val)))) ∧
       (k.seq = m.seq → bad ≠ [] → d.rf A.plcMaccfg 3 0 ≤ m.repeats → m.cmd = some c → ∃ t, exec (.sackReceived k) s = .next t ∧
         t.chip.dev.plc.sent = none ∧ t.chip.dev.plc.queue = d.plc.queue ∧ t.chip.dev.sup.replies = d.sup.replies ++ [c.reply 4 [5]])) ∧
   (∀ (s : State) (m : TxMsg) (map : ToneMap), let d := s.chip.dev
     d.held = false → d.plc.sent = some (m, map) → d.plc.stopping = none → m.repeats < d.rf A.plcMaccfg 3 0 →
       ∃ t, exec .sackTimeout s = .next t ∧ t.chip.dev.plc.sent = none ∧
         t.chip.dev.plc.cw = min (2 * d.plc.cw) (2 ^ d.rf A.plcMaccfg 19 16) ∧ t.chip.dev.plc.edge = d.plc.txUntil ∧
         t.chip.dev.plc.queue = { m with failed := none, repeats := m.repeats + 1 } :: d.plc.queue ∧ t.chip.dev.sup = d.sup ∧ t.chip.nvm = s.chip.nvm) ∧
   (∀ (s : State) (a : Nat) (map : ToneMap) (n : Nbr), let d := s.chip.dev
     d.held = false → d.plc.started = true → d.on 6 = true → d.xtmOk = true → d.plc.nbr a = some n →
       (d.plc.allows map = true → ∃ t, exec (.toneMapMessage (.fromNeighbour a map)) s = .next t ∧
         t.chip.dev.plc.nbr a = some { n with heard := d.now, tx := some map } ∧ t.chip.nvm = s.chip.nvm) ∧
       (d.plc.allows map = false → exec (.toneMapMessage (.fromNeighbour a map)) s = .next s) ∧
       ((d.locked = false ∨ n.lockHdr = false ∨ d.plc.allows map = false) → exec (.toneMapMessage (.measured a map)) s = .next s) ∧
       (d.locked = true → n.lockHdr = true → d.plc.allows map = true → ∃ t, exec (.toneMapMessage (.measured a map)) s = .next t ∧
         t.chip.dev.plc.nbr a = some { n with rxPrev := n.rxCur, rxCur := some { map with
           tmid := nextTmid ((n.rxCur.map (·.tmid)).getD 0) } } ∧
         (∃ x, t.chip.dev.plc.queue = d.plc.queue ++ [x] ∧ x.fdst = a ∧
           x.mgmt = some (some { map with tmid := nextTmid ((n.rxCur.map (·.tmid)).getD 0) })) ∧ t.chip.nvm = s.chip.nvm)) ∧
   (∀ (s : State) (slot : Fin 32), let d := s.chip.dev
     d.held = false →
       ((∀ e ∈ d.plc.nbrs, e.1 ≠ slot) → exec (.neighbourTimeout slot) s = .next s) ∧
       (∀ e, d.plc.nbrs.find? (fun x => x.1 == slot) = some e → d.sup.notices.length < 16 → ∃ t,
         exec (.neighbourTimeout slot) s = .next t ∧ (∀ x ∈ t.chip.dev.plc.nbrs, x.1 ≠ slot) ∧
         t.chip.dev.sup.notices = d.sup.notices ++ [[wd (3 * 2 ^ 28 + 0x81 * 2 ^ 20 +
           min 255 (SMap.get 0 d.sup.dropped (3 * 256 + 0x81))), wd e.2.addr]] ∧ t.chip.nvm = s.chip.nvm) ∧
       (d.on 6 = true → d.xtmOk = true → exec .receiveInputSaturated s = .next (s.to (d.raiseSq A.plcStat 0x2))) ∧
       ((d.on 6 = false ∨ d.xtmOk = false) → exec .receiveInputSaturated s = .next s)))

/-- The CLASS 3 commands: STATUS 7 on a variant without the link; STATUS 6 for a sender that the link's block does not let through (R404); every one
but MACINFO STATUS 4 with cause 1 while PD6 PLC is off, STOP,
SEND and TMREQ with cause 2 while the MAC is stopped, CONFIG and START with cause 3 while it runs; else each has its effect: CONFIG writes
the configuration, START sets MACON and enables the driver, STOP clears it and answers the queue, SEND queues the message of TX RAM,
NBRINFO answers a neighbour, TMREQ queues the request, RXDONE frees its message, MACINFO answers the state (R519). -/
def Obligations.LinkCommands : Prop :=
  ∀ (s : State) (i : Fin 4) (h : HeldCmd), let d := s.chip.dev
    let reach := d.reachAt h.sender h.priv 0x12 = true
    let there := d.fuses.plc = true ∧ reach ∧ d.on 6 = true
    (∀ e ∈ ([(1, .plcConfig i), (2, .macStart i), (3, .macStop i), (4, .send i), (5, .nbrinfo i), (6, .tmreq i), (7, .rxdone i)] :
        List (Nat × Instr)), s.holds i 3 e.1 h →
      (d.fuses.plc = false → exec e.2 s = .next (s.answered h 7 [])) ∧
      (d.fuses.plc = true → ¬reach → exec e.2 s = .next (s.answered h 6 [])) ∧
      (d.fuses.plc = true → reach → d.on 6 = false → exec e.2 s = .next (s.answered h 4 [1])) ∧
      ((e.1 = 3 ∨ e.1 = 4 ∨ e.1 = 6) → there → d.plc.started = false → exec e.2 s = .next (s.answered h 4 [2]))) ∧
    (s.holds i 3 1 h → there →
      let may := d.privAt h.sender h.priv 0x12 = true
      let own := fld (h.arg 1) 27 16
      (¬may → exec (.plcConfig i) s = .next (s.answered h 6 [])) ∧
      (may → (own = 0 ∨ own = 0xFFF) → exec (.plcConfig i) s = .next (s.answered h 2 [])) ∧
      (may → own ≠ 0 → own ≠ 0xFFF → d.plc.started = true → exec (.plcConfig i) s = .next (s.answered h 4 [3])) ∧
      (may → own ≠ 0 → own ≠ 0xFFF → d.plc.started = false → ∃ t, exec (.plcConfig i) s = .next t ∧
        t.chip.dev.rf A.plcCfg 31 24 = fld (h.arg 2) 7 0 ∧ t.chip.dev.rf A.plcCfg 23 12 = own ∧
        t.chip.dev.rb A.plcCfg 0 = bit (h.arg 1) 0 ∧ t.chip.dev.rf A.plcTxcfg 4 0 = fld (h.arg 3) 4 0 ∧
        (∀ a, a ≠ A.plcCfg → a ≠ A.plcTxcfg → t.chip.dev.reg a = d.reg a) ∧
        t.chip.dev.sup = (s.answered h 0 []).chip.dev.sup ∧ t.chip.dev.plc = d.plc ∧ t.chip.nvm = s.chip.nvm)) ∧
    (s.holds i 3 2 h → there →
      (d.plc.started = true → exec (.macStart i) s = .next (s.answered h 4 [3])) ∧
      (d.plc.started = false → d.xtmOk = false → exec (.macStart i) s = .next s) ∧
      (d.plc.started = false → d.xtmOk = true → ∃ t, exec (.macStart i) s = .next t ∧ t.chip.dev.plc.started = true ∧
        t.chip.dev.txen = true ∧ t.chip.dev.plc.bandRun = d.rb A.plcCfg 0 ∧
        t.chip.dev.plc.maskRun = (List.range 8).map (fun n => d.reg (A.plcCMASKn n)) ∧
        t.chip.dev.rb A.plcStat 10 = true ∧ t.chip.dev.plc.cw = 2 ^ min (d.rf A.plcMaccfg 11 8) (d.rf A.plcMaccfg 19 16) ∧
        t.chip.dev.sup = (s.answered h 0 []).chip.dev.sup ∧ t.chip.nvm = s.chip.nvm)) ∧
    (s.holds i 3 3 h → there → d.plc.started = true →
      ((d.plc.sent ≠ none ∨ d.plc.sackDue ≠ none) → ∃ t, exec (.macStop i) s = .next t ∧ t.chip.dev.plc.stopping = some { h with started := true } ∧
        t.chip.dev.plc.started = true ∧ t.chip.dev.sup.replies = d.sup.replies ∧ t.chip.nvm = s.chip.nvm) ∧
      (d.plc.sent = none → d.plc.sackDue = none → ∃ t, exec (.macStop i) s = .next t ∧ t.chip.dev.plc.started = false ∧ t.chip.dev.plc.queue = [] ∧
        t.chip.dev.txen = false ∧ t.chip.dev.rb A.plcStat 10 = false ∧
        t.chip.dev.sup.replies = d.sup.replies ++ ((d.plc.queue.filterMap (·.cmd)).map (fun c => c.reply 4 [2])) ++ [h.reply 0 []] ∧
        t.chip.nvm = s.chip.nvm)) ∧
    (s.holds i 3 4 h → there → d.plc.started = true →
      let fdst := fld (h.arg 1) 11 0
      let off := fld (h.arg 2) 14 0
      let len := (h.arg 3).toNat
      let bad := len = 0 ∨ 8176 < len ∨ 16384 < off + len ∨ fdst = 0
      (bad → exec (.send i) s = .next (s.answered h 2 [])) ∧
      (¬bad → fdst ≠ 0xFFF → d.plc.nbrs = [] → exec (.send i) s = .next (s.answered h 4 [4])) ∧
      (¬bad → (fdst = 0xFFF ∨ d.plc.nbrs ≠ []) → ∃ t m, exec (.send i) s = .next t ∧ t.chip.dev.plc.queue = d.plc.queue ++ [m] ∧
        m.got = d.now ∧ m.fdst = fdst ∧ m.pri = fld (h.arg 1) 13 12 ∧ m.src = d.rf A.plcCfg 23 12 ∧ m.nblk = 0 ∧
        m.bytes = (List.range len).map (fun k => SMap.get 0 d.plc.txRam (off + k)) ∧ m.cmd = some { h with started := true } ∧
        t.chip.dev.sup.replies = d.sup.replies ∧ t.chip.nvm = s.chip.nvm)) ∧
    (s.holds i 3 5 h → there →
      ((∀ e ∈ d.plc.nbrs, e.1.val ≠ fld (h.arg 1) 4 0) → exec (.nbrinfo i) s = .next (s.answered h 0 [0, 0, 0])) ∧
      (∀ e, d.plc.nbrs.find? (fun x => x.1.val == fld (h.arg 1) 4 0) = some e → exec (.nbrinfo i) s = .next (s.answered h 0
        [wd (2 ^ 31 + e.2.addr % 2 ^ 12 * 2 ^ 16 + e.2.cls * 2 ^ 13 + e.2.inverted.toNat * 2 ^ 12 + meanOf e.2.lqs % 32),
         wd ((d.now - e.2.heard) / 16384000), wd ((e.2.tx.map (·.tmid)).getD 0)]))) ∧
    (s.holds i 3 6 h → there → d.plc.started = true → let a := fld (h.arg 1) 11 0
      (d.plc.nbr a = none → exec (.tmreq i) s = .next (s.answered h 4 [4])) ∧
      (d.plc.nbr a ≠ none → ∃ t m, exec (.tmreq i) s = .next t ∧ t.chip.dev.plc = { d.plc with queue := d.plc.queue ++ [m] } ∧ m.fdst = a ∧ m.mgmt = some none ∧
        t.chip.dev.sup = (s.answered h 0 []).chip.dev.sup ∧ t.chip.nvm = s.chip.nvm)) ∧
    (s.holds i 3 7 h → there → let o := fld (h.arg 1) 14 0
      ((∀ e ∈ d.plc.rxMsgs, e.1 ≠ o) → exec (.rxdone i) s = .next (s.answered h 4 [6])) ∧
      ((∃ e ∈ d.plc.rxMsgs, e.1 = o) → ∃ t, exec (.rxdone i) s = .next t ∧
        t.chip.dev.plc = { d.plc with rxMsgs := d.plc.rxMsgs.filter fun e => e.1 != o } ∧
        t.chip.dev.sup = (s.answered h 0 []).chip.dev.sup ∧ t.chip.nvm = s.chip.nvm)) ∧
    (s.holds i 3 8 h →
      (d.fuses.plc = false → exec (.macinfo i) s = .next (s.answered h 7 [])) ∧
      (d.fuses.plc = true → ¬reach → exec (.macinfo i) s = .next (s.answered h 6 [])) ∧
      (d.fuses.plc = true → reach → exec (.macinfo i) s = .next (s.answered h 0
        [if d.on 6 then d.plcStatus else 0, wd d.plc.nbrs.length, wd d.plc.rxMsgs.length])))

/-! ## The bistable panel (16) -/

/-- UPDATE is refused with the first cause that applies, or starts: its journal record is written pending before the pins move, BUSY is set,
the new image holds the data words in the image area and 0 outside it, a FULL run drives every segment of that area and a DIFF run
those that differ from the image of the latest completed update (R538, R541). RECOVER drives the journalled segments with CLEAR, then with the journalled slot
(R540). The loop is checked at the start: above BZLIM PANEL_CRACK is set, and with CRACKSTOP the command ends with cause 7 (R544). A
completed run records its target, clears BUSY and the journal, counts and answers its frames and AGEMULT (R538, R542, R543). -/
def Obligations.PanelUpdates : Prop :=
  (∀ (s : State) (i : Fin 4) (h : HeldCmd) (ohms : Nat), let d := s.chip.dev
    let n := s.chip.nvm
    let diff := bit (h.arg 1) 0
    let update : Instr := if diff then .updateDiff i ohms else .updateFull i ohms
    let there := d.fuses.coms ≠ 0 ∧ d.reachAt h.sender h.priv 0x13 = true ∧ d.on 7 = true
    let limit := d.rf A.pnlCfg 31 16 * 100
    let fine := ohms ≤ limit ∨ d.rb A.pnlCfg 1 = false
    (s.holds i 4 1 h → there →
      (d.pnl.dialRun ≠ none → exec update s = .next s) ∧
      (d.pnl.dialRun = none → n.journalPending = true → exec update s = .next (s.answered h 4 [2])) ∧
      (d.pnl.dialRun = none → n.journalPending = false → d.noTemp = true → exec update s = .next (s.answered h 4 [5])) ∧
      (d.pnl.dialRun = none → n.journalPending = false → d.noTemp = false → d.pnl.usable d.bandNow diff.toNat = false →
        exec update s = .next (s.answered h 4 [4])) ∧
      (d.pnl.dialRun = none → n.journalPending = false → d.noTemp = false → d.pnl.usable d.bandNow diff.toNat = true →
        (d.journalFails = true → exec update s = .next (s.answered h 4 [6])) ∧
        (d.journalFails = false → ∃ t j, exec update s = .next t ∧ t.chip.nvm.journalNow = some j ∧ j.pending = true ∧
          j.slot = diff.toNat ∧ j.band = d.bandNow ∧ n.keeps t.chip.nvm [.journal] ∧
          (∀ k < 32 * d.fuses.imgWords, segOf j.target k = (d.inArea k && bit (h.arg (2 + k / 32)) (k % 32))) ∧
          (∀ k < 32 * d.fuses.imgWords, segOf j.mask k = (d.inArea k && match d.pnl.image with
            | some o => !diff || segOf o k != segOf j.target k
            | none => true)) ∧
          t.chip.dev.rb A.pnlStat 14 = decide (limit < ohms) ∧ (limit < ohms → t.chip.dev.rb A.pnlStat 3 = true) ∧
          t.chip.dev.reg A.pnlAgemult = wd (s.chip.ageMult j.mask) ∧
          (fine → t.chip.dev.rb A.pnlStat 12 = true ∧ t.chip.dev.sup.replies = d.sup.replies ∧
            ∃ r, t.chip.dev.pnl.run = some r ∧ r.target = some j.target ∧ r.mask = j.mask ∧ r.slot = j.slot ∧ r.band = j.band ∧
              r.second = none ∧ r.live = true ∧ r.cmd = { h with started := true }) ∧
          (¬fine → t.chip.dev.rb A.pnlStat 12 = false ∧ t.chip.dev.pnl.run = none ∧
            t.chip.dev.sup.replies = d.sup.replies ++ [h.reply 4 [7]])))) ∧
    (s.holds i 4 2 h → there → d.pnl.dialRun = none → d.pnl.run = none →
      (n.journalPending = false → exec (.recover i ohms) s = .next (s.answered h 4 [3])) ∧
      (∀ j, n.journalNow = some j → j.pending = true →
        (d.noTemp = true → exec (.recover i ohms) s = .next (s.answered h 4 [5])) ∧
        (d.noTemp = false → (d.pnl.usable d.bandNow 3 = false ∨ d.pnl.usable d.bandNow j.slot = false) →
          exec (.recover i ohms) s = .next (s.answered h 4 [4])) ∧
        (d.noTemp = false → d.pnl.usable d.bandNow 3 = true → d.pnl.usable d.bandNow j.slot = true → d.journalFails = false → fine →
          ∃ t r, exec (.recover i ohms) s = .next t ∧ t.chip.dev.pnl.run = some r ∧ r.target = none ∧ r.mask = j.mask ∧ r.slot = 3 ∧
            r.band = d.bandNow ∧ r.second = some (j.slot, j.target) ∧ t.chip.dev.rb A.pnlStat 12 = true ∧
            t.chip.nvm.journalPending = true ∧ t.chip.dev.sup.replies = d.sup.replies ∧ n.keeps t.chip.nvm [.journal])))) ∧
  (∀ s : State, let d := s.chip.dev
    let n := s.chip.nvm
    d.held = false →
      (d.pnl.run = none → exec .waveformDone s = .next s) ∧
      (∀ r g, d.pnl.run = some r → r.live = true → r.second = none → r.target = some g → d.pnl.dial = [] →
        (∀ k, n.stressCopy = some k → k.seq < 2 ^ 32 - 1) → ∃ t, exec .waveformDone s = .next t ∧
        t.chip.dev.pnl.run = none ∧ t.chip.dev.pnl.image = some g ∧ t.chip.dev.rb A.pnlStat 12 = false ∧
        t.chip.dev.rb A.pnlStat 0 = true ∧ t.chip.nvm.journalPending = false ∧
        t.chip.dev.reg A.pnlUpdcnt = wd (min (2 ^ 32 - 1) ((d.reg A.pnlUpdcnt).toNat + 1)) ∧
        t.chip.dev.sup.replies = d.sup.replies ++ [r.cmd.reply 0 [wd r.frames, d.reg A.pnlAgemult]] ∧
        (let head := d.pnl.waveWord r.band r.slot 0
         ∀ k < d.fuses.coms * d.fuses.segs, (segOf r.mask k = false → SMap.get 0 t.chip.nvm.stress k = SMap.get 0 n.stress k) ∧
           (∀ o, segOf r.mask k = true → d.segBefore k = some o → SMap.get 0 t.chip.nvm.stress k =
             min (2 ^ 32 - 1) (SMap.get 0 n.stress k + (if o ≠ segOf g k then fld head 31 24 else fld head 23 16)))) ∧ n.keeps t.chip.nvm [.stress, .journal]) ∧
      (∀ r slot g, d.pnl.run = some r → r.live = true → r.second = some (slot, g) →
        (r.ohms ≤ d.rf A.pnlCfg 31 16 * 100 ∨ d.rb A.pnlCfg 1 = false) → ∃ t x, exec .waveformDone s = .next t ∧
        t.chip.dev.pnl.run = some x ∧ x.target = some g ∧ x.slot = slot ∧ x.mask = r.mask ∧ x.second = none ∧ x.cmd = r.cmd ∧
        t.chip.dev.rb A.pnlStat 12 = d.rb A.pnlStat 12 ∧ t.chip.dev.sup.replies = d.sup.replies ∧ t.chip.nvm.journal = n.journal))

/-- A CLASS 4 command on a device without the panel is answered 7, one of a sender that the panel's block does not let through 6, and BEZEL
of one without its privilege 6 (R404); one that needs PD7 PNL while it is off is answered 4 with cause 1
(R537). JDISCARD clears the journal, JINFO answers its record, WFSAVE stores the waveform RAM unless the seal is set, WFLOAD brings it
back, STRESS answers a count with the highest, STRESSSYNC brings the dial counters into the stored counts, BEZEL checks the loop (R537,
R543, R544); the supervisor copies the journal word after a power-up of PD7 (R541).
A dial update waits for a full update that runs; else it is refused with DCAUSE 9, 5 or 4 or drives DIALIMG; at its end it counts
the segments driven, DIALCNT and DIALDONE (R545). A bezel check shows BZOPEN and PANEL_CRACK when it is done (R544). A rail out of
tolerance stops a running update with cause 8 (R530). Every COM and SEG pin is at VSS while no waveform runs and while PD7 PNL is off
(R528); in a ROW phase the addressed common has CSEL and the others CUNS, and a segment line SON or SOFF by its target where it is driven
and SHOLD where it is not (R534). -/
def Obligations.PanelCommandsAndDial : Prop :=
  (∀ (s : State) (i : Fin 4) (h : HeldCmd) (ohms : Nat), let d := s.chip.dev
     let n := s.chip.nvm
     let reach := d.reachAt h.sender h.priv 0x13 = true
     let priv := d.privAt h.sender h.priv 0x13 = true
     let there := d.fuses.coms ≠ 0 ∧ reach ∧ d.on 7 = true
     (∀ e ∈ ([(1, if bit (h.arg 1) 0 then .updateDiff i ohms else .updateFull i ohms), (2, .recover i ohms), (3, .jdiscard i), (4, .jinfo i),
         (5, .wfsave i), (6, .wfload i), (7, .stress i), (8, .stresssync i), (9, .bezel i ohms)] : List (Nat × Instr)), s.holds i 4 e.1 h →
       (d.fuses.coms = 0 → exec e.2 s = .next (s.answered h 7 [])) ∧
       (d.fuses.coms ≠ 0 → (¬reach ∨ (e.1 = 9 ∧ ¬priv)) → exec e.2 s = .next (s.answered h 6 [])) ∧
       (d.fuses.coms ≠ 0 → reach → (e.1 = 9 → priv) → e.1 ≠ 3 → e.1 ≠ 4 → e.1 ≠ 7 → d.on 7 = false → exec e.2 s = .next (s.answered h 4 [1]))) ∧
     (s.holds i 4 3 h → d.fuses.coms ≠ 0 → reach → ∃ t, exec (.jdiscard i) s = .next t ∧ t.chip.nvm.journalPending = false ∧
       t.chip.dev.sup = (s.answered h 0 []).chip.dev.sup ∧ t.chip.dev.pnl = d.pnl ∧ d.sameRegs t.chip.dev ∧ n.keeps t.chip.nvm [.journal] ∧ (n.journalPending = false → t.chip.nvm = n)) ∧
     (s.holds i 4 4 h → d.fuses.coms ≠ 0 → reach → exec (.jinfo i) s = .next (s.answered h 0 (wd n.journalWord ::
       (List.range d.fuses.imgWords).map fun k => ((n.journalNow.map (·.target)).getD []).getD k 0))) ∧
     (s.holds i 4 5 h → there →
       (d.sealed = true → exec (.wfsave i) s = .next (s.answered h 5 [])) ∧
       (d.sealed = false → ∃ t, exec (.wfsave i) s = .next t ∧ t.chip.nvm.waves = some d.pnl.wave ∧
         t.chip.dev.sup = (s.answered h 0 []).chip.dev.sup ∧ t.chip.dev.pnl = d.pnl ∧ d.sameRegs t.chip.dev ∧ n.keeps t.chip.nvm [.waves])) ∧
     (s.holds i 4 6 h → there →
       (n.waves = none → exec (.wfload i) s = .next (s.answered h 4 [4])) ∧
       (∀ w, n.waves = some w → (d.rb A.pnlStat 12 = true ∨ d.rb A.pnlStat 13 = true) → exec (.wfload i) s = .next (s.answered h 3 [])) ∧
       (∀ w, n.waves = some w → d.rb A.pnlStat 12 = false → d.rb A.pnlStat 13 = false →
         exec (.wfload i) s = .next (State.answered (s.to (d.modPnl fun p => { p with wave := w })) h 0 []))) ∧
     (s.holds i 4 7 h → d.fuses.coms ≠ 0 → reach → let k := fld (h.arg 1) 8 0
       (d.fuses.coms * d.fuses.segs ≤ k → exec (.stress i) s = .next (s.answered h 2 [])) ∧
       (k < d.fuses.coms * d.fuses.segs → exec (.stress i) s = .next (s.answered h 0
         [wd (SMap.get 0 n.stress k), wd (stressTop n.stress).1, wd (stressTop n.stress).2]))) ∧
     (s.holds i 4 8 h → there → (∀ k, n.stressCopy = some k → k.seq < 2 ^ 32 - 1) →
       ∃ t, exec (.stresssync i) s = .next t ∧ t.chip.dev.pnl = { d.pnl with dial := [] } ∧
         t.chip.nvm.stress = d.pnl.dial.foldl (fun m e => stressAdd m e.1 e.2) n.stress ∧
         t.chip.dev.sup = (s.answered h 0 []).chip.dev.sup ∧ d.sameRegs t.chip.dev ∧ n.keeps t.chip.nvm [.stress]) ∧
     (s.holds i 4 9 h → there → priv → let isOpen := decide (d.rf A.pnlCfg 31 16 * 100 < ohms)
       ∃ t, exec (.bezel i ohms) s = .next t ∧ t.chip.dev.sup = (s.answered h 0 [wd isOpen.toNat]).chip.dev.sup ∧
         t.chip.dev.rb A.pnlStat 14 = isOpen ∧ t.chip.dev.rb A.pnlStat 3 = (d.rb A.pnlStat 3 || isOpen) ∧
         (∀ a, a ≠ A.pnlStat → t.chip.dev.reg a = d.reg a) ∧ t.chip.nvm = n) ∧
     (d.held = false →
       (d.on 7 = true → exec .journalCopy s = .next (s.to (d.setReg A.pnlJournal (wd n.journalWord)))) ∧
       (d.on 7 = false → exec .journalCopy s = .next s))) ∧
  ((∀ (s : State) (m : Master), let f := fun (w : Word) => setBit w 0 true
     let d := s.loaded m A.pnlDialcmd f
     s.lets m A.pnlDialcmd f →
       (d.pnl.run ≠ none → ∃ t, exec (.dialUpdate m) s = .next t ∧ t.chip.dev.pnl = { d.pnl with dialHeld := true } ∧
         t.chip.dev.rb A.pnlStat 13 = true ∧ (∀ a, a ≠ A.pnlStat → t.chip.dev.reg a = d.reg a)) ∧
       (∀ c, d.pnl.run = none → d.dialRefuses = some c → ∃ t, exec (.dialUpdate m) s = .next t ∧
         t.chip.dev.rf A.pnlStat 23 20 = c ∧ t.chip.dev.rb A.pnlStat 2 = true ∧ t.chip.dev.rb A.pnlStat 13 = false ∧
         t.chip.dev.pnl = { d.pnl with dialHeld := false } ∧ (∀ a, a ≠ A.pnlStat → t.chip.dev.reg a = d.reg a)) ∧
       (d.pnl.run = none → d.dialRefuses = none → ∃ t, exec (.dialUpdate m) s = .next t ∧
         t.chip.dev.pnl.dialRun = some (d.bandNow, [d.reg A.pnlDialimg0, d.reg A.pnlDialimg1]) ∧ t.chip.dev.rb A.pnlStat 13 = true ∧
         t.chip.dev.pnl.v1 = fld (d.pnl.bandHead d.bandNow) 31 24 ∧ t.chip.dev.pnl.v2 = fld (d.pnl.bandHead d.bandNow) 23 16 ∧
         (∀ a, a ≠ A.pnlStat → t.chip.dev.reg a = d.reg a))) ∧
   (∀ s : State, let d := s.chip.dev
     d.dialRefuses = if d.rb A.pnlCfg 0 = false then some 9 else if d.rb A.pnlStat 15 = true then some 5
       else if d.pnl.usable (d.rf A.pnlStat 18 16) 2 = false then some 4 else none) ∧
   (∀ s : State, let d := s.chip.dev
     d.held = false →
       (d.pnl.dialRun = none → exec .dialDone s = .next s) ∧
       (∀ band img, d.pnl.dialRun = some (band, img) → ∃ t, exec .dialDone s = .next t ∧ t.chip.dev.pnl.dialRun = none ∧
         t.chip.dev.pnl.dialImg = some img ∧ t.chip.dev.rb A.pnlStat 13 = false ∧ t.chip.dev.rb A.pnlStat 1 = true ∧
         t.chip.dev.reg A.pnlDialcnt = wd (min (2 ^ 32 - 1) ((d.reg A.pnlDialcnt).toNat + 1)) ∧
         (∀ o, d.pnl.dialImg = some o → ∀ k < d.fuses.segs, SMap.get 0 t.chip.dev.pnl.dial k =
           min (2 ^ 32 - 1) (SMap.get 0 d.pnl.dial k + (if segOf o k ≠ segOf img k then fld (d.pnl.waveWord band 2 0) 31 24
             else fld (d.pnl.waveWord band 2 0) 23 16))) ∧ t.chip.nvm = s.chip.nvm)) ∧
   (∀ (s : State) (m : Master), let f := fun (w : Word) => setBit w 0 true
     s.lets m A.pnlBezcmd f → exec (.bezelCheck m) s = .next (s.took m A.pnlBezcmd f fun d => d.modPnl fun p => { p with bezPend := true })) ∧
   (∀ (s : State) (ohms : Nat), let d := s.chip.dev
     let isOpen := decide (d.rf A.pnlCfg 31 16 * 100 < ohms)
     d.held = false →
       (d.pnl.bezPend = false → exec (.bezelCheckDone ohms) s = .next s) ∧
       (d.pnl.bezPend = true → ∃ t, exec (.bezelCheckDone ohms) s = .next t ∧ t.chip.dev.pnl = { d.pnl with bezPend := false } ∧
         t.chip.dev.rb A.pnlStat 14 = isOpen ∧ t.chip.dev.rb A.pnlStat 3 = (d.rb A.pnlStat 3 || isOpen) ∧
         (∀ a, a ≠ A.pnlStat → t.chip.dev.reg a = d.reg a) ∧ t.chip.nvm = s.chip.nvm)) ∧
   (∀ s : State, let d := s.chip.dev
     d.held = false →
       (d.on 7 = false → exec .pumpFault s = .next s) ∧
       (d.on 7 = true → d.pnl.run = none → d.pnl.dialRun = none → exec .pumpFault s = .next (s.to (d.raiseSq A.pnlStat 0x10))) ∧
       (∀ r, d.on 7 = true → d.pnl.run = some r → r.live = true → ∃ t, exec .pumpFault s = .next t ∧ t.chip.dev.pnl.run = none ∧
         t.chip.dev.pnl.image = d.pnl.image ∧ t.chip.dev.pnl.shown = false ∧ t.chip.dev.rb A.pnlStat 12 = false ∧ t.chip.dev.rb A.pnlStat 4 = true ∧
         t.chip.dev.rb A.pnlStat 5 = true ∧ t.chip.dev.sup.replies = d.sup.replies ++ [r.cmd.reply 4 [8]] ∧ t.chip.nvm = s.chip.nvm)) ∧
   (∀ (s : State) (seg : Bool) (n f : Nat), let d := s.chip.dev
     (d.on 7 = false → d.pinLevel seg n f = 0) ∧
     (d.pnl.run = none → d.pnl.dialRun = none → d.pinLevel seg n f = 0) ∧
     (∀ steps coms driven target w c, d.on 7 = true → d.panelWave = some (steps, coms, driven, target) → stepAt steps f = some (w, some c) →
       let k := c * d.fuses.segs + n
       d.pinLevel false n f = (if n = c then fld w 31 29 else fld w 28 26) ∧
       d.pinLevel true n f = if driven k = false then fld w 19 17 else if target k = true then fld w 25 23 else fld w 22 20)))

/-! ## The Dolzu ring (17) -/

/-- A member takes a SYNC run of 4 to 12 samples and counts another as a glitch (R550); a loss of LNK stops MOD, puts the link DOWN, sets
LNKLOSS and flags every channel OFF, and its return clears neither SYNC nor the flags (R548). A valid round counts, and the fourth in a
row brings the link UP with a new epoch of CL; a bad one counts, and the second in a row brings the link DOWN, where full mailboxes for
the chain are held (R400, R555, R556). A member sends a bad round on with the complement of its CRC, so that it stays bad (R554). -/
def Obligations.ChainLink : Prop :=
  (∀ (s : State) (run : Nat), let d := s.chip.dev
    d.held = false →
      ((d.isMaster = true ∨ d.chn.lnkOk = false) → exec (.syncReceived run) s = .next s) ∧
      (d.isMaster = false → d.chn.lnkOk = true → (run < 4 ∨ 12 < run) →
        exec (.syncReceived run) s = .next (s.to (d.count A.chnSyncglitch 31 0 1))) ∧
      (d.isMaster = false → d.chn.lnkOk = true → 4 ≤ run → run ≤ 12 → ∃ t, exec (.syncReceived run) s = .next t ∧
        t.chip.dev.chn = { d.chn with synced := true } ∧ t.chip.dev.modOn = d.xtmOk ∧ t.chip.dev.rb A.chnStat 2 = true ∧
        (∀ a, a ≠ A.chnStat → t.chip.dev.reg a = d.reg a) ∧ t.chip.nvm = s.chip.nvm)) ∧
  (∀ s : State, let d := s.chip.dev
    d.held = false →
      ((d.isMaster = true ∨ d.chn.lnkOk = false) → exec .lnkLoss s = .next s) ∧
      (d.isMaster = false → d.chn.lnkOk = true → ∃ t, exec .lnkLoss s = .next t ∧ t.chip.dev.chn.lnkOk = false ∧
        t.chip.dev.chn.up = false ∧ t.chip.dev.chn.synced = false ∧ t.chip.dev.modOn = false ∧ t.chip.dev.rb A.chnStat 3 = true ∧
        (d.chn.up = true → t.chip.dev.rb A.chnStat 1 = true ∧ ∀ n : Fin 32, (t.chip.dev.mb n.val) =
          if (d.mb n.val).full = true ∧ d.mbRx n.val = 8 then { d.mb n.val with stale := true } else d.mb n.val) ∧
        (∀ k : Fin 18, d.chanOn k.val = true → (t.chip.dev.chan k.val).flags.off = true) ∧
        (∀ k : Fin 18, d.chanOn k.val = false → t.chip.dev.chan k.val = d.chan k.val) ∧ t.chip.nvm = s.chip.nvm) ∧
      (d.isMaster = true → exec .lnkReturn s = .next s) ∧
      (d.isMaster = false → exec .lnkReturn s = .next (s.to { d with chn := { d.chn with lnkOk := true } }))) ∧
  (∀ (s : State) (r : Round), let d := s.chip.dev
    let ring := d.held = false ∧ d.rb A.chnCfg 0 = true ∧ d.lnkPresent = true
    let whole := roundGood r = true
    (d.held = false → d.ringOn = false → exec (.roundPass r) s = .next s) ∧
    (ring → whole → ∃ t, exec (.roundPass r) s = .next t ∧ t.chip.dev.reg A.chnRound = d.reg A.chnRound + 1 ∧
      t.chip.dev.chn.good = d.chn.good + 1 ∧ t.chip.dev.chn.bad = 0 ∧ t.chip.nvm = s.chip.nvm ∧
      (d.chn.up = true → t.chip.dev.chn.up = true ∧ t.chip.dev.epoch 8 = d.epoch 8) ∧
      (d.chn.up = false → d.chn.good < 3 → t.chip.dev.chn.up = false ∧ t.chip.dev.epoch 8 = d.epoch 8) ∧
      (d.chn.up = false → 3 ≤ d.chn.good → t.chip.dev.chn.up = true ∧ t.chip.dev.epoch 8 = (d.epoch 8 + 1) % 2 ^ 16 ∧
        t.chip.dev.rb A.chnStat 0 = true)) ∧
    (ring → ¬whole → ∃ t, exec (.roundPass r) s = .next t ∧
      t.chip.dev.reg A.chnBadrnd = wd (min (2 ^ 32 - 1) ((d.reg A.chnBadrnd).toNat + 1)) ∧ t.chip.dev.chn.good = 0 ∧
      (d.isMaster = false → ∃ x, t.chip.dev.chn.lastRound = some x ∧ roundGood x = false) ∧
      t.chip.nvm = s.chip.nvm ∧ (d.chn.bad = 0 → t.chip.dev.chn.up = d.chn.up ∧ t.chip.dev.chn.bad = 1) ∧
      (d.chn.bad ≠ 0 → t.chip.dev.chn.up = false ∧ (d.chn.up = true → t.chip.dev.rb A.chnStat 1 = true ∧
        ∀ n : Fin 32, (t.chip.dev.mb n.val).full = true → t.chip.dev.mbRx n.val = 8 → (t.chip.dev.mb n.val).stale = true))))

/-- The master of an enabled ring sends rounds one after another, with the fate of the round before in OKMAP, its TOTALs and its own
contributions: of each backlog the whole units of 2^-32 quantum, at most 2^28 quanta, the rest kept (R553, R554, R561, R562). A member
adds its contributions to the sums of a round it forwards, and takes its TOTALs; the master adds the sums of a round received whole to
its own (R562). An amount in flight is settled by the round that shows its fate: gone where the round was good, back in the backlog
where it was bad (R563). An output that follows an aggregate channel moves by the change of its TOTAL (R564). -/
def Obligations.ChainAggregation : Prop :=
  (∀ s : State, let d := s.chip.dev
    d.held = false →
      ((d.isMaster = false ∨ d.ringOn = false) → exec .roundStart s = .next s) ∧
      (d.isMaster = true → d.ringOn = true → ∃ t r, exec .roundStart s = .next t ∧ t.chip.dev.chn.lastRound = some r ∧
        roundGood r = true ∧ r.rnum = d.chn.rnum + 1 ∧ t.chip.dev.chn.rnum = r.rnum ∧
        (∀ k < 8, r.okmap.getLsbD k = if k = 0 then d.chn.gotOk else d.chn.okHist.getLsbD (k - 1)) ∧ t.chip.dev.chn.gotOk = false ∧
        (∀ a < 4, (r.cells.getD a ⟨0, 0⟩).total = d.chn.total.getD a 0) ∧
        (d.chn.flight = [] → d.chn.up = true → d.chn.dupId = false → ∀ a < 4,
          let b := d.chn.backlog.getD a 0
          let v := max (-(2 ^ 60)) (min (2 ^ 60) (Int.tdiv b (2 ^ 14)))
          (r.cells.getD a ⟨0, 0⟩).collect = v ∧ t.chip.dev.chn.backlog.getD a 0 = b - v * 2 ^ 14 ∧
          (v ≠ 0 → ({ ch := Fin.ofNat 4 a, rnum := r.rnum, age := 0, amount := v * 2 ^ 14 } : Flight) ∈ t.chip.dev.chn.flight)) ∧
        (d.chn.up = false → (∀ a < 4, (r.cells.getD a ⟨0, 0⟩).collect = 0) ∧ (d.chn.flight = [] → t.chip.dev.chn.backlog = d.chn.backlog)) ∧
        t.chip.nvm = s.chip.nvm)) ∧
  (∀ (s : State) (r : Round), let d := s.chip.dev
    let member := d.held = false ∧ d.ringOn = true ∧ d.isMaster = false ∧ roundGood r = true ∧
      (r.status.getD d.myId noStatus).present = false ∧ d.chn.dupId = false ∧ r.wf = true
    (member → ∃ t x, exec (.roundPass r) s = .next t ∧ t.chip.dev.chn.lastRound = some x ∧ x.rnum = r.rnum ∧ x.okmap = r.okmap ∧
      roundGood x = true ∧
      (∀ a : Fin 4, t.chip.dev.chn.total.getD a.val 0 = (r.cells.getD a.val ⟨0, 0⟩).total ∧
        (x.cells.getD a.val ⟨0, 0⟩).total = (r.cells.getD a.val ⟨0, 0⟩).total) ∧
      (d.chn.flight = [] → d.chn.up = true → ∀ a < 4, let b := d.chn.backlog.getD a 0
        let v := max (-(2 ^ 60)) (min (2 ^ 60) (Int.tdiv b (2 ^ 14)))
        (x.cells.getD a ⟨0, 0⟩).collect = (r.cells.getD a ⟨0, 0⟩).collect + v ∧
        t.chip.dev.chn.backlog.getD a 0 = b - v * 2 ^ 14) ∧
      (d.chn.up = false → x.cells = r.cells) ∧
      (∀ f, d.chn.flight = [f] → d.chn.up = false → (r.rnum - 1 - f.rnum).toNat < 8 →
        t.chip.dev.chn.flight = [] ∧ ∀ a < 4, t.chip.dev.chn.backlog.getD a 0 =
          if a = f.ch.val ∧ r.okmap.getLsbD (r.rnum - 1 - f.rnum).toNat = false then mod96 (d.chn.backlog.getD a 0 + f.amount)
          else d.chn.backlog.getD a 0) ∧
      (d.chn.up = true → d.on 5 = true → ∀ n < d.fuses.cfs, d.cfSrc n = true →
        let total := (r.cells.getD (d.cfQ n % 4) ⟨0, 0⟩).total
        (t.chip.dev.out n).aggRef = some total ∧ (t.chip.dev.out n).p = (d.out n).p + match (d.out n).aggRef with
          | some o => (total - o).toInt * 2 ^ 14
          | none => 0))) ∧
  (∀ (s : State) (r : Round), let d := s.chip.dev
    d.held = false → d.ringOn = true → d.isMaster = true →
      (roundGood r = true → ∃ t, exec (.roundPass r) s = .next t ∧ t.chip.dev.chn.gotOk = true ∧
        ∀ a : Fin 4, t.chip.dev.chn.total.getD a.val 0 = d.chn.total.getD a.val 0 +
          BitVec.ofInt 64 (r.cells.getD a.val ⟨0, 0⟩).collect) ∧
      (roundGood r = false → ∃ t, exec (.roundPass r) s = .next t ∧ t.chip.dev.chn.gotOk = d.chn.gotOk ∧
        t.chip.dev.chn.total = d.chn.total))

/-- A member writes its status word and its two slots into a round it forwards; one that finds its ID in use forwards it as it came
(R555). A slot with FULL, the device's ID, a right SCRC and RESULT 0 is taken: a data word enters a free mailbox register, a GO posts
the mailbox once, and the slot goes on with the RESULT (R557, R559). Of the device's own returned slot RESULT 1 moves the message on and
frees its mailbox after the GO; RESULT 3 to 5, or 64 rounds without one, fail it, which CHN_MSGFAIL records and which frees the
mailbox too (R560). -/
def Obligations.ChainMessages : Prop :=
  (∀ (s : State) (r : Round), let d := s.chip.dev
    let k := d.myId
    let member := d.held = false ∧ d.ringOn = true ∧ d.isMaster = false ∧ r.wf = true ∧ roundGood r = true ∧ d.chn.dupId = false
    (member → (r.status.getD k noStatus).present = true → ∃ t, exec (.roundPass r) s = .next t ∧ t.chip.dev.chn.dupId = true ∧
      t.chip.dev.chn.lastRound = some r ∧ (∀ n : Fin 32, (d.mb n.val).full = false → (t.chip.dev.mb n.val).full = false)) ∧
    (member → (r.status.getD k noStatus).present = false →
      (∃ t x, exec (.roundPass r) s = .next t ∧ t.chip.dev.chn.lastRound = some x ∧
        x.status.getD k noStatus = ⟨true, (r.status.getD k noStatus).seen, d.chn.up, d.fuses.variant⟩ ∧
        (∀ j < 8, j ≠ k → x.status.getD j noStatus = r.status.getD j noStatus) ∧
        (d.chn.up = false → x.slots.getD k noSlot = noSlot ∧ x.slots.getD (k + 8) noSlot = noSlot) ∧
        (∀ j < 16, j ≠ k → j ≠ k + 8 → d.takesSlot (r.slots.getD j noSlot) = false → x.slots.getD j noSlot = r.slots.getD j noSlot)) ∧
      (∀ j < 16, j ≠ k → j ≠ k + 8 → let e := r.slots.getD j noSlot
        let n := e.mbx % 32
        let seen := SMap.find d.chn.togglesRx (32 * e.src + n) = some e.toggle
        d.takesSlot e = true → (∀ i < 16, i ≠ j → d.takesSlot (r.slots.getD i noSlot) = false) →
          ∃ t x v, exec (.roundPass r) s = .next t ∧ t.chip.dev.chn.lastRound = some x ∧ x.slots.getD j noSlot = { e with result := v } ∧
          (e.go = false → e.w < d.mbSize n → d.chainMayWrite = true → d.mbRefuses n = none → v = 1 ∧ t.chip.dev.reg (mbDataAt n e.w) = e.data) ∧
          (e.go = false → d.mbSize n ≤ e.w → v = 5) ∧
          (e.go = false → e.w < d.mbSize n → d.chainMayWrite = false → v = 4) ∧
          (e.go = false → e.w < d.mbSize n → d.chainMayWrite = true → (d.mb n).full = true → v = 2) ∧
          (e.go = true → seen → v = 1 ∧ (t.chip.dev.mb n).mseq = (d.mb n).mseq) ∧
          (e.go = true → ¬seen → d.chainMayWrite = true → d.mbRefuses n = none → v = 1 ∧
            ((∀ l ∈ d.chn.lane0, l.mbx.val ≠ n) → (∀ l ∈ d.chn.lane1, l.mbx.val ≠ n) → (t.chip.dev.mb n).full = true) ∧
            (t.chip.dev.mb n).mseq = (d.mb n).mseq + 1) ∧
          (e.go = true → ¬seen → d.chainMayWrite = true → (d.mb n).full = true → v = 2)))) ∧
  (∀ (s : State) (r : Round) (l : Lane), let d := s.chip.dev
    let k := d.myId
    let x := (r.slots.getD k noSlot).result
    d.held = false → d.ringOn = true → d.isMaster = false → r.wf = true → roundGood r = true → d.chn.dupId = false →
    (r.status.getD k noStatus).present = false → d.chn.up = true → d.chn.lane0 = some l → d.chn.lane1 = none → l.sent = true →
    ({ r.slots.getD k noSlot with result := 0 } : RingSlot) = d.laneSlot l →
    (∀ i < 16, d.takesSlot (r.slots.getD i noSlot) = false) → ∃ t, exec (.roundPass r) s = .next t ∧
      (x = 1 → l.next < l.len → t.chip.dev.chn.lane0 = some { l with next := l.next + 1, waited := 0 }) ∧
      (x = 1 → l.len ≤ l.next → (t.chip.dev.mb l.mbx.val).full = false) ∧
      (x = 2 → t.chip.dev.chn.lane0 = some { l with waited := 0 }) ∧
      (x = 0 → l.waited < 63 → t.chip.dev.chn.lane0 = some { l with waited := l.waited + 1 }) ∧
      (3 ≤ x → x ≤ 5 → t.chip.dev.reg A.chnMsgfail = wd (2 ^ 31 + l.mbx.val * 2 ^ 16 + x) ∧ t.chip.dev.rb A.chnStat 4 = true ∧
        (t.chip.dev.mb l.mbx.val).full = false) ∧
      (x = 0 → 63 ≤ l.waited → t.chip.dev.reg A.chnMsgfail = wd (2 ^ 31 + l.mbx.val * 2 ^ 16 + 6) ∧ t.chip.dev.rb A.chnStat 4 = true ∧
        (t.chip.dev.mb l.mbx.val).full = false))

/-! ## Sessions, keys, the protection map and the seal (18) -/

/-- OPEN is refused with MASTER before all and else with the lowest code that applies, changing nothing else; accepted, it issues the
challenge (R570, R574, R575). PROVE with the open challenge consumes it: after 10 s it is refused with EXPIRED; a wrong response with PROOF,
counted, the eighth and each later one locking the slot with its LOCKOUT entry; a right one writes the OPEN entry, clears the count and
raises the master's level (R573-R576). The response is HMAC-SHA-256 under the slot's key over the challenge, SYS_ID, the device ID, the
master, the level and the slot (R573). CLOSE and the session timeout return the level to L3 with their entries, whose ARG holds the cause
and the change mask (R577, R584); a lockout ends when it expires (R576). -/
def Obligations.Sessions : Prop :=
  (∀ (s : State) (m : Master) (level : Fin 4) (slot : Fin 16) (chal : BitVec 256) (t : Nat),
    let w := setFld (setFld 0x10000000#32 25 24 level.val) 19 16 slot.val
    let c := (s.at t).chip.loaded m.id A.secSesscmd w
    let run := exec (.openSession m level slot chal t) s
    let refused := fun cause => run = .next ((s.at t).done (c.onDev fun d =>
      (d.putIfld m.id A.secSesstat 19 16 cause).raiseIsq m.id A.secSesstat 0x2))
    let wrong := level.val = 0 ∨ level.val = 3 ∨ level.val < (if slot.val < 4 then 1 else 2)
    (s.at t).chip.lets m.id A.secSesscmd w →
      (m ≠ .hs → m ≠ .hi → refused 8) ∧
      (m = .hs ∨ m = .hi →
        (wrong → refused 2) ∧ (¬wrong → c.key slot.val = none → refused 3) ∧
        (¬wrong → c.key slot.val ≠ none → c.dev.sessState m.id ≠ 0 → refused 4) ∧
        (¬wrong → c.key slot.val ≠ none → c.dev.sessState m.id = 0 → Fin.ofNat 8 slot.val ∈ c.nvm.locked → refused 7) ∧
        (¬wrong → c.key slot.val ≠ none → c.dev.sessState m.id = 0 → Fin.ofNat 8 slot.val ∉ c.nvm.locked → ∃ x, run = .next x ∧
          (∀ k < 8, x.chip.dev.ireg m.id (A.secCHALn k) = chal.extractLsb' (32 * k) 32) ∧ x.chip.dev.sessState m.id = 1 ∧
          x.chip.dev.session m.id = { Session.zero with chalT := t, reqLevel := level.val, reqSlot := slot.val } ∧
          (∀ a, x.chip.dev.reg a = c.dev.reg a) ∧ x.chip.nvm = c.nvm))) ∧
  (∀ (s : State) (m : Master) (level : Fin 4) (slot : Fin 16) (t : Nat),
    let w := setFld (setFld 0x20000000#32 25 24 level.val) 19 16 slot.val
    let c := (s.at t).chip.loaded m.id A.secSesscmd w
    let run := exec (.prove m level slot t) s
    let refused := fun cause => run = .next ((s.at t).done (c.onDev fun d =>
      (d.putIfld m.id A.secSesstat 19 16 cause).raiseIsq m.id A.secSesstat 0x2))
    let wrong := level.val = 0 ∨ level.val = 3 ∨ level.val < (if slot.val < 4 then 1 else 2)
    let asked := c.dev.sessState m.id = 1 ∧ (c.dev.session m.id).reqLevel = level.val ∧ (c.dev.session m.id).reqSlot = slot.val
    let late := 163840000 < t - (c.dev.session m.id).chalT
    let message := wordBytes ((List.range 8).map fun n => c.dev.ireg m.id (A.secCHALn n)) ++ leBytes 4 c.dev.fuses.sysId ++
      [c.dev.fuses.id.toNat, m.id, level.val, slot.val].map (BitVec.ofNat 8)
    let response := wordBytes ((List.range 8).map fun n => c.dev.ireg m.id (A.secRESPn n))
    (s.at t).chip.lets m.id A.secSesscmd w →
      (m ≠ .hs → m ≠ .hi → refused 8) ∧
      (m = .hs ∨ m = .hi →
        (wrong → refused 2) ∧ (¬wrong → c.key slot.val = none → refused 3) ∧
        (¬wrong → c.key slot.val ≠ none → ¬asked → refused 4) ∧
        (∀ key, ¬wrong → c.key slot.val = some key → asked →
          let right := response = hmac (leBytes 32 key) message
          let failed := fun (x : State) cause => x.chip.dev.sessState m.id = 0 ∧
            (∀ k < 8, x.chip.dev.ireg m.id (A.secCHALn k) = 0) ∧ fld (x.chip.dev.ireg m.id A.secSesstat) 19 16 = cause ∧
            bit (x.chip.dev.ireg m.id A.secSesstat) 1 = true ∧ (∀ k, x.chip.dev.level k = c.dev.level k)
          (late → ∃ x, run = .next x ∧ failed x 5 ∧ x.chip.nvm = c.nvm) ∧
          (¬late → ¬right → ∃ x, run = .next x ∧ failed x 6 ∧
            SMap.get 0 x.chip.nvm.lockFails slot.val = SMap.get 0 c.nvm.lockFails slot.val + 1 ∧ c.nvm.keeps x.chip.nvm [.fails, .log] ∧
            (SMap.get 0 c.nvm.lockFails slot.val < 7 → x.chip.nvm.locked = c.nvm.locked ∧ x.chip.nvm.log = c.nvm.log) ∧
            (7 ≤ SMap.get 0 c.nvm.lockFails slot.val → Fin.ofNat 8 slot.val ∈ x.chip.nvm.locked ∧ c.logs x.chip 7 m.id 0 slot.val)) ∧
          (¬late → right → ∃ x, run = .next x ∧ x.chip.dev.sessState m.id = 2 ∧ x.chip.dev.level m.id = level.val ∧
            (∀ k, k ≠ m.id → x.chip.dev.level k = c.dev.level k) ∧
            x.chip.dev.session m.id = { Session.zero with level := level.val, slot := slot.val } ∧
            (∀ k < 8, x.chip.dev.ireg m.id (A.secCHALn k) = 0) ∧ bit (x.chip.dev.ireg m.id A.secSesstat) 0 = true ∧
            SMap.get 0 x.chip.nvm.lockFails slot.val = 0 ∧ x.chip.nvm.locked = c.nvm.locked ∧
            c.logs x.chip 1 m.id level.val slot.val ∧ c.nvm.keeps x.chip.nvm [.fails, .log])))) ∧
  (∀ (s : State) (m : Master), m = .hs ∨ m = .hi →
    let c := s.chip.loaded m.id A.secSesscmd 0x30000000
    let ended := fun (c : Chip) (x : State) kind cause => x.chip.dev.sessState m.id = 0 ∧ x.chip.dev.level m.id = 3 ∧
      bit (x.chip.dev.ireg m.id A.secSesstat) 2 = true ∧ (∀ k, k ≠ m.id → x.chip.dev.level k = c.dev.level k) ∧
      c.logs x.chip kind m.id (c.dev.session m.id).level (16 * cause + (c.dev.session m.id).mask.toNat) ∧ c.nvm.keeps x.chip.nvm [.log]
    (s.chip.lets m.id A.secSesscmd 0x30000000 →
      (c.dev.sessState m.id = 2 → ∃ x, exec (.closeSession m) s = .next x ∧ ended c x 2 0) ∧
      (c.dev.sessState m.id = 1 → ∃ x, exec (.closeSession m) s = .next x ∧ x.chip.dev.sessState m.id = 0 ∧
        (∀ k < 8, x.chip.dev.ireg m.id (A.secCHALn k) = 0) ∧ (∀ a, x.chip.dev.reg a = c.dev.reg a) ∧ x.chip.nvm = c.nvm) ∧
      (c.dev.sessState m.id = 0 → exec (.closeSession m) s = .next (s.done c))) ∧
    (s.chip.dev.held = false →
      (s.chip.dev.sessState m.id = 2 → ∃ x, exec (.sessionTimeout m) s = .next x ∧ ended s.chip x 3 1) ∧
      (s.chip.dev.sessState m.id ≠ 2 → exec (.sessionTimeout m) s = .next s))) ∧
  (∀ (s : State) (slot : Fin 8), s.chip.dev.held = false → ∃ x, exec (.lockoutExpire slot) s = .next x ∧ x.chip.dev = s.chip.dev ∧
    slot ∉ x.chip.nvm.locked ∧ (∀ k, k ≠ slot → (k ∈ x.chip.nvm.locked ↔ k ∈ s.chip.nvm.locked)) ∧
    x.chip.nvm = { s.chip.nvm with locked := x.chip.nvm.locked })

/-- SET and OPEN change the seal after RC0, its stored record and the log entry (R580, R581, R583); OPEN without a session proved with
slot 0 is refused with cause 9, and a command that would change nothing has no effect (R580). KEYCMD writes the response words as the key of slot
2 to 7, clears them, and counts and logs the change; another slot is refused with cause 3 (R572, R583). A write of the protection map
keeps the entry of SEC and the reserved entries, and those of fused-off blocks at 0 (R10), counts, and its whole map is stored as the newest copy (R578, R579, R583). Each notes its
kind in the mask of the sender's session (R584). -/
def Obligations.SealKeysAndMap : Prop :=
  (∀ (s : State) (m : Master) (v : Bool),
    let w : Word := if v then 1 else 2
    let i : Instr := if v then .sealSet m else .sealOpen m
    let c := s.chip.loaded m.id A.secSealcmd w
    let may := v = true ∨ (c.dev.sessState m.id = 2 ∧ (c.dev.session m.id).slot = 0)
    s.chip.lets m.id A.secSealcmd w →
      (¬may → exec i s = .next (s.done (c.onDev fun d => (d.putIfld m.id A.secSesstat 19 16 9).raiseIsq m.id A.secSesstat 0x2))) ∧
      (may → c.dev.sealed = v → exec i s = .next (s.done c)) ∧
      (may → c.dev.sealed ≠ v → ∃ x, exec i s = .next x ∧ x.chip.dev.sealed = v ∧
        x.chip.nvm.rc 0 = (c.nvm.rc 0 + 1) % 2 ^ 64 ∧ c.logs x.chip (if v then 4 else 5) m.id (c.dev.sessLevel m.id) 0 ∧
        ((∀ k, c.nvm.sealCopy = some k → k.seq < 2 ^ 32 - 1) → x.chip.nvm.sealCopy.map (·.val) = some v) ∧
        (c.dev.sessState m.id = 2 → (x.chip.dev.session m.id).mask = (c.dev.session m.id).mask ||| 0x8#4) ∧
        x.chip.dev.engines = c.dev.engines ∧ x.chip.dev.mbox = c.dev.mbox ∧ c.nvm.keeps x.chip.nvm [.seals, .log])) ∧
  (∀ (s : State) (m : Master) (slot : Fin 16),
    let w := setFld 0x80000000#32 19 16 slot.val
    let c := s.chip.loaded m.id A.secKeycmd w
    s.chip.lets m.id A.secKeycmd w →
      ((slot.val < 2 ∨ 8 ≤ slot.val) → exec (.keycmd m slot) s = .next (s.done (c.onDev fun d =>
        (d.putIfld m.id A.secSesstat 19 16 3).raiseIsq m.id A.secSesstat 0x2))) ∧
      (2 ≤ slot.val → slot.val < 8 → ∃ x, exec (.keycmd m slot) s = .next x ∧
        (∀ n < 8, (SMap.get 0 x.chip.nvm.keys slot.val).extractLsb' (32 * n) 32 = c.dev.ireg m.id (A.secRESPn n)) ∧
        (∀ k, k ≠ slot.val → SMap.get 0 x.chip.nvm.keys k = SMap.get 0 c.nvm.keys k) ∧
        (∀ n < 8, x.chip.dev.ireg m.id (A.secRESPn n) = 0) ∧ x.chip.nvm.rc 0 = (c.nvm.rc 0 + 1) % 2 ^ 64 ∧
        c.logs x.chip 6 m.id (c.dev.sessLevel m.id) slot.val ∧
        (c.dev.sessState m.id = 2 → (x.chip.dev.session m.id).mask = (c.dev.session m.id).mask ||| 0x4#4) ∧
        (∀ k, x.chip.dev.sessState k = c.dev.sessState k) ∧ (∀ k, x.chip.dev.level k = c.dev.level k) ∧
        c.nvm.keeps x.chip.nvm [.keys, .log])) ∧
  (∀ (s : State) (m : Master) (n : Fin 6) (size : Fin 3) (data : Word) (r : RegRow), let d := s.chip.dev
    let a := A.secPMAPn n.val
    s.chip.acceptsPlain m.id a a (sizeBytes size) .plain data.toNat r → ∃ x w, exec (.pmapWrite m n size data) s = .next x ∧
      (∀ i < 32, w.getLsbD i = if i < 8 * sizeBytes size then data.getLsbD i else (d.reg a).getLsbD i) ∧
      (∀ j : Fin 4, let b := 4 * n.val + j.val
        fld (x.chip.dev.pmap n.val) (8 * j.val + 7) (8 * j.val) =
          if b = 1 then 0x77 else if d.fuses.noEntry b = true then 0 else fld w (8 * j.val + 7) (8 * j.val)) ∧
      (∀ k : Fin 6, k ≠ n → x.chip.dev.pmap k.val = d.pmap k.val) ∧
      x.chip.nvm.rc 0 = (s.chip.nvm.rc 0 + 1) % 2 ^ 64 ∧
      ((∀ k, s.chip.nvm.pmapCopy = some k → k.seq < 2 ^ 32 - 1) →
        x.chip.nvm.pmapCopy.map (·.val) = some ((List.range 6).map x.chip.dev.pmap)) ∧
      (d.sessState m.id = 2 → (x.chip.dev.session m.id).mask = (d.session m.id).mask ||| 0x2#4) ∧
      x.chip.dev.engines = d.engines ∧ x.chip.dev.mbox = d.mbox ∧ s.chip.nvm.keeps x.chip.nvm [.maps] ∧ x.chip.dev.resp = .done)

/-! ## Every command completes -/

/-- Every event that the hardware or the world outside brings has the effect that its rule gives, in every state in which it occurs: while
PD1 SUP is out of reset, and for PD0 AON, the supplies and the reset pins always (R478). An event of the device leaves the ferroelectric
store and the waiting commands as they are. An instruction that an engine fetches without a fault has its effect, its paces are charged and
the program counter moves on (R190, R200). -/
def Obligations.EventsTakeEffect : Prop :=
  (∀ s : State, s.chip.dev.held = false →
    let d := s.chip.dev
    let has := fun (i : Instr) (e : Dev) => exec i s = .next (s.to e)
    (∀ i : Instant, d.modOn = true → has (.outputInstant i) (d.outputInstant i)) ∧
    (∀ t x, d.fll.lastX = some x → d.locked = true → x + 424056 ≤ t →
      has (.lockLossTimeout t) (({ d with now := max d.now t } : Dev).fllLose (wd 424056))) ∧
    (∀ b : Boundary, d.xtmOk = true → has (.cycleBoundary b) (d.cycleBoundary b)) ∧
    (∀ clk, has (.crossfadeEnd clk) (d.feed clk).crossfadeEnd) ∧
    (∀ ch clk, d.chanOn ch.val = true → has (.offsetMeasured ch clk) ((d.feed clk).offsetMeasured ch)) ∧
    (d.xtmOk = true → has .secondBoundary { d with secMark := true }) ∧
    (d.xtmOk = true → d.cycHigh = true → has .cycTick512 { d with halfMark := true, cycHigh := false }) ∧
    (d.on 5 = true → d.xtmOk = true → has .plsTick ((List.range d.fuses.cfs).foldl (fun d n => d.plsOut n) d)) ∧
    (∀ n : Fin 4, d.pulseDue n.val = true → has (.pulseStart n) (d.pulseStart n.val)) ∧
    (∀ n : Fin 4, (d.out n.val).active = true → (d.out n.val).left = 0 → d.xtmOk = true → has (.pulseEnd n) (d.pulseEnd n.val)) ∧
    (∀ (g : Fin 4) c rest, (d.hrm g.val).wait = c :: rest → has (.hrmCyclePost g) (d.hrmCyclePost g.val)) ∧
    (∀ (g : Fin 4) x, (d.hrm g.val).blkWait = some x → has (.hrmBlockPost g) (d.hrmBlockPost g.val)) ∧
    (∀ b : Fin 3, d.on (b.val + 2) = true → has (.clampDetect b) (d.putBit A.cnvClamp b.val true)) ∧
    (∀ b : Fin 3, d.rb A.cnvClamp b.val = true → has (.clampCurrentStops b) (d.clampStops b)) ∧
    (∀ clk, d.modOn = true → 0 < d.syncDue → has (.syncInstant clk) (d.syncInstant clk)) ∧
    (∀ v, d.rb A.cnvRefstat 4 = true → has (.bandgapCompareDone v) (d.compareDone v)) ∧
    has .refdiffExpire d.refdiffExpire ∧
    (∀ u, has (.reliefTimeout u) (d.rlTimeout u)) ∧
    (∀ c, d.cal = some c → c.running = true → 4 * c.ncyc + 8 ≤ c.since → has .calTimeout (d.calEnd.calFail 7)) ∧
    (∀ e : Fin 5, d.on 5 = true → has (.handlerDispatch e) ((d.noteTable e.val).modEng e.val Engine.dispatch)) ∧
    (∀ (e : Fin 5) p rest, (d.eng e.val).postq = p :: rest → has (.postQueueDeliver e) (d.postDeliver e.val)) ∧
    (∀ (e : Fin 5) p, d.on 5 = true → d.xtmOk = true → d.fuses.engine e.val = true → has (.hairspringMeasure e p) (d.hairspring e.val p)) ∧
    (∀ e : Fin 5, has (.queuedTableWrite e) ((d.noteTable e.val).modEng e.val Engine.flushTable)) ∧
    (d.er.snapWait = true → (d.eng d.ownEng).copyPoint = true → has .snapCopy
      ((({ d with er := { d.er with snapWait := false } } : Dev).copyEngine d.ownEng 4).raiseSq A.escRlfStat 0x1)) ∧
    (d.er.snapWait = true → has .snapTimeout d.snapTimeout) ∧
    (∀ x, d.er.passing = some x → (d.eng (d.holder d.er.group).val).released = true → has .engineReleased d.engineReleased) ∧
    (d.er.handWait = true → (d.eng 4).copyPoint = true → has .handbackCopy d.handbackCopy) ∧
    (d.er.handWait = true → has .handbackTimeout d.handbackTimeout) ∧
    (∀ m a, m = .hs ∨ m = .hi → has (.hostAccessTimeout m a) (d.hostTimeout m.id a.toNat)) ∧
    has .cfgsumScanDone d.scanDone ∧
    (∀ e : Fin 5, has (.mailboxCopy e) (d.mailCopy e.val)) ∧
    ((d.mb 0).full = true → d.sup.held.length < 4 → has .svCommandTake d.svTake) ∧
    (∀ r rest, (d.mb 1).full = false → d.sup.replies = r :: rest →
      has .replyPost ((d.modSup fun s => { s with replies := rest }).svPost 1 r)) ∧
    (∀ r rest, (d.mb 2).full = false → d.sup.notices = r :: rest →
      has .noticePost ((d.modSup fun s => { s with notices := rest }).svPost 2 r)) ∧
    (∀ t, d.xtmOk = true → d.ab (auxTrg 1) 31 = true → d.auxTimerDue ≤ t → has (.auxTimerEvent t) (d.auxTimer t)) ∧
    (∀ (g : Fin 8) hi w t, d.xtmOk = true → has (.auxPwPulseEnd g hi w t) (d.auxPulse g.val hi w t)) ∧
    (∀ t, d.xtmOk = true → d.aux.running = none → has (.auxConversionStart t) (d.auxStart t)) ∧
    (∀ r raw t, d.aux.running = some r → d.xtmOk = true → d.auxOver r t = true → has (.auxResult raw t) (d.auxResult raw t)) ∧
    has .watchdogReset d.watchdog ∧ has .xtmFail d.xtmFail ∧
    (d.xtmOk = false → has .xtmokSet d.xtmOkSet) ∧
    (∀ p, d.pwr = some p → p.steps ≠ [] → has .powerStepDone d.powerStep) ∧
    (∀ v, d.pwr = some { steps := [], vcore := some v } → has .vcoreSettled d.vcoreSettled) ∧
    (∀ f, d.macRuns = true → has (.dataFrameReceived f) (d.dataFrame f)) ∧
    (∀ k, d.plc.sackDue = some k → has .sackSend d.sackSend) ∧
    (∀ k x, d.plc.sent = some x → has (.sackReceived k) (d.sackReceived k)) ∧
    (∀ x, d.plc.sent = some x → has .sackTimeout d.sackTimeout) ∧
    (∀ m : Contention, d.macRuns = true → d.plc.sent = none → d.plc.sackDue = none →
      exec (.mediumAccess m) s = .next (s.to ((s.at m.t).chip.dev.mediumAccess m))) ∧
    (∀ clip u, d.macRuns = true → d.plc.access = some u → has (.frameTransmit clip) (d.frameTransmit clip)) ∧
    (∀ msg, d.macRuns = true → has (.toneMapMessage msg) (d.toneMap msg)) ∧
    (∀ slot, has (.neighbourTimeout slot) (d.loseNbr slot)) ∧
    (d.on 6 = true → d.xtmOk = true → has .receiveInputSaturated (d.raiseSq A.plcStat 0x2)) ∧
    (d.on 7 = true → has .pumpFault d.pumpFault) ∧
    (∀ x, d.pnl.dialRun = some x → has .dialDone d.dialDone) ∧
    (∀ ohms, d.pnl.bezPend = true → has (.bezelCheckDone ohms) (d.bezelDone ohms)) ∧
    (∀ run, d.isMaster = false → d.chn.lnkOk = true → has (.syncReceived run) (d.syncReceived run)) ∧
    (d.isMaster = false → d.chn.lnkOk = true → has .lnkLoss d.lnkLoss) ∧
    (d.isMaster = false → has .lnkReturn (d.modChn fun c => { c with lnkOk := true })) ∧
    (d.isMaster = true → d.ringOn = true → has .roundStart d.roundStart) ∧
    (∀ r, d.ringOn = true → has (.roundPass r) (if d.isMaster then d.roundReceive r else d.roundForward r)) ∧
    exec .pageCloseTimeout s = .next (s.landed (s.chip.onNvm Nvm.closeOpen)) ∧
    (∀ l, s.chip.nvm.scrubbing = true → exec (.scrubDone l) s = .next (s.landed (s.chip.scrubDone l))) ∧
    (∀ p x, s.chip.nvm.remapRun = some (p, x) → exec .remapDone s = .next (s.landed (s.chip.mapSpare p x))) ∧
    (∀ r, d.pnl.run = some r → exec .waveformDone s = .next (s.landed s.chip.pnlDone)) ∧
    (d.on 7 = true → exec .journalCopy s = .next (s.to (d.setReg A.pnlJournal (wd s.chip.nvm.journalWord)))) ∧
    (∀ m, m = .hs ∨ m = .hi → d.sessState m.id = 2 → exec (.sessionTimeout m) s = .next (s.landed (s.chip.endSession m.id 3 1))) ∧
    (∀ slot, exec (.lockoutExpire slot) s = .next { s with chip := s.chip.onNvm fun n => { n with locked := n.locked.filter (· != slot) } })) ∧
  (∀ s : State,
    let c := s.chip
    let has := fun (i : Instr) (e : Dev) => exec i s = .next (s.to e)
    let is := fun (i : Instr) (e : Chip) => exec i s = .next { s with chip := e }
    let lands := fun (i : Instr) (e : Chip) => exec i s = .next (s.landed e)
    (∀ a b, has (.rtcTick a b) (c.dev.rtcTick a b)) ∧ (∀ t, has (.periodicEvent t) (c.dev.periodicEvent t)) ∧
    (∀ m, has (.shadowExpire m) (c.dev.shadowRelease m.id)) ∧ has .xt32Fail c.dev.xt32Fail ∧ has .xt32Stable c.dev.xt32Stable ∧
    (∀ v, has (.lrcTrim v) (c.dev.lrcTrim v)) ∧ has .switchover c.dev.switchover ∧ has .vddReturn c.dev.vddReturn ∧
    has .vbatLoss c.dev.vbatLoss ∧ (∀ a b, has (.lowSupply a b) (c.dev.lowSupply a b)) ∧ has .i2cResponseRead c.dev.i2cRead ∧
    is .por c.powerOn ∧ is .brownOut c.brownOut ∧ is .brownOutRelease c.brownOutRelease ∧ is .resetn c.resetnLow ∧
    is .resetnRelease c.resetnHigh ∧
    (∀ l cut, lands (.spiReadFrame l cut) (c.spiFrame l cut)) ∧ (∀ l, lands (.spiWriteFrame l) (c.spiFrame l none)) ∧
    (∀ l, lands (.spiBroadcastWrite l) (c.spiFrame l none)) ∧ (∀ l, lands (.spiCsEarly l) (c.spiFrame l (some 0))) ∧
    (∀ w : I2cWrite, lands (.i2cRequest w) (c.i2cRequest w.bytes w.stop))) ∧
  (∀ (s : State) (e : Fin 5) (o : Op) (w : Word) (h : Handler) (t : Nat),
    let x := s.chip.dev.eng e.val
    let env := s.chip.dev.opEnv e.val false
    s.fetches e o w h → o.fault x env w h = none → (o = .ret → x.depth h ≠ 0) → (o = .yield → h.kind.background = false) →
      exec (o.command e t) s = .next (s.ran e { (o.effect x env w h).charge o.paces with pc := o.nextPc x w }))

/-- Every command that a master gives and the fabric lets in has the effect of its register, and every command that the supervisor holds
is carried out, each by its own rule (R340, R403, R405): the state that follows is the one the command's effect makes of the
state before it, with the fabric's answer for a command of a master. -/
def Obligations.CommandsTakeEffect : Prop :=
  (∀ (s : State) (m : Master),
    let bit_ := fun (i : Nat) (w : Word) => setBit w i true
    let takes := fun (i : Instr) (a : Nat) (f : Word → Word) (g : Dev → Dev) => s.lets m a f → exec i s = .next (s.took m a f g)
    let does := fun (i : Instr) (a : Nat) (w : Word) (g : Chip → Chip) =>
      s.chip.lets m.id a w → exec i s = .next (s.done (g (s.chip.loaded m.id a w)))
    let makes := fun (f : Word → Word) (a : Nat) => f (s.chip.dev.plain a)
    takes (.blksync m) A.hrmCmd (bit_ 0) Dev.blkSync ∧ takes (.evtPop m) A.evtCmd (bit_ 0) Dev.evtPop ∧
    takes (.evtFlush m) A.evtCmd (bit_ 1) Dev.evtFlush ∧ takes (.fltSyncGo m) A.fltSync (bit_ 0) Dev.syncGo ∧
    (∀ (ch : Fin 18) (sl : Fin 4), let f := fun op w => setFld (setFld (setFld (setBit w 8 true) 7 7 op) 6 5 sl.val) 4 0 ch.val
      takes (.cnvRetire m ch.val sl.val) A.cnvRetcmd (f 0) (·.retcmd false ch sl.val) ∧
      takes (.cnvRestore m ch.val sl.val) A.cnvRetcmd (f 1) (·.retcmd true ch sl.val) ∧
      takes (.measofs m ch) (A.cnvCHkCmd ch.val) (bit_ 0) (·.measofs ch)) ∧
    takes (.bandgapCompare m) A.cnvRefcmd (bit_ 0) Dev.compare ∧ takes (.bandgapSwap m) A.cnvRefcmd (bit_ 1) Dev.bgSwapCmd ∧
    (∀ (u : Fin 2) (k cyc : Nat) (b : Bool), let a := A.cnvRLxCmd u.val
      let relief := fun (i : Instr) (f : Word → Word) => takes i a f (·.rlCommand u (makes f a))
      relief (.reliefStart m u k cyc b) (fun w => setFld (setFld (setBit (goOp 1 w) 27 b) 20 16 k) 15 8 cyc) ∧
      relief (.reliefSwap m u b) (fun w => setBit (goOp 2 w) 26 b) ∧
      relief (.reliefReturn m u cyc b) (fun w => setFld (setBit (goOp 3 w) 27 b) 15 8 cyc) ∧
      relief (.reliefAbort m u) (goOp 4) ∧ relief (.patrol m u) (goOp 5) ∧ relief (.pstop m u) (goOp 6)) ∧
    (∀ b0 b1 : Bool, takes (.rebase m b0 b1) A.cnvPtrlCmd (fun w => setBit (setBit w 0 b0) 1 b1) fun d =>
      let d := if b0 then d.rebase 0 else d
      if b1 then d.rebase 1 else d) ∧
    (∀ (k n : Nat) (b : Bool), let cal := fun (i : Instr) (f : Word → Word) => takes i A.cnvCalcmd f (·.calCommand (makes f A.cnvCalcmd))
      cal (.calZero m k b n) (fun w => setFld (setFld (setBit (goOp 1 w) 27 b) 20 16 k) 15 8 n) ∧
      cal (.calFull m k b n) (fun w => setFld (setFld (setBit (goOp 2 w) 26 b) 20 16 k) 15 8 n) ∧
      cal (.calAbort m) (goOp 3)) ∧
    (∀ e : Fin 5, let a := A.escEkCmd e.val
      let eng := fun (i : Instr) (f : Word → Word) => takes i a f (·.engCommand e (makes f a))
      eng (.admitEngine m e) (goOp 1) ∧ eng (.engineStop m e) (goOp 2) ∧ eng (.engineClear m e) (goOp 3) ∧
      takes (.pacemaxrst m e) a (bit_ 1) (·.paceMaxReset e.val) ∧ takes (.slackrst m e) a (bit_ 0) (·.slackReset e.val)) ∧
    (∀ (g : Fin 4) (n f a : Bool), let rlf := fun (i : Instr) (f : Word → Word) => takes i A.escRlfCmd f (·.rlfCommand (makes f A.escRlfCmd))
      rlf (.snap m g a) (fun w => setFld (setBit (goOp 1 w) 25 a) 17 16 g.val) ∧
      rlf (.takeover m n f a) (fun w => setBit (setBit (setBit (goOp 2 w) 27 n) 26 f) 25 a) ∧
      rlf (.handback m n f a) (fun w => setBit (setBit (setBit (goOp 3 w) 27 n) 26 f) 25 a) ∧
      rlf (.engineReliefAbort m) (goOp 4)) ∧
    (∀ g : Fin 4, takes (.sourceBase m g) (A.bimGgSrccmd g.val) (fun w => setFld (setBit w 31 true) 30 29 1) (·.srcBase g) ∧
      takes (.sourceEngine m g) (A.bimGgSrccmd g.val) (fun w => setFld (setBit w 31 true) 30 29 2) (·.srcEngine g)) ∧
    takes (.cfgCapture m) A.regCfgcmd (bit_ 0) Dev.capture ∧
    (∀ n : Fin 16, let f := fun w => setFld (setBit w 31 true) 3 0 n.val
      s.lets m A.nvmRccmd f → exec (.counterIncrement m n) s = .next (s.done ((s.loads m A.nvmRccmd f).incrementBy m.id n.val))) ∧
    (∀ n : Fin 2,
      let rtc := fun (i : Instr) (b : Nat) => takes i A.rtcCmd (bit_ b) fun d =>
        d.rtcCmd (makes (bit_ b) A.rtcCmd) (m.id == 2 || (decide (m.id < 2) && d.level m.id == 1))
      rtc (.arm m n) (2 * n.val) ∧ rtc (.disarm m n) (2 * n.val + 1) ∧ rtc (.xtreturn m) 5) ∧
    ((m = .sv ∨ ((m = .hs ∨ m = .hi) ∧ (s.loaded m A.rtcCmd (bit_ 6)).level m.id = 1)) →
      takes (.clrrec m) A.rtcCmd (bit_ 6) (·.rtcCmd (makes (bit_ 6) A.rtcCmd) true)) ∧
    (∀ (dom : BitVec 8) (v : BitVec 5), let pwr := fun (i : Instr) (f : Word → Word) => takes i A.pwrCmd f (·.pwrCommand (makes f A.pwrCmd))
      pwr (.pwrOn m dom) (fun w => setFld (goOp 1 w) 7 0 dom.toNat) ∧ pwr (.pwrOff m dom) (fun w => setFld (goOp 2 w) 7 0 dom.toNat) ∧
      pwr (.pwrVcore m v) (fun w => setFld (goOp 3 w) 20 16 v.toNat)) ∧
    takes (.dialUpdate m) A.pnlDialcmd (bit_ 0) Dev.dialCommand ∧ takes (.bezelCheck m) A.pnlBezcmd (bit_ 0) Dev.bezelStart ∧
    does (.nvmFlush m) A.nvmCmd 1 (·.onNvm Nvm.closeOpen) ∧ does (.scrub m) A.nvmCmd 2 Chip.scrubStart ∧
    (∀ errs, does (.remap m errs) A.nvmCmd 4 fun c => c.remapStart (fld (c.dev.ireg m.id A.nvmPagesel) 9 0) errs) ∧
    does (.fullReset m) A.sysRstcmd 0x80000000 (·.resetCommand 0x80000000) ∧
    (∀ dom : BitVec 8, does (.domainReset m dom) A.sysRstcmd (dom.setWidth 32) (·.resetCommand (dom.setWidth 32))) ∧
    does (.epochNew m) A.mbxEpochcmd 1 (·.epochNew m.id) ∧ does (.sealSet m) A.secSealcmd 1 (·.sealCommand m.id true) ∧
    does (.sealOpen m) A.secSealcmd 2 (·.sealCommand m.id false) ∧
    (∀ slot : Fin 16, does (.keycmd m slot) A.secKeycmd (setFld 0x80000000#32 19 16 slot.val) (·.keyCommand m.id slot.val)) ∧
    does (.closeSession m) A.secSesscmd 0x30000000 (·.closeCommand m.id)) ∧
  (∀ (s : State) (m : Master) (t : Nat), let s' := s.at t
    let takes := fun (i : Instr) (a : Nat) (f : Word → Word) (g : Dev → Dev) => s'.lets m a f → exec i s = .next (s'.took m a f g)
    let opens := fun (i : Instr) (w : Word) (g : Chip → Chip) =>
      s'.chip.lets m.id A.secSesscmd w → exec i s = .next (s'.done (g (s'.chip.loaded m.id A.secSesscmd w)))
    (∀ v : BitVec 4, takes (.auxUrgent m v t) A.auxCmd (fun w => setFld (setBit w 31 true) 27 24 v.toNat) fun d => d.auxUrgent 3 v.toNat d.now) ∧
    (∀ p : Fin 4,
      let cal := fun (i : Instr) (f : Word → Word) =>
        takes i A.auxCalcmd f fun d => d.auxCalCommand (f (s'.chip.dev.plain A.auxCalcmd)) d.now
      cal (.auxCalZero m p t) (fun w => setFld (goOp 1 w) 25 24 p.val) ∧ cal (.auxCalFull m p t) (fun w => setFld (goOp 2 w) 25 24 p.val)) ∧
    (∀ mask : BitVec 8, mask ≠ 0 → s'.chip.lets m.id A.regUpdate (mask.setWidth 32) → exec (.regUpdate m mask t) s =
      .next (s'.done ((s'.chip.loaded m.id A.regUpdate (mask.setWidth 32)).onDev fun d => d.regUpdate mask.toNat d.now))) ∧
    (∀ (l : Fin 4) (slot : Fin 16),
      (∀ chal, opens (.openSession m l slot chal t) (setFld (setFld 0x10000000#32 25 24 l.val) 19 16 slot.val)
        (·.openCommand m.id l.val slot.val chal t)) ∧
      opens (.prove m l slot t) (setFld (setFld 0x20000000#32 25 24 l.val) 19 16 slot.val) (·.proveCommand m.id l.val slot.val t))) ∧
  (∀ (s : State) (m : Master), s.chip.dev.held = false → m.isEngine = false →
    let c := s.chip
    let acts := fun (i : Instr) (x : Resp × Chip) => exec i s = .next (s.landed (x.2.onDev fun d => { d with resp := x.1 }))
    let word := fun (i : Instr) (a : Nat) (w : Word) => acts i (c.write m.id a 4 w.toNat [])
    let part := fun (i : Instr) (a : Nat) (z : Fin 3) (w : Word) => acts i (c.write m.id a (sizeBytes z) w.toNat [])
    let reads := fun (i : Instr) (a : Nat) => acts i (c.read m.id a 4 [])
    (∀ (a : BitVec 24) (z : Fin 3) (w : Word), (∀ x, aliasAt a.toNat 0x4000 = some x → part (.aliasSet m a z w) x z w) ∧
      (∀ x, aliasAt a.toNat 0x8000 = some x → part (.aliasClr m a z w) x z w) ∧
      (∀ x, aliasAt a.toNat 0xC000 = some x → part (.aliasTgl m a z w) x z w) ∧ part (.nvmWrite m a z w) a.toNat z w ∧
      (∀ errs, acts (.nvmRead m a z errs) (c.read m.id a.toNat (sizeBytes z) errs))) ∧
    (∀ (a : BitVec 24) (w : Word), word (.tableWordWrite m a w) a.toNat w ∧ reads (.lowWordRead m a) a.toNat) ∧
    (∀ (a : BitVec 24) (q : BitVec 8) (b : BitVec 24), word (.sqClear m a q b) a.toNat (setFld (b.setWidth 32) 31 24 q.toNat)) ∧
    (∀ (a : BitVec 24) (z : Fin 3) (v : BitVec 64), acts (.registerWrite m a z.castSucc v) (c.write m.id a.toNat (sizeBytes z) (v.toNat % 2 ^ 32) []) ∧
      acts (.registerWrite m a 3 v) (c.writePair m.id a.toNat v.toNat)) ∧
    (∀ n : Fin 16, reads (.lockRead m n) (A.regLOCKn n.val) ∧ word (.lockRelease m n) (A.regLOCKn n.val) 0) ∧
    (∀ n : Fin 32, word (.mbxPost m n) (A.mbxMnCtrl n.val) 0x80000000 ∧
      (∀ q : BitVec 8, word (.mbxRelease m n q) (A.mbxMnCtrl n.val) (setFld 0x40000000#32 23 16 q.toNat)) ∧
      (∀ w : Word, word (.mbxCfgWrite m n w) (A.mbxMnCfg n.val) w) ∧
      (∀ (j : Fin 16) (z : Fin 3) (w : Word), part (.mbxDataWrite m n j z w) (mbDataAt n.val j.val) z w)) ∧
    (∀ errs, acts (.pageinfoRead m errs) (c.read m.id A.nvmPageinfo 4 errs)) ∧
    word (.halt m) A.rtcCtrl (setBit (c.dev.plain A.rtcCtrl) 0 true) ∧
    (∀ l k : Bool, word (.calendarRelease m l k) A.rtcCtrl (setBit (setBit (setBit (c.dev.plain A.rtcCtrl) 0 false) 1 l) 2 k)) ∧
    reads (.subsecRead m) A.rtcSubsec ∧ reads (.yearRead m) A.rtcYear ∧
    (∀ (n : Fin 6) (z : Fin 3) (w : Word), part (.pmapWrite m n z w) (A.secPMAPn n.val) z w)) ∧
  (∀ (s : State) (i : Fin 4) (h : HeldCmd),
    let d := s.chip.dev
    let dev := fun (cls op : Nat) (x : Instr) (e : Dev) => s.holds i cls op h → exec x s = .next (s.to e)
    let chip := fun (cls op : Nat) (x : Instr) (e : Chip) => s.holds i cls op h → exec x s = .next (s.landed e)
    dev 1 1 (.ping i) (d.answer h 0 []) ∧ dev 1 2 (.version i) (d.versionOf h) ∧ chip 1 3 (.loadref i) (Chip.loadRef h s.chip) ∧
    chip 2 0x01 (.rdef i) (Chip.rDef h s.chip) ∧ chip 2 0x02 (.rwrite i) (Chip.rWrite h s.chip) ∧ chip 2 0x03 (.rread i) (Chip.rRead h s.chip) ∧
    chip 2 0x04 (.rscan i) (Chip.rScan h s.chip) ∧ chip 2 0x10 (.cinc i) (Chip.cInc h s.chip) ∧ chip 2 0x11 (.cread i) (Chip.cRead h s.chip) ∧
    chip 2 0x20 (.logread i) (Chip.logRead h s.chip) ∧ chip 5 0x01 (.profsave i) (s.chip.profSave h) ∧ chip 5 0x02 (.profrun i) (s.chip.profRun h) ∧
    dev 5 0x03 (.pwrinfo i) (d.pwrInfo h) ∧ dev 3 0x01 (.plcConfig i) (d.plcConfig h) ∧ dev 3 0x02 (.macStart i) (d.macStart h) ∧
    dev 3 0x03 (.macStop i) (d.macStop h) ∧ dev 3 0x04 (.send i) (d.plcSend h) ∧ dev 3 0x05 (.nbrinfo i) (d.nbrInfo h) ∧
    dev 3 0x06 (.tmreq i) (d.toneRequest h) ∧ dev 3 0x07 (.rxdone i) (d.rxDone h) ∧ dev 3 0x08 (.macinfo i) (d.macInfo h) ∧
    chip 4 0x03 (.jdiscard i) (s.chip.pnlDiscard h) ∧ chip 4 0x04 (.jinfo i) (s.chip.pnlInfo h) ∧ chip 4 0x05 (.wfsave i) (s.chip.pnlSave h) ∧
    chip 4 0x06 (.wfload i) (s.chip.pnlLoad h) ∧ chip 4 0x07 (.stress i) (s.chip.pnlStressRead h) ∧
    chip 4 0x08 (.stresssync i) (s.chip.pnlSync h) ∧
    (∀ ohms, (bit (h.arg 1) 0 = false → chip 4 0x01 (.updateFull i ohms) (s.chip.pnlUpdate h false ohms)) ∧
      (bit (h.arg 1) 0 = true → chip 4 0x01 (.updateDiff i ohms) (s.chip.pnlUpdate h true ohms)) ∧
      chip 4 0x02 (.recover i ohms) (s.chip.pnlRecover h ohms) ∧ chip 4 0x09 (.bezel i ohms) (s.chip.pnlBezel h ohms)))

end Statements
end

