-- ==== Sys2Proof/Laws/Sparse.lean ====
section
/-! SUPPORT. The laws of the sparse memory: a read after a write, and the canonical form. -/
namespace Sys2Proof.Machine

variable {α : Type}

@[simp] theorem SMap.find_insert_self (k : Nat) (v : α) (m : SMap α) : SMap.find (SMap.insert k v m) k = some v := by
  induction m with
  | nil => simp [SMap.insert, SMap.find]
  | cons e r ih =>
    obtain ⟨k', v'⟩ := e
    simp only [SMap.insert]
    split
    · simp [SMap.find]
    · split
      · simp [SMap.find]
      · simp [SMap.find, *]

theorem SMap.find_insert_ne {k a : Nat} (h : a ≠ k) (v : α) (m : SMap α) :
    SMap.find (SMap.insert k v m) a = SMap.find m a := by
  induction m with
  | nil => simp [SMap.insert, SMap.find, h]
  | cons e r ih =>
    obtain ⟨k', v'⟩ := e
    simp only [SMap.insert]
    split
    · simp [SMap.find, h]
    · split
      · next hk => subst hk; simp [SMap.find, h]
      · simp [SMap.find, ih]

@[simp] theorem SMap.find_erase_self (k : Nat) (m : SMap α) : SMap.find (SMap.erase k m) k = none := by
  induction m with
  | nil => rfl
  | cons e r ih =>
    obtain ⟨k', v'⟩ := e
    by_cases hk : k' = k
    · simpa [SMap.erase, hk] using ih
    · have : ¬ k = k' := fun h => hk h.symm
      simpa [SMap.erase, hk, SMap.find, this] using ih

theorem SMap.find_erase_ne {k a : Nat} (h : a ≠ k) (m : SMap α) : SMap.find (SMap.erase k m) a = SMap.find m a := by
  induction m with
  | nil => rfl
  | cons e r ih =>
    obtain ⟨k', v'⟩ := e
    by_cases hk : k' = k
    · subst hk
      simpa [SMap.erase, SMap.find, h] using ih
    · by_cases ha : a = k'
      · simp [SMap.erase, hk, SMap.find, ha]
      · simpa [SMap.erase, hk, SMap.find, ha] using ih

/-- A key reads as its entry, or as the default where none is listed. -/
theorem SMap.get_eq_find (d : α) (m : SMap α) (a : Nat) : SMap.get d m a = (SMap.find m a).getD d := by
  induction m with
  | nil => rfl
  | cons e r ih =>
    obtain ⟨k', v'⟩ := e
    by_cases h : a = k' <;> simp [SMap.get, SMap.find, h, ih]

@[simp] theorem SMap.get_nil (d : α) (a : Nat) : SMap.get d ([] : SMap α) a = d := rfl

@[simp] theorem SMap.get_set_self [DecidableEq α] (d : α) (m : SMap α) (k : Nat) (v : α) : SMap.get d (SMap.set d m k v) k = v := by
  unfold SMap.set
  split
  · next h => simp [SMap.get_eq_find, h]
  · simp [SMap.get_eq_find]

/-- A write leaves the other keys alone, whatever the two defaults are. -/
theorem SMap.get_set_ne [DecidableEq α] (d d' : α) (m : SMap α) {k a : Nat} (h : a ≠ k) (v : α) :
    SMap.get d' (SMap.set d m k v) a = SMap.get d' m a := by
  unfold SMap.set
  split
  · simp [SMap.get_eq_find, SMap.find_erase_ne h]
  · simp [SMap.get_eq_find, SMap.find_insert_ne h]

/-- A read after a write of the same kind of memory, at any key. -/
theorem SMap.get_set [DecidableEq α] (d : α) (m : SMap α) (k a : Nat) (v : α) :
    SMap.get d (SMap.set d m k v) a = if a = k then v else SMap.get d m a := by
  by_cases h : a = k
  · subst h; simp
  · simp [h, SMap.get_set_ne d d m h]

/-! ## The canonical form -/

theorem SMap.rising_mono {lo lo' : Nat} (h : lo' ≤ lo) (m : SMap α) : SMap.rising lo m = true → SMap.rising lo' m = true := by
  cases m with
  | nil => simp [SMap.rising]
  | cons e r =>
    simp only [SMap.rising, Bool.and_eq_true, decide_eq_true_eq]
    exact fun ⟨a, b⟩ => ⟨Nat.le_trans h a, b⟩

theorem SMap.rising_insert (k : Nat) (v : α) (m : SMap α) :
    ∀ lo, lo ≤ k → SMap.rising lo m = true → SMap.rising lo (SMap.insert k v m) = true := by
  induction m with
  | nil => intro lo h _; simp [SMap.insert, SMap.rising, h]
  | cons e r ih =>
    obtain ⟨k', v'⟩ := e
    intro lo h hr
    simp only [SMap.rising, Bool.and_eq_true, decide_eq_true_eq] at hr
    simp only [SMap.insert]
    split
    · next hk => simp [SMap.rising, h, hr.2]; omega
    · split
      · next hk => subst hk; simp [SMap.rising, h, hr.2]
      · next h1 h2 =>
        simp only [SMap.rising, Bool.and_eq_true, decide_eq_true_eq]
        exact ⟨hr.1, ih (k' + 1) (by omega) hr.2⟩

theorem SMap.rising_erase (k : Nat) (m : SMap α) : ∀ lo, SMap.rising lo m = true → SMap.rising lo (SMap.erase k m) = true := by
  induction m with
  | nil => intro lo _; rfl
  | cons e r ih =>
    obtain ⟨k', v'⟩ := e
    intro lo hr
    simp only [SMap.rising, Bool.and_eq_true, decide_eq_true_eq] at hr
    by_cases hk : k' = k
    · have := SMap.rising_mono (show lo ≤ k' + 1 by omega) _ (ih (k' + 1) hr.2)
      simpa [SMap.erase, hk] using this
    · have := ih (k' + 1) hr.2
      simp [SMap.erase, hk, SMap.rising, hr.1]
      simpa [SMap.erase] using this

theorem SMap.mem_insert {k : Nat} {v : α} {m : SMap α} {e : Nat × α} (h : e ∈ SMap.insert k v m) : e = (k, v) ∨ e ∈ m := by
  induction m with
  | nil => simpa [SMap.insert] using h
  | cons x r ih =>
    obtain ⟨k', v'⟩ := x
    simp only [SMap.insert] at h
    split at h
    · simpa using h
    · split at h
      · rcases List.mem_cons.1 h with h | h
        · exact .inl h
        · exact .inr (List.mem_cons_of_mem _ h)
      · rcases List.mem_cons.1 h with h | h
        · exact .inr (h ▸ List.mem_cons_self ..)
        · rcases ih h with h | h
          · exact .inl h
          · exact .inr (List.mem_cons_of_mem _ h)

/-- A write keeps the canonical form. -/
theorem SMap.wf_set [DecidableEq α] (d : α) (m : SMap α) (k : Nat) (v : α) (h : SMap.wf d m = true) :
    SMap.wf d (SMap.set d m k v) = true := by
  simp only [SMap.wf, Bool.and_eq_true, List.all_eq_true, decide_eq_true_eq] at h ⊢
  unfold SMap.set
  split
  · exact ⟨SMap.rising_erase k m 0 h.1, fun e he => h.2 e (List.mem_filter.1 he).1⟩
  · next hv =>
    refine ⟨SMap.rising_insert k v m 0 (Nat.zero_le _) h.1, fun e he => ?_⟩
    rcases SMap.mem_insert he with he | he
    · subst he; exact hv
    · exact h.2 e he

end Sys2Proof.Machine
end

