-- ==== Sys2Proof/Laws/Bits.lean ====
section
/-! SUPPORT. Bit fields of words and of the register file: a field read after it is loaded. -/
namespace Sys2Proof.Machine

/-- A bit of a word with a field loaded: the field's bit inside it, the word's own outside. -/
theorem getLsbD_setFld (w : Word) {hi lo : Nat} (v i : Nat) (h : hi < 32) :
    (setFld w hi lo v).getLsbD i = if lo ≤ i ∧ i ≤ hi then v.testBit (i - lo) else w.getLsbD i := by
  by_cases hl : lo ≤ hi
  · by_cases hi32 : i < 32
    · simp only [setFld, BitVec.getLsbD_or, BitVec.getLsbD_and, BitVec.getLsbD_not, BitVec.getLsbD_ofNat, hi32, decide_true,
        Bool.true_and, Nat.testBit_shiftLeft, Nat.testBit_two_pow_sub_one, Nat.testBit_mod_two_pow]
      by_cases h1 : lo ≤ i
      · by_cases h2 : i ≤ hi
        · have : i - lo < hi + 1 - lo := by omega
          simp [h1, h2, this]
        · have : ¬ i - lo < hi + 1 - lo := by omega
          simp [h1, h2, this]
      · simp [h1]
    · have h2 : ¬ (lo ≤ i ∧ i ≤ hi) := by omega
      rw [if_neg h2, BitVec.getLsbD_of_ge _ _ (by omega), BitVec.getLsbD_of_ge _ _ (by omega)]
  · have h2 : ¬ (lo ≤ i ∧ i ≤ hi) := by omega
    have h3 : hi + 1 - lo = 0 := by omega
    by_cases hi32 : i < 32
    · simp only [setFld, h3, Nat.mod_one, Nat.pow_zero, Nat.sub_self, Nat.zero_shiftLeft, BitVec.getLsbD_or, BitVec.getLsbD_and,
        BitVec.getLsbD_not, BitVec.getLsbD_ofNat, Nat.zero_testBit, hi32, if_neg h2]
      simp
    · rw [if_neg h2, BitVec.getLsbD_of_ge _ _ (by omega), BitVec.getLsbD_of_ge _ _ (by omega)]

/-- A bit of a field read. -/
theorem testBit_fld (w : Word) (hi lo i : Nat) : (fld w hi lo).testBit i = (decide (i < hi + 1 - lo) && w.getLsbD (lo + i)) := by
  simp [fld, Nat.testBit_mod_two_pow, BitVec.getLsbD]

theorem fld_lt (w : Word) (hi lo : Nat) : fld w hi lo < 2 ^ (hi + 1 - lo) := Nat.mod_lt _ (Nat.two_pow_pos _)

/-- A field read after it is loaded. -/
theorem fld_setFld_self (w : Word) {hi lo : Nat} (v : Nat) (h : hi < 32) : fld (setFld w hi lo v) hi lo = v % 2 ^ (hi + 1 - lo) := by
  apply Nat.eq_of_testBit_eq
  intro i
  rw [testBit_fld, getLsbD_setFld _ _ _ h, Nat.testBit_mod_two_pow]
  by_cases hi' : i < hi + 1 - lo
  · simp [hi', show lo + i ≤ hi by omega]
  · simp [hi']

/-- A field read after another that it does not meet is loaded. -/
theorem fld_setFld_disjoint (w : Word) {hi lo hi' lo' : Nat} (v : Nat) (h : hi < 32) (hd : hi < lo' ∨ hi' < lo) :
    fld (setFld w hi lo v) hi' lo' = fld w hi' lo' := by
  apply Nat.eq_of_testBit_eq
  intro i
  rw [testBit_fld, testBit_fld, getLsbD_setFld _ _ _ h]
  by_cases hi' : i < hi' + 1 - lo'
  · rw [if_neg (by omega)]
  · simp [hi']

theorem bit_setFld (w : Word) {hi lo : Nat} (v i : Nat) (h : hi < 32) :
    bit (setFld w hi lo v) i = if lo ≤ i ∧ i ≤ hi then v.testBit (i - lo) else bit w i :=
  getLsbD_setFld w v i h

/-! ## The register file -/

@[simp] theorem Dev.reg_setReg_self (d : Dev) (a : Nat) (w : Word) : (d.setReg a w).reg a = w := by
  simp [Dev.reg, Dev.setReg]

theorem Dev.reg_setReg_ne (d : Dev) {a x : Nat} (h : x ≠ a) (w : Word) : (d.setReg a w).reg x = d.reg x := by
  simp [Dev.reg, Dev.setReg, SMap.get_set_ne _ _ _ h]

@[simp] theorem Dev.active_setActive_self (d : Dev) (a : Nat) (w : Word) : (d.setActive a w).active a = w := by
  simp [Dev.active, Dev.setActive]

theorem Dev.active_setActive_ne (d : Dev) {a x : Nat} (h : x ≠ a) (w : Word) : (d.setActive a w).active x = d.active x := by
  simp [Dev.active, Dev.setActive, SMap.get_set_ne _ _ _ h]

theorem instKey_inj {m m' a a' : Nat} (ha : a < 0x1000000) (ha' : a' < 0x1000000) (h : instKey m a = instKey m' a') : m = m' ∧ a = a' := by
  unfold instKey at h
  omega

@[simp] theorem Dev.ireg_setIreg_self (d : Dev) (m a : Nat) (w : Word) : (d.setIreg m a w).ireg m a = w := by
  simp [Dev.ireg, Dev.setIreg]

theorem Dev.ireg_setIreg_ne (d : Dev) {m a m' a' : Nat} (h : instKey m' a' ≠ instKey m a) (w : Word) :
    (d.setIreg m a w).ireg m' a' = d.ireg m' a' := by
  simp [Dev.ireg, Dev.setIreg, SMap.get_set_ne _ _ _ h]

theorem Dev.reg_putFld_ne (d : Dev) {a x : Nat} (h : x ≠ a) (hi lo v : Nat) : (d.putFld a hi lo v).reg x = d.reg x :=
  Dev.reg_setReg_ne d h _

theorem Dev.reg_putBit_ne (d : Dev) {a x : Nat} (h : x ≠ a) (i : Nat) (b : Bool) : (d.putBit a i b).reg x = d.reg x :=
  Dev.reg_setReg_ne d h _

theorem Dev.reg_raiseSq_ne (d : Dev) {a x : Nat} (h : x ≠ a) (bits : Nat) : (d.raiseSq a bits).reg x = d.reg x :=
  Dev.reg_setReg_ne d h _

theorem Dev.reg_count_ne (d : Dev) {a x : Nat} (h : x ≠ a) (hi lo n : Nat) : (d.count a hi lo n).reg x = d.reg x :=
  Dev.reg_setReg_ne d h _

theorem Dev.reg_countMod_ne (d : Dev) {a x : Nat} (h : x ≠ a) (hi lo n : Nat) : (d.countMod a hi lo n).reg x = d.reg x :=
  Dev.reg_setReg_ne d h _

theorem Dev.rf_putFld_self (d : Dev) (a : Nat) {hi lo : Nat} (v : Nat) (h : hi < 32) :
    (d.putFld a hi lo v).rf a hi lo = v % 2 ^ (hi + 1 - lo) := by
  simp [Dev.rf, Dev.putFld, fld_setFld_self _ _ h]

/-- A hardware event sets its sticky bits and no other below SEQ, whose bits are [31:24] (R341). -/
theorem Dev.rb_raiseSq (d : Dev) (a bits i : Nat) (h : i < 24) :
    (d.raiseSq a bits).rb a i = (d.rb a i || bits.testBit i) := by
  have : ¬ (24 ≤ i ∧ i ≤ 31) := by omega
  rw [Dev.rb, Dev.raiseSq, Dev.reg_setReg_self, bit_setFld _ _ _ (show 31 < 32 by omega), if_neg this]
  simp only [bit, Dev.rb, wd, BitVec.getLsbD_or, BitVec.getLsbD_ofNat, show i < 32 by omega, decide_true, Bool.true_and]

/-- One hardware event advances SEQ once, modulo 256 (R341). -/
theorem Dev.seq_raiseSq (d : Dev) (a bits : Nat) (h : bits < 2 ^ 24) :
    (d.raiseSq a bits).rf a 31 24 = (d.rf a 31 24 + 1) % 256 := by
  have e : fld (d.reg a ||| wd bits) 31 24 = fld (d.reg a) 31 24 := by
    apply Nat.eq_of_testBit_eq
    intro i
    simp only [testBit_fld, BitVec.getLsbD_or, wd, BitVec.getLsbD_ofNat]
    rw [Nat.testBit_lt_two_pow (Nat.lt_of_lt_of_le h (Nat.pow_le_pow_right (by omega) (show 24 ≤ 24 + i by omega)))]
    simp
  simp [Dev.rf, Dev.raiseSq, fld_setFld_self _ _ (show 31 < 32 by omega), e]

end Sys2Proof.Machine
end

