-- ==== Sys2Proof/Laws/Crc.lean ====
section
/-! SUPPORT. The CRC-32C as a fold, and the rounds of the ring whose CRC is right. -/
namespace Sys2Proof.Machine

/-- A function of a word is the function applied to it. -/
@[simp] theorem onWord_apply {α : Type} (w : Word) (f : Word → α) : onWord w f = f w := by
  unfold onWord
  split
  · rename_i h; rw [show w = 0#32 from BitVec.eq_of_toNat_eq h]
  · rename_i n h; rw [show n + 1 = w.toNat from h.symm, BitVec.ofNat_toNat, BitVec.setWidth_eq]

/-- The register of the CRC-32C after two byte strings. -/
theorem crc32cFrom_append (c : Word) (l r : List Byte) : crc32cFrom c (l ++ r) = crc32cFrom (crc32cFrom c l) r := by
  induction l generalizing c with
  | nil => rfl
  | cons b l ih => simp [crc32cFrom, ih]

/-- The CRC-32C takes its bytes from the left, eight bits each. -/
theorem crc32c_foldl (l : List Byte) :
    crc32c l = ~~~ l.foldl (fun (c : Word) (b : Byte) => Nat.repeat crc32cBit 8 (c ^^^ b.setWidth 32)) 0xFFFFFFFF#32 := by
  have h : ∀ (l : List Byte) (c : Word),
      crc32cFrom c l = l.foldl (fun (c : Word) (b : Byte) => Nat.repeat crc32cBit 8 (c ^^^ b.setWidth 32)) c := by
    intro l
    induction l with
    | nil => intro c; rfl
    | cons b l ih => intro c; simp [crc32cFrom, ih]
  exact congrArg (~~~ ·) (h l _)

/-- The CRC covers nothing of itself. -/
@[simp] theorem roundSum_sealed (ok : Bool) (r : Round) : roundSum (roundSealed ok r) = roundSum r :=
  congrArg crc32c (show roundBytes (roundSealed ok r) = roundBytes r from rfl)

/-- A round sent on after one received well is good where its SYNCW is; one sent on after a bad one is bad (R554). -/
@[simp] theorem roundGood_sealed (ok : Bool) (r : Round) : roundGood (roundSealed ok r) = (ok && roundSync r) := by
  have h : ∀ w : Word, (~~~ w == w) = false := by
    intro w
    rw [beq_eq_false_iff_ne]
    intro e
    have := congrArg (fun x : Word => x.getLsbD 0) e
    simp at this
  have e : (roundSealed ok r).crc = if ok then roundSum r else ~~~ roundSum r := rfl
  have y : roundSync (roundSealed ok r) = roundSync r := rfl
  rw [roundGood, roundSum_sealed, e, y]
  cases ok <;> simp [h]

/-- A good round is sent on as it is where nothing in it changes. -/
theorem roundSealed_good (r : Round) (h : roundGood r = true) : roundSealed true r = r := by
  simp only [roundGood, Bool.and_eq_true, beq_iff_eq] at h
  simp [roundSealed, ← h.2]

end Sys2Proof.Machine
end

