-- ==== Sys2Proof/Laws/Memory.lean ====
section
/-! SUPPORT. The bytes of the ferroelectric store: a read after a write, and that every operation keeps the canonical form, of the array and of
what it held before its latest write pulses. -/
namespace Sys2Proof.Machine

@[simp] theorem Nvm.byteAt_putByte_self (n : Nvm) (a : Nat) (b : Byte) : (n.putByte a b).byteAt a = b := by
  simp [Nvm.byteAt, Nvm.putByte]

theorem Nvm.byteAt_putByte_ne (n : Nvm) {a x : Nat} (h : x ≠ a) (b : Byte) : (n.putByte a b).byteAt x = n.byteAt x := by
  simp [Nvm.byteAt, Nvm.putByte, SMap.get_set_ne _ _ _ h]

theorem Nvm.byteAt_putBytes (l : List Byte) : ∀ (n : Nvm) (a x : Nat),
    (n.putBytes a l).byteAt x = if a ≤ x ∧ x < a + l.length then l.getD (x - a) 0 else n.byteAt x := by
  induction l with
  | nil => intro n a x; rw [if_neg (fun h => absurd h.2 (by simpa using h.1))]; rfl
  | cons b r ih =>
    intro n a x
    rw [Nvm.putBytes, ih]
    by_cases hx : x = a
    · subst hx
      rw [if_neg (by omega), if_pos (by simp)]
      simp
    · rw [Nvm.byteAt_putByte_ne n hx]
      by_cases h1 : a + 1 ≤ x ∧ x < a + 1 + r.length
      · rw [if_pos h1, if_pos (by simp; omega)]
        obtain ⟨k, rfl⟩ : ∃ k, x = a + 1 + k := ⟨x - (a + 1), by omega⟩
        simp [show a + 1 + k - (a + 1) = k by omega, show a + 1 + k - a = k + 1 by omega]
      · rw [if_neg h1, if_neg (by simp; omega)]

theorem Nvm.wf_putByte (n : Nvm) (a : Nat) (b : Byte) (h : Memory.wf n.mem = true) : Memory.wf (n.putByte a b).mem = true :=
  SMap.wf_set 0 n.mem a b h

/-! ## Bytes, pages and pulses -/

theorem Nvm.ok_putBytes (l : List Byte) : ∀ (n : Nvm) (a : Nat), n.Ok → (n.putBytes a l).Ok := by
  induction l with
  | nil => intro n a h; exact h
  | cons b r ih => intro n a h; exact ih _ _ ⟨n.wf_putByte a b h.1, h.2⟩

theorem Nvm.ok_pulse {n : Nvm} (h : n.Ok) : n.pulse.Ok := by
  refine ⟨h.1, fun x hx => ?_⟩
  rcases List.mem_append.1 hx with hx | hx
  · exact h.2 x hx
  · rw [List.mem_singleton.1 hx]; exact h.1

theorem Nvm.ok_pulseBy {n : Nvm} (h : n.Ok) {f : Stored → Stored} (hf : ∀ x, (f x).mem = x.mem) : (n.pulseBy f).Ok := by
  refine ⟨h.1, fun x hx => ?_⟩
  rcases List.mem_append.1 hx with hx | hx
  · exact h.2 x hx
  · rcases List.mem_cons.1 hx with rfl | hx
    · exact h.1
    · rw [List.mem_singleton.1 hx, hf]; exact h.1

theorem Nvm.ok_clearErr {n : Nvm} (h : n.Ok) (ph k : Nat) : (n.clearErr ph k).Ok := by
  unfold Nvm.clearErr; split <;> exact h

theorem Nvm.ok_found {n : Nvm} (h : n.Ok) (ph : Nat) (e : CwErrs) : (n.found ph e).Ok := by
  unfold Nvm.found; split <;> exact h

theorem Nvm.ok_setErrs {n : Nvm} (h : n.Ok) (ph : Nat) (e : CwErrs) : (n.setErrs ph e).Ok := h

theorem Nvm.ok_settle {n : Nvm} (h : n.Ok) (ph : Nat) (held : Bool) : (n.settle ph held).Ok := by
  unfold Nvm.settle
  dsimp only
  split
  · exact h
  · split
    · exact h
    · exact Nvm.ok_setErrs (Nvm.ok_putBytes _ _ _ h) _ _

/-- A fold of steps that each keep the form keeps it. -/
theorem Nvm.ok_fold {α : Type} {f : Nvm → α → Nvm} (hf : ∀ n a, n.Ok → (f n a).Ok) (l : List α) : ∀ n : Nvm, n.Ok → (l.foldl f n).Ok := by
  induction l with
  | nil => intro n h; exact h
  | cons a r ih => intro n h; exact ih _ (hf n a h)

theorem Chip.ok_fold {α : Type} {f : Chip → α → Chip} (hf : ∀ c a, c.nvm.Ok → (f c a).nvm.Ok) (l : List α) :
    ∀ c : Chip, c.nvm.Ok → (l.foldl f c).nvm.Ok := by
  induction l with
  | nil => intro c h; exact h
  | cons a r ih => intro c h; exact ih _ (hf c a h)

/-! ## Opening, closing and writing pages -/

theorem Chip.ok_openCw {c : Chip} (h : c.nvm.Ok) (ph : Nat) : (c.openCw ph).nvm.Ok := by
  refine Nvm.ok_clearErr (Nvm.ok_pulse ?_) ph 33
  split
  · exact Nvm.ok_settle h _ _
  · exact h

theorem Nvm.ok_closeCw {n : Nvm} (h : n.Ok) (ph : Nat) : (n.closeCw ph).Ok :=
  Nvm.ok_clearErr (Nvm.ok_pulse (n := Nvm.setPage _ ph _) (Nvm.ok_clearErr (Nvm.ok_pulse (Nvm.ok_settle h ph true)) ph 32)) ph 33

theorem Nvm.ok_closeOpen {n : Nvm} (h : n.Ok) : n.closeOpen.Ok := by
  unfold Nvm.closeOpen
  split
  · exact h
  · exact Nvm.ok_closeCw h _

theorem Chip.ok_openFor {c : Chip} (h : c.nvm.Ok) (p : Nat) : (c.openFor p).nvm.Ok := by
  unfold Chip.openFor
  split
  · exact h
  · exact Chip.ok_openCw (c := c.onNvm Nvm.closeOpen) (Nvm.ok_closeOpen h) _

theorem Nvm.ok_putCw {n : Nvm} (h : n.Ok) (ph k start : Nat) (l : List Byte) : (n.putCw ph k start l).Ok := by
  refine Nvm.ok_putBytes _ _ _ (Nvm.ok_clearErr ?_ ph k)
  split
  · exact Nvm.ok_pulse h
  · exact Nvm.ok_putBytes _ _ _ (Nvm.ok_pulse h)

theorem Nvm.ok_storeIn {n : Nvm} (h : n.Ok) (ph off : Nat) (l : List Byte) : (n.storeIn ph off l).Ok :=
  Nvm.ok_fold (fun _ _ hn => Nvm.ok_putCw hn _ _ _ _) _ _ h

/-! ## Remap and scrub -/

theorem Chip.ok_readPage {c : Chip} (h : c.nvm.Ok) (p : Nat) (e : CwErrs) (f : Nat → Bool) : (c.readPage p e f).2.nvm.Ok :=
  Nvm.ok_found h _ e

theorem Chip.ok_fillSpare {c : Chip} (h : c.nvm.Ok) (s : Nat) (l : List Byte) : (c.fillSpare s l).nvm.Ok :=
  Nvm.ok_closeCw (Nvm.ok_storeIn (Chip.ok_openCw h _) _ _ _) _

theorem Chip.ok_mapSpare {c : Chip} (h : c.nvm.Ok) (p s : Nat) : (c.mapSpare p s).nvm.Ok :=
  Nvm.ok_pulseBy h fun _ => rfl

theorem Chip.ok_remapFinish {c : Chip} (h : c.nvm.Ok) : c.remapFinish.nvm.Ok := by
  unfold Chip.remapFinish
  split
  · exact h
  · exact Chip.ok_mapSpare h _ _

theorem Chip.ok_remapWait {c : Chip} (h : c.nvm.Ok) (p : Nat) : (c.remapWait p).nvm.Ok := by
  unfold Chip.remapWait
  split
  · exact Chip.ok_remapFinish h
  · exact h

theorem Chip.ok_remapStart {c : Chip} (h : c.nvm.Ok) (p : Nat) (e : CwErrs) : (c.remapStart p e).nvm.Ok := by
  have h' : ((c.remapFinish.onNvm Nvm.closeOpen).readPage p e fun _ => false).2.nvm.Ok :=
    Chip.ok_readPage (Nvm.ok_closeOpen (Chip.ok_remapFinish h)) _ _ _
  unfold Chip.remapStart
  dsimp only
  split
  · split
    · exact h'
    · exact Chip.ok_fillSpare h' _ _
  · exact h'

theorem Chip.ok_rewritePage {c : Chip} (h : c.nvm.Ok) (ph : Nat) : (c.rewritePage ph).nvm.Ok := by
  refine Nvm.ok_closeCw (Nvm.ok_fold (fun n k hn => ?_) _ _ (Chip.ok_openCw h ph)) ph
  split
  · exact hn
  · exact Nvm.ok_clearErr (Nvm.ok_pulse hn) _ _

theorem Nvm.ok_tally {n : Nvm} (h : n.Ok) (a b k : Nat) : (n.tally a b k).Ok := h

theorem Chip.ok_scrubPage {c : Chip} (h : c.nvm.Ok) (p : Nat) : (c.scrubPage p).nvm.Ok := by
  have h1 := Chip.ok_remapWait h p
  have h2 : ((c.remapWait p).readPage p [] fun _ => false).2.nvm.Ok := Chip.ok_readPage h1 _ _ _
  unfold Chip.scrubPage
  dsimp only
  split
  · exact h1
  · split
    · exact Nvm.ok_tally h2 _ _ _
    · split
      · exact h2
      · split
        · exact Nvm.ok_tally (Chip.ok_rewritePage h2 _) _ _ _
        · split
          · exact h2
          · exact Nvm.ok_tally (Chip.ok_mapSpare (Chip.ok_fillSpare h2 _ _) _ _) _ _ _

theorem Chip.ok_scrubTo {c : Chip} (h : c.nvm.Ok) (n : Nat) : (c.scrubTo n).nvm.Ok := by
  unfold Chip.scrubTo
  split
  · exact h
  · exact Chip.ok_fold (fun c a hc => Chip.ok_scrubPage hc _) _ (c.onNvm Nvm.closeOpen) (Nvm.ok_closeOpen h)

theorem Chip.ok_scrubMeet {c : Chip} (h : c.nvm.Ok) (p : Nat) : (c.scrubMeet p).nvm.Ok := by
  unfold Chip.scrubMeet
  dsimp only
  split
  · exact h
  · split
    · exact h
    · exact Chip.ok_scrubTo (by exact h) _
    · exact Chip.ok_scrubTo (by exact h) _

theorem Chip.ok_scrubDone {c : Chip} (h : c.nvm.Ok) (l : List (Nat × CwErrs)) : (c.scrubDone l).nvm.Ok := by
  unfold Chip.scrubDone
  split
  · exact h
  · exact Chip.ok_scrubTo (Nvm.ok_fold (fun _ _ hn => Nvm.ok_found hn _ _) _ _ h) _

theorem Chip.ok_scrubStart {c : Chip} (h : c.nvm.Ok) : c.scrubStart.nvm.Ok := by
  unfold Chip.scrubStart
  split
  · exact h
  · exact Nvm.ok_closeOpen h

/-! ## Writes of the array, records and counters -/

/-- A write of the array keeps the canonical form. -/
theorem Chip.ok_store {c : Chip} (h : c.nvm.Ok) (off : Nat) (l : List Byte) : (c.store off l).nvm.Ok :=
  Nvm.ok_storeIn (Chip.ok_openFor (Chip.ok_scrubMeet (Chip.ok_remapWait h _) _) _) _ _ _

theorem Nvm.ok_stored {n : Nvm} (h : n.Ok) {x : Stored} (hx : x.mem = n.mem) (k : Nat) :
    ({ n with toStored := x, sysStores := k } : Nvm).Ok := ⟨(congrArg Memory.wf hx).trans h.1, h.2⟩

theorem Nvm.ok_unflown {n : Nvm} (h : n.Ok) (t : Nat) : ({ n with flight := [], flightAt := t } : Nvm).Ok :=
  ⟨h.1, fun _ hx => nomatch hx⟩

theorem Chip.ok_unflown {c : Chip} (h : c.nvm.Ok) (t : Nat) : (c.onNvm fun n => { n with flight := [], flightAt := t }).nvm.Ok :=
  Nvm.ok_unflown h t

/-- Storing a record of the system region keeps it. -/
theorem Chip.ok_sysStore {c : Chip} (h : c.nvm.Ok) (r : SysRec) {torn : List (Stored → Stored)} {full : Stored → Stored}
    (ht : ∀ f ∈ torn, ∀ x, (f x).mem = x.mem) (hf : ∀ x, (full x).mem = x.mem) : (c.sysStore r torn full).nvm.Ok := by
  have h1 := Chip.ok_openFor (Chip.ok_scrubMeet (Chip.ok_remapWait (c := c.onNvm Nvm.closeOpen) (Nvm.ok_closeOpen h) r.page) r.page) r.page
  have h2 : ∀ (l : List (Stored → Stored)) (n : Nvm), (∀ f ∈ l, ∀ x, (f x).mem = x.mem) → n.Ok → (l.foldl Nvm.pulseBy n).Ok := by
    intro l
    induction l with
    | nil => intro n _ hn; exact hn
    | cons f r ih =>
      intro n hl hn
      exact ih _ (fun g hg => hl g (List.mem_cons_of_mem f hg)) (Nvm.ok_pulseBy hn (hl f (List.mem_cons_self ..)))
  exact Nvm.ok_closeOpen (Nvm.ok_stored (Nvm.ok_putBytes _ _ _ (Nvm.ok_pulse (h2 _ _ ht h1))) (hf _) _)

theorem Nvm.ok_putRatchet {n : Nvm} (h : n.Ok) (i w : Nat) (f : Ratchet → Ratchet) : (n.putRatchet i w f).Ok :=
  Nvm.ok_pulseBy h fun _ => rfl

theorem Nvm.ok_putCell {n : Nvm} (h : n.Ok) (i k gen : Nat) : (n.putCell i k gen).Ok := Nvm.ok_putRatchet h i k _

theorem Nvm.ok_putSlot {n : Nvm} (h : n.Ok) (i s : Nat) (v : BitVec 64 × BitVec 64) : (n.putSlot i s v).Ok :=
  Nvm.ok_putRatchet (Nvm.ok_putRatchet h i _ _) i _ _

theorem Nvm.ok_cache {n : Nvm} (h : n.Ok) (v : Vector (BitVec 64 × Nat × Bool × Nat × Bool) 16) : ({ n with cache := v } : Nvm).Ok := h

/-- An increment of a counter keeps it. -/
theorem Nvm.ok_increment {n : Nvm} (h : n.Ok) (i : Nat) : (n.increment i).Ok := by
  have h1 := Nvm.ok_closeOpen h
  unfold Nvm.increment
  dsimp only
  split
  · exact Nvm.ok_cache (Nvm.ok_putCell h1 _ _ _) _
  · exact Nvm.ok_cache (Nvm.ok_putCell (Nvm.ok_putSlot h1 _ _ _) _ _ _) _

theorem Chip.ok_readPages (l : List Nat) : ∀ c : Chip, c.nvm.Ok → (c.readPages l).2.nvm.Ok := by
  induction l with
  | nil => intro c h; exact h
  | cons p r ih => intro c h; exact ih _ (Chip.ok_readPage h _ _ _)

theorem Chip.ok_areaScan {c : Chip} (h : c.nvm.Ok) (a f p : Nat) : (c.areaScan a f p).2.nvm.Ok := by
  unfold Chip.areaScan
  dsimp only
  split
  · exact Chip.ok_readPages _ c h
  · split
    · split
      · exact h
      · exact Chip.ok_readPages _ c h
    · exact h

/-- A record write keeps it. -/
theorem Chip.ok_recordWrite {c : Chip} (h : c.nvm.Ok) (a f p : Nat) (l : List Byte) : (c.recordWrite a f p l).2.nvm.Ok :=
  Nvm.ok_closeOpen (Chip.ok_store (c := (c.areaScan a f p).2.onNvm Nvm.closeOpen) (Nvm.ok_closeOpen (Chip.ok_areaScan h a f p)) _ _)

/-! ## Resets -/

/-- What a reset leaves of the writes it meets is in canonical form. -/
theorem Chip.ok_cut {c : Chip} (h : c.nvm.Ok) : c.cut.nvm.Ok := by
  have key : ∀ x : Chip, x.nvm.Ok →
      (if x.nvm.flight.isEmpty || decide (x.nvm.flightAt + flightLife < x.dev.now) then x
        else { dev := x.dev.free.2
               nvm := match x.nvm.flight[x.dev.free.1 % (x.nvm.flight.length + 1)]? with
                 | some y => { x.nvm with toStored := y }
                 | none => x.nvm }).nvm.Ok := by
    intro x hx
    split
    · exact hx
    · split
      · next y hy => exact ⟨hx.2 y (List.mem_of_getElem? hy), hx.2⟩
      · exact hx
  refine key _ ?_
  split
  · exact h
  · dsimp only
    split
    · exact h
    · exact Chip.ok_scrubTo (Chip.ok_unflown (Chip.ok_scrubTo (by exact h) _) _) _

theorem Nvm.ok_abandon {n : Nvm} (h : n.Ok) (t : Nat) : (n.abandon t).Ok := ⟨h.1, fun _ hx => nomatch hx⟩

/-- Only the pulses of the latest command are kept. -/
theorem Chip.ok_flown {c c' : Chip} (h : c'.nvm.Ok) : (Chip.flown c c').nvm.Ok := by
  unfold Chip.flown
  split
  · exact h
  · exact ⟨h.1, fun x hx => h.2 x (List.mem_of_mem_drop hx)⟩

/-- Where a command makes no write pulse, nothing is left out. -/
theorem Chip.flown_same {c c' : Chip} (h : c'.nvm.flight = c.nvm.flight) : Chip.flown c c' = c' := by
  simp [Chip.flown, h]

/-- The store of a new part is in canonical form. -/
theorem Nvm.ok_factory : Nvm.factory.Ok := ⟨rfl, fun x hx => by simp [Nvm.factory] at hx⟩

end Sys2Proof.Machine
end

