-- ==== Sys2Proof/Laws/Run.lean ====
section
/-! SUPPORT. What the shared operations behind a command can do: an event, an access of a master, an order to a command register, a
supervisor command. -/
namespace Sys2Proof.Machine

/-- A command that writes nothing to the array leaves the state as it computes it. -/
theorem State.landed_same {s : State} {c : Chip} (h : c.nvm.flight = s.chip.nvm.flight) : s.landed c = { s with chip := c } := by
  simp [State.landed, Chip.flown_same h]

/-- A change of the device alone, landed. -/
theorem State.landed_dev (s : State) (d : Dev) : s.landed { s.chip with dev := d } = s.to d := State.landed_same rfl

theorem State.event_of_up {s : State} (h : s.chip.dev.held = false) (f : Chip → Chip) : s.event f = .next (s.landed (f s.chip)) := by
  simp [State.event, State.stores, h]

/-- While PD1 SUP is held in reset no event beyond PD0 AON acts (R478). -/
theorem State.event_of_held {s : State} (h : s.chip.dev.held = true) (f : Chip → Chip) : s.event f = .next s := by
  simp [State.event, State.stores, h, State.landed_same]

theorem State.device_of_up {s : State} (h : s.chip.dev.held = false) (f : Dev → Dev) :
    s.device f = .next (s.to (f s.chip.dev)) := by
  simp [State.device, State.always, h, State.to, Chip.onDev]

theorem State.device_of_held {s : State} (h : s.chip.dev.held = true) (f : Dev → Dev) : s.device f = .next s := by
  simp [State.device, State.always, h]

theorem State.access_of_up {s : State} {m : Master} (h : s.chip.dev.held = false) (hm : m.isEngine = false) (f : Chip → Resp × Chip) :
    s.access m f = .next (s.landed ((f s.chip).2.onDev fun d => { d with resp := (f s.chip).1 })) := by
  simp [State.access, State.stores, Chip.answered, h, hm]

/-- An engine makes no access but its posts (R335). -/
theorem State.access_of_engine {s : State} {m : Master} (hm : m.isEngine = true) (f : Chip → Resp × Chip) : s.access m f = .next s := by
  simp [State.access, State.stores, hm, State.landed_same]

/-- No access of a master is answered while PD1 SUP is held in reset. -/
theorem State.access_of_held {s : State} {m : Master} (h : s.chip.dev.held = true) (hm : m.isEngine = false) (f : Chip → Resp × Chip) :
    s.access m f = .next (s.to { s.chip.dev with resp := .none }) := by
  simp [State.access, State.stores, Chip.answered, h, hm, State.to, Chip.onDev, State.landed_same]

/-- The masters that make accesses are those that are no engines. -/
theorem Master.isEngine_false {m : Master} (h : m.id < 3 ∨ 8 ≤ m.id) : m.isEngine = false := by
  cases m with
  | eng k => exfalso; have := k.isLt; simp only [Master.id] at h; omega
  | _ => rfl

/-- A command the supervisor holds at a place is carried out on the chip. -/
theorem State.held_of_holds {s : State} {i : Fin 4} {cls op : Nat} {h : HeldCmd} (hh : s.holds i cls op h)
    (f : HeldCmd → Chip → Chip) : s.held i cls op f = .next (s.landed (f h s.chip)) := by
  obtain ⟨h0, h1, h2, h3, h4⟩ := hh
  have : s.chip.dev.heldAs i cls op = some h := by
    have e3 : h.cls = cls := h3
    have e4 : h.op = op := h4
    simp [Dev.heldAs, h1, h2, e3, e4, Option.filter]
  simp [State.held, State.stores, Chip.runHeld, this, h0]

theorem State.heldDev_of_holds {s : State} {i : Fin 4} {cls op : Nat} {h : HeldCmd} (hh : s.holds i cls op h)
    (f : Dev → HeldCmd → Dev) : s.heldDev i cls op f = .next (s.to (f s.chip.dev h)) := by
  rw [State.heldDev, State.held_of_holds hh]
  exact congrArg _ (State.landed_dev s _)

/-- A command that answers at once leaves the state of `answered`. -/
theorem State.to_answer (s : State) (h : HeldCmd) (st : Nat) (l : List Word) :
    ({ s with chip := s.chip.onDev fun d => d.answer h st l } : State) = s.answered h st l := rfl

/-- An engine with no handler running, or at another instruction, executes nothing. -/
theorem Engine.run_none {e : Engine} (h : e.cur = none) (env : OpEnv) (pe : Bool) (o : Op) : e.run env pe o = .idle := by
  simp [Engine.run, h]

/-- What an engine does at an instruction with no parity error: its fault, else the end of the handler, else its effect, the paces
charged and the next program counter. -/
theorem State.run_of_stands {s : State} {e : Fin 5} {o : Op} {w : Word} {h : Handler} (hs : s.standsAt e o w h) (env : OpEnv) :
    (s.chip.dev.eng e.val).run env false o = match o.fault (s.chip.dev.eng e.val) env w h with
      | some code => .fault code (s.chip.dev.eng e.val).pc
      | none =>
        if o = .ret && (s.chip.dev.eng e.val).depth h == 0 then .commit ((s.chip.dev.eng e.val).charge o.paces)
        else
          let e' := { (o.effect (s.chip.dev.eng e.val) env w h).charge o.paces with pc := o.nextPc (s.chip.dev.eng e.val) w }
          if o = .yield && h.kind.background then .yield e' else .ok e' := by
  obtain ⟨-, -, h1, h2, h3, h4⟩ := hs
  simp only [Engine.run, h1, if_neg (show ¬ 4096 ≤ (s.chip.dev.eng e.val).pc by omega), Bool.false_eq_true, if_false, h3, h4,
    ne_eq, not_true_eq_false]
  all_goals cases o.fault (s.chip.dev.eng e.val) env w h <;> rfl

/-- A write of a command register that the fabric lets in: the checks passed, the fields loaded, and then the register's effect. -/
theorem Chip.write_of_lets {c : Chip} {m a : Nat} {w : Word} (hl : c.lets m a w) (ha : a < 0x150000) (hw : inWindow a = false)
    (h1 : a % 0x10000 < 0x1000) (h4 : a % 4 = 0) (hk : lockAt a = none) (hf : fixedCfg a = false) (errs : CwErrs) :
    ∃ old, c.write m a 4 w.toNat errs = (.done, (c.loaded m a w).effect m a old w errs) := by
  obtain ⟨-, -, r, hd, ht, hadm, hs, hv, ho⟩ := hl
  have hrow : rowAt a = some r := by
    unfold Dev.target at hd
    split at hd
    · cases hd
    · split at hd
      · cases hd
      · split at hd
        · cases hd
        · next r' hr =>
          split at hd
          · cases hd
          · cases hd; exact hr
  have hb : a / 0x10000 * 0x10000 + a % 0x1000 / 4 * 4 = a := by omega
  have hreg : regionOf (a % 0x10000) = .normal := by
    have : a % 0x10000 / 0x1000 = 0 := by omega
    simp [regionOf, this]
  have hwd : wd w.toNat = w := by simp [wd]
  refine ⟨c.dev.stored r m a, ?_⟩
  have h2 : ¬ 0x400000 ≤ a := by omega
  have h3 : ¬ 0x150000 ≤ a := by omega
  simp only [Chip.write, h2, h3, decide_false, Bool.false_and, Bool.false_eq_true, if_false, h4, ne_eq, not_true_eq_false, hw, hreg, hb, hd]
  simp [Chip.regWrite, hadm, hs, h4, typeRefuses, ht, hk, hf, hwd, hv, ho, Chip.accept, Dev.written, Nat.mod_eq_of_lt w.isLt,
    Chip.loaded, hrow]

/-- The same as the whole state it leaves. -/
theorem State.wrote_of_lets {s : State} {m : Master} {a : Nat} {w : Word} (hl : s.chip.lets m.id a w) (ha : a < 0x150000)
    (hw : inWindow a = false) (h1 : a % 0x10000 < 0x1000) (h4 : a % 4 = 0) (hk : lockAt a = none) (hf : fixedCfg a = false) :
    ∃ old, s.wrote m a w = .next (s.done ((s.chip.loaded m.id a w).effect m.id a old w [])) := by
  obtain ⟨old, h⟩ := Chip.write_of_lets hl ha hw h1 h4 hk hf []
  exact ⟨old, by simp [State.wrote, State.access_of_up hl.1 (Master.isEngine_false hl.2.1), h, State.done]⟩

/-- The same for an order: a command's word from the stored fields. -/
theorem State.order_of_lets {s : State} {m : Master} {a : Nat} {f : Word → Word} (hl : s.lets m a f) (ha : a < 0x150000)
    (hw : inWindow a = false) (h1 : a % 0x10000 < 0x1000) (h4 : a % 4 = 0) (hk : lockAt a = none) (hf : fixedCfg a = false) :
    ∃ old, s.order m a f = .next (s.done ((s.loads m a f).effect m.id a old (f (s.chip.dev.plain a)) [])) := by
  exact State.wrote_of_lets hl ha hw h1 h4 hk hf

end Sys2Proof.Machine
end

