-- ==== Sys2Proof/Laws/State.lean ====
section
/-! SUPPORT. What each update of the device leaves as it is: one lemma per field, true by unfolding the update. -/
namespace Sys2Proof.Machine

@[simp] theorem Chip.onDev_dev (c : Chip) (f : Dev → Dev) : (c.onDev f).dev = f c.dev := rfl
@[simp] theorem Chip.onDev_nvm (c : Chip) (f : Dev → Dev) : (c.onDev f).nvm = c.nvm := rfl
@[simp] theorem Chip.onNvm_dev (c : Chip) (f : Nvm → Nvm) : (c.onNvm f).dev = c.dev := rfl
@[simp] theorem Chip.onNvm_nvm (c : Chip) (f : Nvm → Nvm) : (c.onNvm f).nvm = f c.nvm := rfl

section Fields
variable (d : Dev)

@[simp] theorem Dev.now_setReg (a : Nat) (w : Word) : (d.setReg a w).now = d.now := rfl
@[simp] theorem Dev.instT_setReg (a : Nat) (w : Word) : (d.setReg a w).instT = d.instT := rfl
@[simp] theorem Dev.fuses_setReg (a : Nat) (w : Word) : (d.setReg a w).fuses = d.fuses := rfl
@[simp] theorem Dev.inReset_setReg (a : Nat) (w : Word) : (d.setReg a w).inReset = d.inReset := rfl
@[simp] theorem Dev.resetPin_setReg (a : Nat) (w : Word) : (d.setReg a w).resetPin = d.resetPin := rfl
@[simp] theorem Dev.act_setReg (a : Nat) (w : Word) : (d.setReg a w).act = d.act := rfl
@[simp] theorem Dev.inst_setReg (a : Nat) (w : Word) : (d.setReg a w).inst = d.inst := rfl
@[simp] theorem Dev.staged_setReg (a : Nat) (w : Word) : (d.setReg a w).staged = d.staged := rfl
@[simp] theorem Dev.bound_setReg (a : Nat) (w : Word) : (d.setReg a w).bound = d.bound := rfl
@[simp] theorem Dev.shadow_setReg (a : Nat) (w : Word) : (d.setReg a w).shadow = d.shadow := rfl
@[simp] theorem Dev.halves_setReg (a : Nat) (w : Word) : (d.setReg a w).halves = d.halves := rfl
@[simp] theorem Dev.locks_setReg (a : Nat) (w : Word) : (d.setReg a w).locks = d.locks := rfl
@[simp] theorem Dev.cmPend_setReg (a : Nat) (w : Word) : (d.setReg a w).cmPend = d.cmPend := rfl
@[simp] theorem Dev.resp_setReg (a : Nat) (w : Word) : (d.setReg a w).resp = d.resp := rfl
@[simp] theorem Dev.miso_setReg (a : Nat) (w : Word) : (d.setReg a w).miso = d.miso := rfl
@[simp] theorem Dev.i2cResp_setReg (a : Nat) (w : Word) : (d.setReg a w).i2cResp = d.i2cResp := rfl
@[simp] theorem Dev.pwr_setReg (a : Nat) (w : Word) : (d.setReg a w).pwr = d.pwr := rfl
@[simp] theorem Dev.modCnt_setReg (a : Nat) (w : Word) : (d.setReg a w).modCnt = d.modCnt := rfl
@[simp] theorem Dev.modOn_setReg (a : Nat) (w : Word) : (d.setReg a w).modOn = d.modOn := rfl
@[simp] theorem Dev.syncDue_setReg (a : Nat) (w : Word) : (d.setReg a w).syncDue = d.syncDue := rfl
@[simp] theorem Dev.frameSeq_setReg (a : Nat) (w : Word) : (d.setReg a w).frameSeq = d.frameSeq := rfl
@[simp] theorem Dev.cycN_setReg (a : Nat) (w : Word) : (d.setReg a w).cycN = d.cycN := rfl
@[simp] theorem Dev.cutoffPassed_setReg (a : Nat) (w : Word) : (d.setReg a w).cutoffPassed = d.cutoffPassed := rfl
@[simp] theorem Dev.cycMark_setReg (a : Nat) (w : Word) : (d.setReg a w).cycMark = d.cycMark := rfl
@[simp] theorem Dev.blkMark_setReg (a : Nat) (w : Word) : (d.setReg a w).blkMark = d.blkMark := rfl
@[simp] theorem Dev.secMark_setReg (a : Nat) (w : Word) : (d.setReg a w).secMark = d.secMark := rfl
@[simp] theorem Dev.swpMark_setReg (a : Nat) (w : Word) : (d.setReg a w).swpMark = d.swpMark := rfl
@[simp] theorem Dev.blkCount_setReg (a : Nat) (w : Word) : (d.setReg a w).blkCount = d.blkCount := rfl
@[simp] theorem Dev.escCycN_setReg (a : Nat) (w : Word) : (d.setReg a w).escCycN = d.escCycN := rfl
@[simp] theorem Dev.framesCyc_setReg (a : Nat) (w : Word) : (d.setReg a w).framesCyc = d.framesCyc := rfl
@[simp] theorem Dev.framesPrev_setReg (a : Nat) (w : Word) : (d.setReg a w).framesPrev = d.framesPrev := rfl
@[simp] theorem Dev.halfMark_setReg (a : Nat) (w : Word) : (d.setReg a w).halfMark = d.halfMark := rfl
@[simp] theorem Dev.chans_setReg (a : Nat) (w : Word) : (d.setReg a w).chans = d.chans := rfl
@[simp] theorem Dev.relief_setReg (a : Nat) (w : Word) : (d.setReg a w).relief = d.relief := rfl
@[simp] theorem Dev.slots_setReg (a : Nat) (w : Word) : (d.setReg a w).slots = d.slots := rfl
@[simp] theorem Dev.cal_setReg (a : Nat) (w : Word) : (d.setReg a w).cal = d.cal := rfl
@[simp] theorem Dev.calZeros_setReg (a : Nat) (w : Word) : (d.setReg a w).calZeros = d.calZeros := rfl
@[simp] theorem Dev.rcf_setReg (a : Nat) (w : Word) : (d.setReg a w).rcf = d.rcf := rfl
@[simp] theorem Dev.tcfTemp_setReg (a : Nat) (w : Word) : (d.setReg a w).tcfTemp = d.tcfTemp := rfl
@[simp] theorem Dev.qfreq_setReg (a : Nat) (w : Word) : (d.setReg a w).qfreq = d.qfreq := rfl
@[simp] theorem Dev.engines_setReg (a : Nat) (w : Word) : (d.setReg a w).engines = d.engines := rfl
@[simp] theorem Dev.er_setReg (a : Nat) (w : Word) : (d.setReg a w).er = d.er := rfl
@[simp] theorem Dev.roles_setReg (a : Nat) (w : Word) : (d.setReg a w).roles = d.roles := rfl
@[simp] theorem Dev.freeze_setReg (a : Nat) (w : Word) : (d.setReg a w).freeze = d.freeze := rfl
@[simp] theorem Dev.vBound_setReg (a : Nat) (w : Word) : (d.setReg a w).vBound = d.vBound := rfl
@[simp] theorem Dev.outs_setReg (a : Nat) (w : Word) : (d.setReg a w).outs = d.outs := rfl
@[simp] theorem Dev.groups_setReg (a : Nat) (w : Word) : (d.setReg a w).groups = d.groups := rfl
@[simp] theorem Dev.fll_setReg (a : Nat) (w : Word) : (d.setReg a w).fll = d.fll := rfl
@[simp] theorem Dev.harm_setReg (a : Nat) (w : Word) : (d.setReg a w).harm = d.harm := rfl
@[simp] theorem Dev.evt_setReg (a : Nat) (w : Word) : (d.setReg a w).evt = d.evt := rfl
@[simp] theorem Dev.aux_setReg (a : Nat) (w : Word) : (d.setReg a w).aux = d.aux := rfl
@[simp] theorem Dev.mbox_setReg (a : Nat) (w : Word) : (d.setReg a w).mbox = d.mbox := rfl
@[simp] theorem Dev.sup_setReg (a : Nat) (w : Word) : (d.setReg a w).sup = d.sup := rfl
@[simp] theorem Dev.sess_setReg (a : Nat) (w : Word) : (d.setReg a w).sess = d.sess := rfl
@[simp] theorem Dev.rtc_setReg (a : Nat) (w : Word) : (d.setReg a w).rtc = d.rtc := rfl
@[simp] theorem Dev.plc_setReg (a : Nat) (w : Word) : (d.setReg a w).plc = d.plc := rfl
@[simp] theorem Dev.pnl_setReg (a : Nat) (w : Word) : (d.setReg a w).pnl = d.pnl := rfl
@[simp] theorem Dev.chn_setReg (a : Nat) (w : Word) : (d.setReg a w).chn = d.chn := rfl
@[simp] theorem Dev.cfgCapture_setReg (a : Nat) (w : Word) : (d.setReg a w).cfgCapture = d.cfgCapture := rfl
@[simp] theorem Dev.cycHigh_setReg (a : Nat) (w : Word) : (d.setReg a w).cycHigh = d.cycHigh := rfl
@[simp] theorem Dev.txen_setReg (a : Nat) (w : Word) : (d.setReg a w).txen = d.txen := rfl
@[simp] theorem Dev.freeCtr_setReg (a : Nat) (w : Word) : (d.setReg a w).freeCtr = d.freeCtr := rfl

@[simp] theorem Dev.now_setActive (a : Nat) (w : Word) : (d.setActive a w).now = d.now := rfl
@[simp] theorem Dev.instT_setActive (a : Nat) (w : Word) : (d.setActive a w).instT = d.instT := rfl
@[simp] theorem Dev.fuses_setActive (a : Nat) (w : Word) : (d.setActive a w).fuses = d.fuses := rfl
@[simp] theorem Dev.inReset_setActive (a : Nat) (w : Word) : (d.setActive a w).inReset = d.inReset := rfl
@[simp] theorem Dev.resetPin_setActive (a : Nat) (w : Word) : (d.setActive a w).resetPin = d.resetPin := rfl
@[simp] theorem Dev.regs_setActive (a : Nat) (w : Word) : (d.setActive a w).regs = d.regs := rfl
@[simp] theorem Dev.inst_setActive (a : Nat) (w : Word) : (d.setActive a w).inst = d.inst := rfl
@[simp] theorem Dev.staged_setActive (a : Nat) (w : Word) : (d.setActive a w).staged = d.staged := rfl
@[simp] theorem Dev.bound_setActive (a : Nat) (w : Word) : (d.setActive a w).bound = d.bound := rfl
@[simp] theorem Dev.shadow_setActive (a : Nat) (w : Word) : (d.setActive a w).shadow = d.shadow := rfl
@[simp] theorem Dev.halves_setActive (a : Nat) (w : Word) : (d.setActive a w).halves = d.halves := rfl
@[simp] theorem Dev.locks_setActive (a : Nat) (w : Word) : (d.setActive a w).locks = d.locks := rfl
@[simp] theorem Dev.cmPend_setActive (a : Nat) (w : Word) : (d.setActive a w).cmPend = d.cmPend := rfl
@[simp] theorem Dev.resp_setActive (a : Nat) (w : Word) : (d.setActive a w).resp = d.resp := rfl
@[simp] theorem Dev.miso_setActive (a : Nat) (w : Word) : (d.setActive a w).miso = d.miso := rfl
@[simp] theorem Dev.i2cResp_setActive (a : Nat) (w : Word) : (d.setActive a w).i2cResp = d.i2cResp := rfl
@[simp] theorem Dev.pwr_setActive (a : Nat) (w : Word) : (d.setActive a w).pwr = d.pwr := rfl
@[simp] theorem Dev.modCnt_setActive (a : Nat) (w : Word) : (d.setActive a w).modCnt = d.modCnt := rfl
@[simp] theorem Dev.modOn_setActive (a : Nat) (w : Word) : (d.setActive a w).modOn = d.modOn := rfl
@[simp] theorem Dev.syncDue_setActive (a : Nat) (w : Word) : (d.setActive a w).syncDue = d.syncDue := rfl
@[simp] theorem Dev.frameSeq_setActive (a : Nat) (w : Word) : (d.setActive a w).frameSeq = d.frameSeq := rfl
@[simp] theorem Dev.cycN_setActive (a : Nat) (w : Word) : (d.setActive a w).cycN = d.cycN := rfl
@[simp] theorem Dev.cutoffPassed_setActive (a : Nat) (w : Word) : (d.setActive a w).cutoffPassed = d.cutoffPassed := rfl
@[simp] theorem Dev.cycMark_setActive (a : Nat) (w : Word) : (d.setActive a w).cycMark = d.cycMark := rfl
@[simp] theorem Dev.blkMark_setActive (a : Nat) (w : Word) : (d.setActive a w).blkMark = d.blkMark := rfl
@[simp] theorem Dev.secMark_setActive (a : Nat) (w : Word) : (d.setActive a w).secMark = d.secMark := rfl
@[simp] theorem Dev.swpMark_setActive (a : Nat) (w : Word) : (d.setActive a w).swpMark = d.swpMark := rfl
@[simp] theorem Dev.blkCount_setActive (a : Nat) (w : Word) : (d.setActive a w).blkCount = d.blkCount := rfl
@[simp] theorem Dev.escCycN_setActive (a : Nat) (w : Word) : (d.setActive a w).escCycN = d.escCycN := rfl
@[simp] theorem Dev.framesCyc_setActive (a : Nat) (w : Word) : (d.setActive a w).framesCyc = d.framesCyc := rfl
@[simp] theorem Dev.framesPrev_setActive (a : Nat) (w : Word) : (d.setActive a w).framesPrev = d.framesPrev := rfl
@[simp] theorem Dev.halfMark_setActive (a : Nat) (w : Word) : (d.setActive a w).halfMark = d.halfMark := rfl
@[simp] theorem Dev.chans_setActive (a : Nat) (w : Word) : (d.setActive a w).chans = d.chans := rfl
@[simp] theorem Dev.relief_setActive (a : Nat) (w : Word) : (d.setActive a w).relief = d.relief := rfl
@[simp] theorem Dev.slots_setActive (a : Nat) (w : Word) : (d.setActive a w).slots = d.slots := rfl
@[simp] theorem Dev.cal_setActive (a : Nat) (w : Word) : (d.setActive a w).cal = d.cal := rfl
@[simp] theorem Dev.calZeros_setActive (a : Nat) (w : Word) : (d.setActive a w).calZeros = d.calZeros := rfl
@[simp] theorem Dev.rcf_setActive (a : Nat) (w : Word) : (d.setActive a w).rcf = d.rcf := rfl
@[simp] theorem Dev.tcfTemp_setActive (a : Nat) (w : Word) : (d.setActive a w).tcfTemp = d.tcfTemp := rfl
@[simp] theorem Dev.qfreq_setActive (a : Nat) (w : Word) : (d.setActive a w).qfreq = d.qfreq := rfl
@[simp] theorem Dev.engines_setActive (a : Nat) (w : Word) : (d.setActive a w).engines = d.engines := rfl
@[simp] theorem Dev.er_setActive (a : Nat) (w : Word) : (d.setActive a w).er = d.er := rfl
@[simp] theorem Dev.roles_setActive (a : Nat) (w : Word) : (d.setActive a w).roles = d.roles := rfl
@[simp] theorem Dev.freeze_setActive (a : Nat) (w : Word) : (d.setActive a w).freeze = d.freeze := rfl
@[simp] theorem Dev.vBound_setActive (a : Nat) (w : Word) : (d.setActive a w).vBound = d.vBound := rfl
@[simp] theorem Dev.outs_setActive (a : Nat) (w : Word) : (d.setActive a w).outs = d.outs := rfl
@[simp] theorem Dev.groups_setActive (a : Nat) (w : Word) : (d.setActive a w).groups = d.groups := rfl
@[simp] theorem Dev.fll_setActive (a : Nat) (w : Word) : (d.setActive a w).fll = d.fll := rfl
@[simp] theorem Dev.harm_setActive (a : Nat) (w : Word) : (d.setActive a w).harm = d.harm := rfl
@[simp] theorem Dev.evt_setActive (a : Nat) (w : Word) : (d.setActive a w).evt = d.evt := rfl
@[simp] theorem Dev.aux_setActive (a : Nat) (w : Word) : (d.setActive a w).aux = d.aux := rfl
@[simp] theorem Dev.mbox_setActive (a : Nat) (w : Word) : (d.setActive a w).mbox = d.mbox := rfl
@[simp] theorem Dev.sup_setActive (a : Nat) (w : Word) : (d.setActive a w).sup = d.sup := rfl
@[simp] theorem Dev.sess_setActive (a : Nat) (w : Word) : (d.setActive a w).sess = d.sess := rfl
@[simp] theorem Dev.rtc_setActive (a : Nat) (w : Word) : (d.setActive a w).rtc = d.rtc := rfl
@[simp] theorem Dev.plc_setActive (a : Nat) (w : Word) : (d.setActive a w).plc = d.plc := rfl
@[simp] theorem Dev.pnl_setActive (a : Nat) (w : Word) : (d.setActive a w).pnl = d.pnl := rfl
@[simp] theorem Dev.chn_setActive (a : Nat) (w : Word) : (d.setActive a w).chn = d.chn := rfl
@[simp] theorem Dev.cfgCapture_setActive (a : Nat) (w : Word) : (d.setActive a w).cfgCapture = d.cfgCapture := rfl
@[simp] theorem Dev.cycHigh_setActive (a : Nat) (w : Word) : (d.setActive a w).cycHigh = d.cycHigh := rfl
@[simp] theorem Dev.txen_setActive (a : Nat) (w : Word) : (d.setActive a w).txen = d.txen := rfl
@[simp] theorem Dev.freeCtr_setActive (a : Nat) (w : Word) : (d.setActive a w).freeCtr = d.freeCtr := rfl

@[simp] theorem Dev.now_setIreg (m a : Nat) (w : Word) : (d.setIreg m a w).now = d.now := rfl
@[simp] theorem Dev.instT_setIreg (m a : Nat) (w : Word) : (d.setIreg m a w).instT = d.instT := rfl
@[simp] theorem Dev.fuses_setIreg (m a : Nat) (w : Word) : (d.setIreg m a w).fuses = d.fuses := rfl
@[simp] theorem Dev.inReset_setIreg (m a : Nat) (w : Word) : (d.setIreg m a w).inReset = d.inReset := rfl
@[simp] theorem Dev.resetPin_setIreg (m a : Nat) (w : Word) : (d.setIreg m a w).resetPin = d.resetPin := rfl
@[simp] theorem Dev.regs_setIreg (m a : Nat) (w : Word) : (d.setIreg m a w).regs = d.regs := rfl
@[simp] theorem Dev.act_setIreg (m a : Nat) (w : Word) : (d.setIreg m a w).act = d.act := rfl
@[simp] theorem Dev.staged_setIreg (m a : Nat) (w : Word) : (d.setIreg m a w).staged = d.staged := rfl
@[simp] theorem Dev.bound_setIreg (m a : Nat) (w : Word) : (d.setIreg m a w).bound = d.bound := rfl
@[simp] theorem Dev.shadow_setIreg (m a : Nat) (w : Word) : (d.setIreg m a w).shadow = d.shadow := rfl
@[simp] theorem Dev.halves_setIreg (m a : Nat) (w : Word) : (d.setIreg m a w).halves = d.halves := rfl
@[simp] theorem Dev.locks_setIreg (m a : Nat) (w : Word) : (d.setIreg m a w).locks = d.locks := rfl
@[simp] theorem Dev.cmPend_setIreg (m a : Nat) (w : Word) : (d.setIreg m a w).cmPend = d.cmPend := rfl
@[simp] theorem Dev.resp_setIreg (m a : Nat) (w : Word) : (d.setIreg m a w).resp = d.resp := rfl
@[simp] theorem Dev.miso_setIreg (m a : Nat) (w : Word) : (d.setIreg m a w).miso = d.miso := rfl
@[simp] theorem Dev.i2cResp_setIreg (m a : Nat) (w : Word) : (d.setIreg m a w).i2cResp = d.i2cResp := rfl
@[simp] theorem Dev.pwr_setIreg (m a : Nat) (w : Word) : (d.setIreg m a w).pwr = d.pwr := rfl
@[simp] theorem Dev.modCnt_setIreg (m a : Nat) (w : Word) : (d.setIreg m a w).modCnt = d.modCnt := rfl
@[simp] theorem Dev.modOn_setIreg (m a : Nat) (w : Word) : (d.setIreg m a w).modOn = d.modOn := rfl
@[simp] theorem Dev.syncDue_setIreg (m a : Nat) (w : Word) : (d.setIreg m a w).syncDue = d.syncDue := rfl
@[simp] theorem Dev.frameSeq_setIreg (m a : Nat) (w : Word) : (d.setIreg m a w).frameSeq = d.frameSeq := rfl
@[simp] theorem Dev.cycN_setIreg (m a : Nat) (w : Word) : (d.setIreg m a w).cycN = d.cycN := rfl
@[simp] theorem Dev.cutoffPassed_setIreg (m a : Nat) (w : Word) : (d.setIreg m a w).cutoffPassed = d.cutoffPassed := rfl
@[simp] theorem Dev.cycMark_setIreg (m a : Nat) (w : Word) : (d.setIreg m a w).cycMark = d.cycMark := rfl
@[simp] theorem Dev.blkMark_setIreg (m a : Nat) (w : Word) : (d.setIreg m a w).blkMark = d.blkMark := rfl
@[simp] theorem Dev.secMark_setIreg (m a : Nat) (w : Word) : (d.setIreg m a w).secMark = d.secMark := rfl
@[simp] theorem Dev.swpMark_setIreg (m a : Nat) (w : Word) : (d.setIreg m a w).swpMark = d.swpMark := rfl
@[simp] theorem Dev.blkCount_setIreg (m a : Nat) (w : Word) : (d.setIreg m a w).blkCount = d.blkCount := rfl
@[simp] theorem Dev.escCycN_setIreg (m a : Nat) (w : Word) : (d.setIreg m a w).escCycN = d.escCycN := rfl
@[simp] theorem Dev.framesCyc_setIreg (m a : Nat) (w : Word) : (d.setIreg m a w).framesCyc = d.framesCyc := rfl
@[simp] theorem Dev.framesPrev_setIreg (m a : Nat) (w : Word) : (d.setIreg m a w).framesPrev = d.framesPrev := rfl
@[simp] theorem Dev.halfMark_setIreg (m a : Nat) (w : Word) : (d.setIreg m a w).halfMark = d.halfMark := rfl
@[simp] theorem Dev.chans_setIreg (m a : Nat) (w : Word) : (d.setIreg m a w).chans = d.chans := rfl
@[simp] theorem Dev.relief_setIreg (m a : Nat) (w : Word) : (d.setIreg m a w).relief = d.relief := rfl
@[simp] theorem Dev.slots_setIreg (m a : Nat) (w : Word) : (d.setIreg m a w).slots = d.slots := rfl
@[simp] theorem Dev.cal_setIreg (m a : Nat) (w : Word) : (d.setIreg m a w).cal = d.cal := rfl
@[simp] theorem Dev.calZeros_setIreg (m a : Nat) (w : Word) : (d.setIreg m a w).calZeros = d.calZeros := rfl
@[simp] theorem Dev.rcf_setIreg (m a : Nat) (w : Word) : (d.setIreg m a w).rcf = d.rcf := rfl
@[simp] theorem Dev.tcfTemp_setIreg (m a : Nat) (w : Word) : (d.setIreg m a w).tcfTemp = d.tcfTemp := rfl
@[simp] theorem Dev.qfreq_setIreg (m a : Nat) (w : Word) : (d.setIreg m a w).qfreq = d.qfreq := rfl
@[simp] theorem Dev.engines_setIreg (m a : Nat) (w : Word) : (d.setIreg m a w).engines = d.engines := rfl
@[simp] theorem Dev.er_setIreg (m a : Nat) (w : Word) : (d.setIreg m a w).er = d.er := rfl
@[simp] theorem Dev.roles_setIreg (m a : Nat) (w : Word) : (d.setIreg m a w).roles = d.roles := rfl
@[simp] theorem Dev.freeze_setIreg (m a : Nat) (w : Word) : (d.setIreg m a w).freeze = d.freeze := rfl
@[simp] theorem Dev.vBound_setIreg (m a : Nat) (w : Word) : (d.setIreg m a w).vBound = d.vBound := rfl
@[simp] theorem Dev.outs_setIreg (m a : Nat) (w : Word) : (d.setIreg m a w).outs = d.outs := rfl
@[simp] theorem Dev.groups_setIreg (m a : Nat) (w : Word) : (d.setIreg m a w).groups = d.groups := rfl
@[simp] theorem Dev.fll_setIreg (m a : Nat) (w : Word) : (d.setIreg m a w).fll = d.fll := rfl
@[simp] theorem Dev.harm_setIreg (m a : Nat) (w : Word) : (d.setIreg m a w).harm = d.harm := rfl
@[simp] theorem Dev.evt_setIreg (m a : Nat) (w : Word) : (d.setIreg m a w).evt = d.evt := rfl
@[simp] theorem Dev.aux_setIreg (m a : Nat) (w : Word) : (d.setIreg m a w).aux = d.aux := rfl
@[simp] theorem Dev.mbox_setIreg (m a : Nat) (w : Word) : (d.setIreg m a w).mbox = d.mbox := rfl
@[simp] theorem Dev.sup_setIreg (m a : Nat) (w : Word) : (d.setIreg m a w).sup = d.sup := rfl
@[simp] theorem Dev.sess_setIreg (m a : Nat) (w : Word) : (d.setIreg m a w).sess = d.sess := rfl
@[simp] theorem Dev.rtc_setIreg (m a : Nat) (w : Word) : (d.setIreg m a w).rtc = d.rtc := rfl
@[simp] theorem Dev.plc_setIreg (m a : Nat) (w : Word) : (d.setIreg m a w).plc = d.plc := rfl
@[simp] theorem Dev.pnl_setIreg (m a : Nat) (w : Word) : (d.setIreg m a w).pnl = d.pnl := rfl
@[simp] theorem Dev.chn_setIreg (m a : Nat) (w : Word) : (d.setIreg m a w).chn = d.chn := rfl
@[simp] theorem Dev.cfgCapture_setIreg (m a : Nat) (w : Word) : (d.setIreg m a w).cfgCapture = d.cfgCapture := rfl
@[simp] theorem Dev.cycHigh_setIreg (m a : Nat) (w : Word) : (d.setIreg m a w).cycHigh = d.cycHigh := rfl
@[simp] theorem Dev.txen_setIreg (m a : Nat) (w : Word) : (d.setIreg m a w).txen = d.txen := rfl
@[simp] theorem Dev.freeCtr_setIreg (m a : Nat) (w : Word) : (d.setIreg m a w).freeCtr = d.freeCtr := rfl

@[simp] theorem Dev.now_setChan (k : Nat) (x : Chan) : (d.setChan k x).now = d.now := rfl
@[simp] theorem Dev.instT_setChan (k : Nat) (x : Chan) : (d.setChan k x).instT = d.instT := rfl
@[simp] theorem Dev.fuses_setChan (k : Nat) (x : Chan) : (d.setChan k x).fuses = d.fuses := rfl
@[simp] theorem Dev.inReset_setChan (k : Nat) (x : Chan) : (d.setChan k x).inReset = d.inReset := rfl
@[simp] theorem Dev.resetPin_setChan (k : Nat) (x : Chan) : (d.setChan k x).resetPin = d.resetPin := rfl
@[simp] theorem Dev.regs_setChan (k : Nat) (x : Chan) : (d.setChan k x).regs = d.regs := rfl
@[simp] theorem Dev.act_setChan (k : Nat) (x : Chan) : (d.setChan k x).act = d.act := rfl
@[simp] theorem Dev.inst_setChan (k : Nat) (x : Chan) : (d.setChan k x).inst = d.inst := rfl
@[simp] theorem Dev.staged_setChan (k : Nat) (x : Chan) : (d.setChan k x).staged = d.staged := rfl
@[simp] theorem Dev.bound_setChan (k : Nat) (x : Chan) : (d.setChan k x).bound = d.bound := rfl
@[simp] theorem Dev.shadow_setChan (k : Nat) (x : Chan) : (d.setChan k x).shadow = d.shadow := rfl
@[simp] theorem Dev.halves_setChan (k : Nat) (x : Chan) : (d.setChan k x).halves = d.halves := rfl
@[simp] theorem Dev.locks_setChan (k : Nat) (x : Chan) : (d.setChan k x).locks = d.locks := rfl
@[simp] theorem Dev.cmPend_setChan (k : Nat) (x : Chan) : (d.setChan k x).cmPend = d.cmPend := rfl
@[simp] theorem Dev.resp_setChan (k : Nat) (x : Chan) : (d.setChan k x).resp = d.resp := rfl
@[simp] theorem Dev.miso_setChan (k : Nat) (x : Chan) : (d.setChan k x).miso = d.miso := rfl
@[simp] theorem Dev.i2cResp_setChan (k : Nat) (x : Chan) : (d.setChan k x).i2cResp = d.i2cResp := rfl
@[simp] theorem Dev.pwr_setChan (k : Nat) (x : Chan) : (d.setChan k x).pwr = d.pwr := rfl
@[simp] theorem Dev.modCnt_setChan (k : Nat) (x : Chan) : (d.setChan k x).modCnt = d.modCnt := rfl
@[simp] theorem Dev.modOn_setChan (k : Nat) (x : Chan) : (d.setChan k x).modOn = d.modOn := rfl
@[simp] theorem Dev.syncDue_setChan (k : Nat) (x : Chan) : (d.setChan k x).syncDue = d.syncDue := rfl
@[simp] theorem Dev.frameSeq_setChan (k : Nat) (x : Chan) : (d.setChan k x).frameSeq = d.frameSeq := rfl
@[simp] theorem Dev.cycN_setChan (k : Nat) (x : Chan) : (d.setChan k x).cycN = d.cycN := rfl
@[simp] theorem Dev.cutoffPassed_setChan (k : Nat) (x : Chan) : (d.setChan k x).cutoffPassed = d.cutoffPassed := rfl
@[simp] theorem Dev.cycMark_setChan (k : Nat) (x : Chan) : (d.setChan k x).cycMark = d.cycMark := rfl
@[simp] theorem Dev.blkMark_setChan (k : Nat) (x : Chan) : (d.setChan k x).blkMark = d.blkMark := rfl
@[simp] theorem Dev.secMark_setChan (k : Nat) (x : Chan) : (d.setChan k x).secMark = d.secMark := rfl
@[simp] theorem Dev.swpMark_setChan (k : Nat) (x : Chan) : (d.setChan k x).swpMark = d.swpMark := rfl
@[simp] theorem Dev.blkCount_setChan (k : Nat) (x : Chan) : (d.setChan k x).blkCount = d.blkCount := rfl
@[simp] theorem Dev.escCycN_setChan (k : Nat) (x : Chan) : (d.setChan k x).escCycN = d.escCycN := rfl
@[simp] theorem Dev.framesCyc_setChan (k : Nat) (x : Chan) : (d.setChan k x).framesCyc = d.framesCyc := rfl
@[simp] theorem Dev.framesPrev_setChan (k : Nat) (x : Chan) : (d.setChan k x).framesPrev = d.framesPrev := rfl
@[simp] theorem Dev.halfMark_setChan (k : Nat) (x : Chan) : (d.setChan k x).halfMark = d.halfMark := rfl
@[simp] theorem Dev.relief_setChan (k : Nat) (x : Chan) : (d.setChan k x).relief = d.relief := rfl
@[simp] theorem Dev.slots_setChan (k : Nat) (x : Chan) : (d.setChan k x).slots = d.slots := rfl
@[simp] theorem Dev.cal_setChan (k : Nat) (x : Chan) : (d.setChan k x).cal = d.cal := rfl
@[simp] theorem Dev.calZeros_setChan (k : Nat) (x : Chan) : (d.setChan k x).calZeros = d.calZeros := rfl
@[simp] theorem Dev.rcf_setChan (k : Nat) (x : Chan) : (d.setChan k x).rcf = d.rcf := rfl
@[simp] theorem Dev.tcfTemp_setChan (k : Nat) (x : Chan) : (d.setChan k x).tcfTemp = d.tcfTemp := rfl
@[simp] theorem Dev.qfreq_setChan (k : Nat) (x : Chan) : (d.setChan k x).qfreq = d.qfreq := rfl
@[simp] theorem Dev.engines_setChan (k : Nat) (x : Chan) : (d.setChan k x).engines = d.engines := rfl
@[simp] theorem Dev.er_setChan (k : Nat) (x : Chan) : (d.setChan k x).er = d.er := rfl
@[simp] theorem Dev.roles_setChan (k : Nat) (x : Chan) : (d.setChan k x).roles = d.roles := rfl
@[simp] theorem Dev.freeze_setChan (k : Nat) (x : Chan) : (d.setChan k x).freeze = d.freeze := rfl
@[simp] theorem Dev.vBound_setChan (k : Nat) (x : Chan) : (d.setChan k x).vBound = d.vBound := rfl
@[simp] theorem Dev.outs_setChan (k : Nat) (x : Chan) : (d.setChan k x).outs = d.outs := rfl
@[simp] theorem Dev.groups_setChan (k : Nat) (x : Chan) : (d.setChan k x).groups = d.groups := rfl
@[simp] theorem Dev.fll_setChan (k : Nat) (x : Chan) : (d.setChan k x).fll = d.fll := rfl
@[simp] theorem Dev.harm_setChan (k : Nat) (x : Chan) : (d.setChan k x).harm = d.harm := rfl
@[simp] theorem Dev.evt_setChan (k : Nat) (x : Chan) : (d.setChan k x).evt = d.evt := rfl
@[simp] theorem Dev.aux_setChan (k : Nat) (x : Chan) : (d.setChan k x).aux = d.aux := rfl
@[simp] theorem Dev.mbox_setChan (k : Nat) (x : Chan) : (d.setChan k x).mbox = d.mbox := rfl
@[simp] theorem Dev.sup_setChan (k : Nat) (x : Chan) : (d.setChan k x).sup = d.sup := rfl
@[simp] theorem Dev.sess_setChan (k : Nat) (x : Chan) : (d.setChan k x).sess = d.sess := rfl
@[simp] theorem Dev.rtc_setChan (k : Nat) (x : Chan) : (d.setChan k x).rtc = d.rtc := rfl
@[simp] theorem Dev.plc_setChan (k : Nat) (x : Chan) : (d.setChan k x).plc = d.plc := rfl
@[simp] theorem Dev.pnl_setChan (k : Nat) (x : Chan) : (d.setChan k x).pnl = d.pnl := rfl
@[simp] theorem Dev.chn_setChan (k : Nat) (x : Chan) : (d.setChan k x).chn = d.chn := rfl
@[simp] theorem Dev.cfgCapture_setChan (k : Nat) (x : Chan) : (d.setChan k x).cfgCapture = d.cfgCapture := rfl
@[simp] theorem Dev.cycHigh_setChan (k : Nat) (x : Chan) : (d.setChan k x).cycHigh = d.cycHigh := rfl
@[simp] theorem Dev.txen_setChan (k : Nat) (x : Chan) : (d.setChan k x).txen = d.txen := rfl
@[simp] theorem Dev.freeCtr_setChan (k : Nat) (x : Chan) : (d.setChan k x).freeCtr = d.freeCtr := rfl

@[simp] theorem Dev.now_setEng (k : Nat) (x : Engine) : (d.setEng k x).now = d.now := rfl
@[simp] theorem Dev.instT_setEng (k : Nat) (x : Engine) : (d.setEng k x).instT = d.instT := rfl
@[simp] theorem Dev.fuses_setEng (k : Nat) (x : Engine) : (d.setEng k x).fuses = d.fuses := rfl
@[simp] theorem Dev.inReset_setEng (k : Nat) (x : Engine) : (d.setEng k x).inReset = d.inReset := rfl
@[simp] theorem Dev.resetPin_setEng (k : Nat) (x : Engine) : (d.setEng k x).resetPin = d.resetPin := rfl
@[simp] theorem Dev.regs_setEng (k : Nat) (x : Engine) : (d.setEng k x).regs = d.regs := rfl
@[simp] theorem Dev.act_setEng (k : Nat) (x : Engine) : (d.setEng k x).act = d.act := rfl
@[simp] theorem Dev.inst_setEng (k : Nat) (x : Engine) : (d.setEng k x).inst = d.inst := rfl
@[simp] theorem Dev.staged_setEng (k : Nat) (x : Engine) : (d.setEng k x).staged = d.staged := rfl
@[simp] theorem Dev.bound_setEng (k : Nat) (x : Engine) : (d.setEng k x).bound = d.bound := rfl
@[simp] theorem Dev.shadow_setEng (k : Nat) (x : Engine) : (d.setEng k x).shadow = d.shadow := rfl
@[simp] theorem Dev.halves_setEng (k : Nat) (x : Engine) : (d.setEng k x).halves = d.halves := rfl
@[simp] theorem Dev.locks_setEng (k : Nat) (x : Engine) : (d.setEng k x).locks = d.locks := rfl
@[simp] theorem Dev.cmPend_setEng (k : Nat) (x : Engine) : (d.setEng k x).cmPend = d.cmPend := rfl
@[simp] theorem Dev.resp_setEng (k : Nat) (x : Engine) : (d.setEng k x).resp = d.resp := rfl
@[simp] theorem Dev.miso_setEng (k : Nat) (x : Engine) : (d.setEng k x).miso = d.miso := rfl
@[simp] theorem Dev.i2cResp_setEng (k : Nat) (x : Engine) : (d.setEng k x).i2cResp = d.i2cResp := rfl
@[simp] theorem Dev.pwr_setEng (k : Nat) (x : Engine) : (d.setEng k x).pwr = d.pwr := rfl
@[simp] theorem Dev.modCnt_setEng (k : Nat) (x : Engine) : (d.setEng k x).modCnt = d.modCnt := rfl
@[simp] theorem Dev.modOn_setEng (k : Nat) (x : Engine) : (d.setEng k x).modOn = d.modOn := rfl
@[simp] theorem Dev.syncDue_setEng (k : Nat) (x : Engine) : (d.setEng k x).syncDue = d.syncDue := rfl
@[simp] theorem Dev.frameSeq_setEng (k : Nat) (x : Engine) : (d.setEng k x).frameSeq = d.frameSeq := rfl
@[simp] theorem Dev.cycN_setEng (k : Nat) (x : Engine) : (d.setEng k x).cycN = d.cycN := rfl
@[simp] theorem Dev.cutoffPassed_setEng (k : Nat) (x : Engine) : (d.setEng k x).cutoffPassed = d.cutoffPassed := rfl
@[simp] theorem Dev.cycMark_setEng (k : Nat) (x : Engine) : (d.setEng k x).cycMark = d.cycMark := rfl
@[simp] theorem Dev.blkMark_setEng (k : Nat) (x : Engine) : (d.setEng k x).blkMark = d.blkMark := rfl
@[simp] theorem Dev.secMark_setEng (k : Nat) (x : Engine) : (d.setEng k x).secMark = d.secMark := rfl
@[simp] theorem Dev.swpMark_setEng (k : Nat) (x : Engine) : (d.setEng k x).swpMark = d.swpMark := rfl
@[simp] theorem Dev.blkCount_setEng (k : Nat) (x : Engine) : (d.setEng k x).blkCount = d.blkCount := rfl
@[simp] theorem Dev.escCycN_setEng (k : Nat) (x : Engine) : (d.setEng k x).escCycN = d.escCycN := rfl
@[simp] theorem Dev.framesCyc_setEng (k : Nat) (x : Engine) : (d.setEng k x).framesCyc = d.framesCyc := rfl
@[simp] theorem Dev.framesPrev_setEng (k : Nat) (x : Engine) : (d.setEng k x).framesPrev = d.framesPrev := rfl
@[simp] theorem Dev.halfMark_setEng (k : Nat) (x : Engine) : (d.setEng k x).halfMark = d.halfMark := rfl
@[simp] theorem Dev.chans_setEng (k : Nat) (x : Engine) : (d.setEng k x).chans = d.chans := rfl
@[simp] theorem Dev.relief_setEng (k : Nat) (x : Engine) : (d.setEng k x).relief = d.relief := rfl
@[simp] theorem Dev.slots_setEng (k : Nat) (x : Engine) : (d.setEng k x).slots = d.slots := rfl
@[simp] theorem Dev.cal_setEng (k : Nat) (x : Engine) : (d.setEng k x).cal = d.cal := rfl
@[simp] theorem Dev.calZeros_setEng (k : Nat) (x : Engine) : (d.setEng k x).calZeros = d.calZeros := rfl
@[simp] theorem Dev.rcf_setEng (k : Nat) (x : Engine) : (d.setEng k x).rcf = d.rcf := rfl
@[simp] theorem Dev.tcfTemp_setEng (k : Nat) (x : Engine) : (d.setEng k x).tcfTemp = d.tcfTemp := rfl
@[simp] theorem Dev.qfreq_setEng (k : Nat) (x : Engine) : (d.setEng k x).qfreq = d.qfreq := rfl
@[simp] theorem Dev.er_setEng (k : Nat) (x : Engine) : (d.setEng k x).er = d.er := rfl
@[simp] theorem Dev.roles_setEng (k : Nat) (x : Engine) : (d.setEng k x).roles = d.roles := rfl
@[simp] theorem Dev.freeze_setEng (k : Nat) (x : Engine) : (d.setEng k x).freeze = d.freeze := rfl
@[simp] theorem Dev.vBound_setEng (k : Nat) (x : Engine) : (d.setEng k x).vBound = d.vBound := rfl
@[simp] theorem Dev.outs_setEng (k : Nat) (x : Engine) : (d.setEng k x).outs = d.outs := rfl
@[simp] theorem Dev.groups_setEng (k : Nat) (x : Engine) : (d.setEng k x).groups = d.groups := rfl
@[simp] theorem Dev.fll_setEng (k : Nat) (x : Engine) : (d.setEng k x).fll = d.fll := rfl
@[simp] theorem Dev.harm_setEng (k : Nat) (x : Engine) : (d.setEng k x).harm = d.harm := rfl
@[simp] theorem Dev.evt_setEng (k : Nat) (x : Engine) : (d.setEng k x).evt = d.evt := rfl
@[simp] theorem Dev.aux_setEng (k : Nat) (x : Engine) : (d.setEng k x).aux = d.aux := rfl
@[simp] theorem Dev.mbox_setEng (k : Nat) (x : Engine) : (d.setEng k x).mbox = d.mbox := rfl
@[simp] theorem Dev.sup_setEng (k : Nat) (x : Engine) : (d.setEng k x).sup = d.sup := rfl
@[simp] theorem Dev.sess_setEng (k : Nat) (x : Engine) : (d.setEng k x).sess = d.sess := rfl
@[simp] theorem Dev.rtc_setEng (k : Nat) (x : Engine) : (d.setEng k x).rtc = d.rtc := rfl
@[simp] theorem Dev.plc_setEng (k : Nat) (x : Engine) : (d.setEng k x).plc = d.plc := rfl
@[simp] theorem Dev.pnl_setEng (k : Nat) (x : Engine) : (d.setEng k x).pnl = d.pnl := rfl
@[simp] theorem Dev.chn_setEng (k : Nat) (x : Engine) : (d.setEng k x).chn = d.chn := rfl
@[simp] theorem Dev.cfgCapture_setEng (k : Nat) (x : Engine) : (d.setEng k x).cfgCapture = d.cfgCapture := rfl
@[simp] theorem Dev.cycHigh_setEng (k : Nat) (x : Engine) : (d.setEng k x).cycHigh = d.cycHigh := rfl
@[simp] theorem Dev.txen_setEng (k : Nat) (x : Engine) : (d.setEng k x).txen = d.txen := rfl
@[simp] theorem Dev.freeCtr_setEng (k : Nat) (x : Engine) : (d.setEng k x).freeCtr = d.freeCtr := rfl

@[simp] theorem Dev.now_setMb (n : Nat) (x : Mbox) : (d.setMb n x).now = d.now := rfl
@[simp] theorem Dev.instT_setMb (n : Nat) (x : Mbox) : (d.setMb n x).instT = d.instT := rfl
@[simp] theorem Dev.fuses_setMb (n : Nat) (x : Mbox) : (d.setMb n x).fuses = d.fuses := rfl
@[simp] theorem Dev.inReset_setMb (n : Nat) (x : Mbox) : (d.setMb n x).inReset = d.inReset := rfl
@[simp] theorem Dev.resetPin_setMb (n : Nat) (x : Mbox) : (d.setMb n x).resetPin = d.resetPin := rfl
@[simp] theorem Dev.regs_setMb (n : Nat) (x : Mbox) : (d.setMb n x).regs = d.regs := rfl
@[simp] theorem Dev.act_setMb (n : Nat) (x : Mbox) : (d.setMb n x).act = d.act := rfl
@[simp] theorem Dev.inst_setMb (n : Nat) (x : Mbox) : (d.setMb n x).inst = d.inst := rfl
@[simp] theorem Dev.staged_setMb (n : Nat) (x : Mbox) : (d.setMb n x).staged = d.staged := rfl
@[simp] theorem Dev.bound_setMb (n : Nat) (x : Mbox) : (d.setMb n x).bound = d.bound := rfl
@[simp] theorem Dev.shadow_setMb (n : Nat) (x : Mbox) : (d.setMb n x).shadow = d.shadow := rfl
@[simp] theorem Dev.halves_setMb (n : Nat) (x : Mbox) : (d.setMb n x).halves = d.halves := rfl
@[simp] theorem Dev.locks_setMb (n : Nat) (x : Mbox) : (d.setMb n x).locks = d.locks := rfl
@[simp] theorem Dev.cmPend_setMb (n : Nat) (x : Mbox) : (d.setMb n x).cmPend = d.cmPend := rfl
@[simp] theorem Dev.resp_setMb (n : Nat) (x : Mbox) : (d.setMb n x).resp = d.resp := rfl
@[simp] theorem Dev.miso_setMb (n : Nat) (x : Mbox) : (d.setMb n x).miso = d.miso := rfl
@[simp] theorem Dev.i2cResp_setMb (n : Nat) (x : Mbox) : (d.setMb n x).i2cResp = d.i2cResp := rfl
@[simp] theorem Dev.pwr_setMb (n : Nat) (x : Mbox) : (d.setMb n x).pwr = d.pwr := rfl
@[simp] theorem Dev.modCnt_setMb (n : Nat) (x : Mbox) : (d.setMb n x).modCnt = d.modCnt := rfl
@[simp] theorem Dev.modOn_setMb (n : Nat) (x : Mbox) : (d.setMb n x).modOn = d.modOn := rfl
@[simp] theorem Dev.syncDue_setMb (n : Nat) (x : Mbox) : (d.setMb n x).syncDue = d.syncDue := rfl
@[simp] theorem Dev.frameSeq_setMb (n : Nat) (x : Mbox) : (d.setMb n x).frameSeq = d.frameSeq := rfl
@[simp] theorem Dev.cycN_setMb (n : Nat) (x : Mbox) : (d.setMb n x).cycN = d.cycN := rfl
@[simp] theorem Dev.cutoffPassed_setMb (n : Nat) (x : Mbox) : (d.setMb n x).cutoffPassed = d.cutoffPassed := rfl
@[simp] theorem Dev.cycMark_setMb (n : Nat) (x : Mbox) : (d.setMb n x).cycMark = d.cycMark := rfl
@[simp] theorem Dev.blkMark_setMb (n : Nat) (x : Mbox) : (d.setMb n x).blkMark = d.blkMark := rfl
@[simp] theorem Dev.secMark_setMb (n : Nat) (x : Mbox) : (d.setMb n x).secMark = d.secMark := rfl
@[simp] theorem Dev.swpMark_setMb (n : Nat) (x : Mbox) : (d.setMb n x).swpMark = d.swpMark := rfl
@[simp] theorem Dev.blkCount_setMb (n : Nat) (x : Mbox) : (d.setMb n x).blkCount = d.blkCount := rfl
@[simp] theorem Dev.escCycN_setMb (n : Nat) (x : Mbox) : (d.setMb n x).escCycN = d.escCycN := rfl
@[simp] theorem Dev.framesCyc_setMb (n : Nat) (x : Mbox) : (d.setMb n x).framesCyc = d.framesCyc := rfl
@[simp] theorem Dev.framesPrev_setMb (n : Nat) (x : Mbox) : (d.setMb n x).framesPrev = d.framesPrev := rfl
@[simp] theorem Dev.halfMark_setMb (n : Nat) (x : Mbox) : (d.setMb n x).halfMark = d.halfMark := rfl
@[simp] theorem Dev.chans_setMb (n : Nat) (x : Mbox) : (d.setMb n x).chans = d.chans := rfl
@[simp] theorem Dev.relief_setMb (n : Nat) (x : Mbox) : (d.setMb n x).relief = d.relief := rfl
@[simp] theorem Dev.slots_setMb (n : Nat) (x : Mbox) : (d.setMb n x).slots = d.slots := rfl
@[simp] theorem Dev.cal_setMb (n : Nat) (x : Mbox) : (d.setMb n x).cal = d.cal := rfl
@[simp] theorem Dev.calZeros_setMb (n : Nat) (x : Mbox) : (d.setMb n x).calZeros = d.calZeros := rfl
@[simp] theorem Dev.rcf_setMb (n : Nat) (x : Mbox) : (d.setMb n x).rcf = d.rcf := rfl
@[simp] theorem Dev.tcfTemp_setMb (n : Nat) (x : Mbox) : (d.setMb n x).tcfTemp = d.tcfTemp := rfl
@[simp] theorem Dev.qfreq_setMb (n : Nat) (x : Mbox) : (d.setMb n x).qfreq = d.qfreq := rfl
@[simp] theorem Dev.engines_setMb (n : Nat) (x : Mbox) : (d.setMb n x).engines = d.engines := rfl
@[simp] theorem Dev.er_setMb (n : Nat) (x : Mbox) : (d.setMb n x).er = d.er := rfl
@[simp] theorem Dev.roles_setMb (n : Nat) (x : Mbox) : (d.setMb n x).roles = d.roles := rfl
@[simp] theorem Dev.freeze_setMb (n : Nat) (x : Mbox) : (d.setMb n x).freeze = d.freeze := rfl
@[simp] theorem Dev.vBound_setMb (n : Nat) (x : Mbox) : (d.setMb n x).vBound = d.vBound := rfl
@[simp] theorem Dev.outs_setMb (n : Nat) (x : Mbox) : (d.setMb n x).outs = d.outs := rfl
@[simp] theorem Dev.groups_setMb (n : Nat) (x : Mbox) : (d.setMb n x).groups = d.groups := rfl
@[simp] theorem Dev.fll_setMb (n : Nat) (x : Mbox) : (d.setMb n x).fll = d.fll := rfl
@[simp] theorem Dev.harm_setMb (n : Nat) (x : Mbox) : (d.setMb n x).harm = d.harm := rfl
@[simp] theorem Dev.evt_setMb (n : Nat) (x : Mbox) : (d.setMb n x).evt = d.evt := rfl
@[simp] theorem Dev.aux_setMb (n : Nat) (x : Mbox) : (d.setMb n x).aux = d.aux := rfl
@[simp] theorem Dev.sup_setMb (n : Nat) (x : Mbox) : (d.setMb n x).sup = d.sup := rfl
@[simp] theorem Dev.sess_setMb (n : Nat) (x : Mbox) : (d.setMb n x).sess = d.sess := rfl
@[simp] theorem Dev.rtc_setMb (n : Nat) (x : Mbox) : (d.setMb n x).rtc = d.rtc := rfl
@[simp] theorem Dev.plc_setMb (n : Nat) (x : Mbox) : (d.setMb n x).plc = d.plc := rfl
@[simp] theorem Dev.pnl_setMb (n : Nat) (x : Mbox) : (d.setMb n x).pnl = d.pnl := rfl
@[simp] theorem Dev.chn_setMb (n : Nat) (x : Mbox) : (d.setMb n x).chn = d.chn := rfl
@[simp] theorem Dev.cfgCapture_setMb (n : Nat) (x : Mbox) : (d.setMb n x).cfgCapture = d.cfgCapture := rfl
@[simp] theorem Dev.cycHigh_setMb (n : Nat) (x : Mbox) : (d.setMb n x).cycHigh = d.cycHigh := rfl
@[simp] theorem Dev.txen_setMb (n : Nat) (x : Mbox) : (d.setMb n x).txen = d.txen := rfl
@[simp] theorem Dev.freeCtr_setMb (n : Nat) (x : Mbox) : (d.setMb n x).freeCtr = d.freeCtr := rfl

@[simp] theorem Dev.now_setOut (n : Nat) (x : PulseOut) : (d.setOut n x).now = d.now := rfl
@[simp] theorem Dev.instT_setOut (n : Nat) (x : PulseOut) : (d.setOut n x).instT = d.instT := rfl
@[simp] theorem Dev.fuses_setOut (n : Nat) (x : PulseOut) : (d.setOut n x).fuses = d.fuses := rfl
@[simp] theorem Dev.inReset_setOut (n : Nat) (x : PulseOut) : (d.setOut n x).inReset = d.inReset := rfl
@[simp] theorem Dev.resetPin_setOut (n : Nat) (x : PulseOut) : (d.setOut n x).resetPin = d.resetPin := rfl
@[simp] theorem Dev.regs_setOut (n : Nat) (x : PulseOut) : (d.setOut n x).regs = d.regs := rfl
@[simp] theorem Dev.act_setOut (n : Nat) (x : PulseOut) : (d.setOut n x).act = d.act := rfl
@[simp] theorem Dev.inst_setOut (n : Nat) (x : PulseOut) : (d.setOut n x).inst = d.inst := rfl
@[simp] theorem Dev.staged_setOut (n : Nat) (x : PulseOut) : (d.setOut n x).staged = d.staged := rfl
@[simp] theorem Dev.bound_setOut (n : Nat) (x : PulseOut) : (d.setOut n x).bound = d.bound := rfl
@[simp] theorem Dev.shadow_setOut (n : Nat) (x : PulseOut) : (d.setOut n x).shadow = d.shadow := rfl
@[simp] theorem Dev.halves_setOut (n : Nat) (x : PulseOut) : (d.setOut n x).halves = d.halves := rfl
@[simp] theorem Dev.locks_setOut (n : Nat) (x : PulseOut) : (d.setOut n x).locks = d.locks := rfl
@[simp] theorem Dev.cmPend_setOut (n : Nat) (x : PulseOut) : (d.setOut n x).cmPend = d.cmPend := rfl
@[simp] theorem Dev.resp_setOut (n : Nat) (x : PulseOut) : (d.setOut n x).resp = d.resp := rfl
@[simp] theorem Dev.miso_setOut (n : Nat) (x : PulseOut) : (d.setOut n x).miso = d.miso := rfl
@[simp] theorem Dev.i2cResp_setOut (n : Nat) (x : PulseOut) : (d.setOut n x).i2cResp = d.i2cResp := rfl
@[simp] theorem Dev.pwr_setOut (n : Nat) (x : PulseOut) : (d.setOut n x).pwr = d.pwr := rfl
@[simp] theorem Dev.modCnt_setOut (n : Nat) (x : PulseOut) : (d.setOut n x).modCnt = d.modCnt := rfl
@[simp] theorem Dev.modOn_setOut (n : Nat) (x : PulseOut) : (d.setOut n x).modOn = d.modOn := rfl
@[simp] theorem Dev.syncDue_setOut (n : Nat) (x : PulseOut) : (d.setOut n x).syncDue = d.syncDue := rfl
@[simp] theorem Dev.frameSeq_setOut (n : Nat) (x : PulseOut) : (d.setOut n x).frameSeq = d.frameSeq := rfl
@[simp] theorem Dev.cycN_setOut (n : Nat) (x : PulseOut) : (d.setOut n x).cycN = d.cycN := rfl
@[simp] theorem Dev.cutoffPassed_setOut (n : Nat) (x : PulseOut) : (d.setOut n x).cutoffPassed = d.cutoffPassed := rfl
@[simp] theorem Dev.cycMark_setOut (n : Nat) (x : PulseOut) : (d.setOut n x).cycMark = d.cycMark := rfl
@[simp] theorem Dev.blkMark_setOut (n : Nat) (x : PulseOut) : (d.setOut n x).blkMark = d.blkMark := rfl
@[simp] theorem Dev.secMark_setOut (n : Nat) (x : PulseOut) : (d.setOut n x).secMark = d.secMark := rfl
@[simp] theorem Dev.swpMark_setOut (n : Nat) (x : PulseOut) : (d.setOut n x).swpMark = d.swpMark := rfl
@[simp] theorem Dev.blkCount_setOut (n : Nat) (x : PulseOut) : (d.setOut n x).blkCount = d.blkCount := rfl
@[simp] theorem Dev.escCycN_setOut (n : Nat) (x : PulseOut) : (d.setOut n x).escCycN = d.escCycN := rfl
@[simp] theorem Dev.framesCyc_setOut (n : Nat) (x : PulseOut) : (d.setOut n x).framesCyc = d.framesCyc := rfl
@[simp] theorem Dev.framesPrev_setOut (n : Nat) (x : PulseOut) : (d.setOut n x).framesPrev = d.framesPrev := rfl
@[simp] theorem Dev.halfMark_setOut (n : Nat) (x : PulseOut) : (d.setOut n x).halfMark = d.halfMark := rfl
@[simp] theorem Dev.chans_setOut (n : Nat) (x : PulseOut) : (d.setOut n x).chans = d.chans := rfl
@[simp] theorem Dev.relief_setOut (n : Nat) (x : PulseOut) : (d.setOut n x).relief = d.relief := rfl
@[simp] theorem Dev.slots_setOut (n : Nat) (x : PulseOut) : (d.setOut n x).slots = d.slots := rfl
@[simp] theorem Dev.cal_setOut (n : Nat) (x : PulseOut) : (d.setOut n x).cal = d.cal := rfl
@[simp] theorem Dev.calZeros_setOut (n : Nat) (x : PulseOut) : (d.setOut n x).calZeros = d.calZeros := rfl
@[simp] theorem Dev.rcf_setOut (n : Nat) (x : PulseOut) : (d.setOut n x).rcf = d.rcf := rfl
@[simp] theorem Dev.tcfTemp_setOut (n : Nat) (x : PulseOut) : (d.setOut n x).tcfTemp = d.tcfTemp := rfl
@[simp] theorem Dev.qfreq_setOut (n : Nat) (x : PulseOut) : (d.setOut n x).qfreq = d.qfreq := rfl
@[simp] theorem Dev.engines_setOut (n : Nat) (x : PulseOut) : (d.setOut n x).engines = d.engines := rfl
@[simp] theorem Dev.er_setOut (n : Nat) (x : PulseOut) : (d.setOut n x).er = d.er := rfl
@[simp] theorem Dev.roles_setOut (n : Nat) (x : PulseOut) : (d.setOut n x).roles = d.roles := rfl
@[simp] theorem Dev.freeze_setOut (n : Nat) (x : PulseOut) : (d.setOut n x).freeze = d.freeze := rfl
@[simp] theorem Dev.vBound_setOut (n : Nat) (x : PulseOut) : (d.setOut n x).vBound = d.vBound := rfl
@[simp] theorem Dev.groups_setOut (n : Nat) (x : PulseOut) : (d.setOut n x).groups = d.groups := rfl
@[simp] theorem Dev.fll_setOut (n : Nat) (x : PulseOut) : (d.setOut n x).fll = d.fll := rfl
@[simp] theorem Dev.harm_setOut (n : Nat) (x : PulseOut) : (d.setOut n x).harm = d.harm := rfl
@[simp] theorem Dev.evt_setOut (n : Nat) (x : PulseOut) : (d.setOut n x).evt = d.evt := rfl
@[simp] theorem Dev.aux_setOut (n : Nat) (x : PulseOut) : (d.setOut n x).aux = d.aux := rfl
@[simp] theorem Dev.mbox_setOut (n : Nat) (x : PulseOut) : (d.setOut n x).mbox = d.mbox := rfl
@[simp] theorem Dev.sup_setOut (n : Nat) (x : PulseOut) : (d.setOut n x).sup = d.sup := rfl
@[simp] theorem Dev.sess_setOut (n : Nat) (x : PulseOut) : (d.setOut n x).sess = d.sess := rfl
@[simp] theorem Dev.rtc_setOut (n : Nat) (x : PulseOut) : (d.setOut n x).rtc = d.rtc := rfl
@[simp] theorem Dev.plc_setOut (n : Nat) (x : PulseOut) : (d.setOut n x).plc = d.plc := rfl
@[simp] theorem Dev.pnl_setOut (n : Nat) (x : PulseOut) : (d.setOut n x).pnl = d.pnl := rfl
@[simp] theorem Dev.chn_setOut (n : Nat) (x : PulseOut) : (d.setOut n x).chn = d.chn := rfl
@[simp] theorem Dev.cfgCapture_setOut (n : Nat) (x : PulseOut) : (d.setOut n x).cfgCapture = d.cfgCapture := rfl
@[simp] theorem Dev.cycHigh_setOut (n : Nat) (x : PulseOut) : (d.setOut n x).cycHigh = d.cycHigh := rfl
@[simp] theorem Dev.txen_setOut (n : Nat) (x : PulseOut) : (d.setOut n x).txen = d.txen := rfl
@[simp] theorem Dev.freeCtr_setOut (n : Nat) (x : PulseOut) : (d.setOut n x).freeCtr = d.freeCtr := rfl

@[simp] theorem Dev.now_setGroup (g : Nat) (x : Group) : (d.setGroup g x).now = d.now := rfl
@[simp] theorem Dev.instT_setGroup (g : Nat) (x : Group) : (d.setGroup g x).instT = d.instT := rfl
@[simp] theorem Dev.fuses_setGroup (g : Nat) (x : Group) : (d.setGroup g x).fuses = d.fuses := rfl
@[simp] theorem Dev.inReset_setGroup (g : Nat) (x : Group) : (d.setGroup g x).inReset = d.inReset := rfl
@[simp] theorem Dev.resetPin_setGroup (g : Nat) (x : Group) : (d.setGroup g x).resetPin = d.resetPin := rfl
@[simp] theorem Dev.regs_setGroup (g : Nat) (x : Group) : (d.setGroup g x).regs = d.regs := rfl
@[simp] theorem Dev.act_setGroup (g : Nat) (x : Group) : (d.setGroup g x).act = d.act := rfl
@[simp] theorem Dev.inst_setGroup (g : Nat) (x : Group) : (d.setGroup g x).inst = d.inst := rfl
@[simp] theorem Dev.staged_setGroup (g : Nat) (x : Group) : (d.setGroup g x).staged = d.staged := rfl
@[simp] theorem Dev.bound_setGroup (g : Nat) (x : Group) : (d.setGroup g x).bound = d.bound := rfl
@[simp] theorem Dev.shadow_setGroup (g : Nat) (x : Group) : (d.setGroup g x).shadow = d.shadow := rfl
@[simp] theorem Dev.halves_setGroup (g : Nat) (x : Group) : (d.setGroup g x).halves = d.halves := rfl
@[simp] theorem Dev.locks_setGroup (g : Nat) (x : Group) : (d.setGroup g x).locks = d.locks := rfl
@[simp] theorem Dev.cmPend_setGroup (g : Nat) (x : Group) : (d.setGroup g x).cmPend = d.cmPend := rfl
@[simp] theorem Dev.resp_setGroup (g : Nat) (x : Group) : (d.setGroup g x).resp = d.resp := rfl
@[simp] theorem Dev.miso_setGroup (g : Nat) (x : Group) : (d.setGroup g x).miso = d.miso := rfl
@[simp] theorem Dev.i2cResp_setGroup (g : Nat) (x : Group) : (d.setGroup g x).i2cResp = d.i2cResp := rfl
@[simp] theorem Dev.pwr_setGroup (g : Nat) (x : Group) : (d.setGroup g x).pwr = d.pwr := rfl
@[simp] theorem Dev.modCnt_setGroup (g : Nat) (x : Group) : (d.setGroup g x).modCnt = d.modCnt := rfl
@[simp] theorem Dev.modOn_setGroup (g : Nat) (x : Group) : (d.setGroup g x).modOn = d.modOn := rfl
@[simp] theorem Dev.syncDue_setGroup (g : Nat) (x : Group) : (d.setGroup g x).syncDue = d.syncDue := rfl
@[simp] theorem Dev.frameSeq_setGroup (g : Nat) (x : Group) : (d.setGroup g x).frameSeq = d.frameSeq := rfl
@[simp] theorem Dev.cycN_setGroup (g : Nat) (x : Group) : (d.setGroup g x).cycN = d.cycN := rfl
@[simp] theorem Dev.cutoffPassed_setGroup (g : Nat) (x : Group) : (d.setGroup g x).cutoffPassed = d.cutoffPassed := rfl
@[simp] theorem Dev.cycMark_setGroup (g : Nat) (x : Group) : (d.setGroup g x).cycMark = d.cycMark := rfl
@[simp] theorem Dev.blkMark_setGroup (g : Nat) (x : Group) : (d.setGroup g x).blkMark = d.blkMark := rfl
@[simp] theorem Dev.secMark_setGroup (g : Nat) (x : Group) : (d.setGroup g x).secMark = d.secMark := rfl
@[simp] theorem Dev.swpMark_setGroup (g : Nat) (x : Group) : (d.setGroup g x).swpMark = d.swpMark := rfl
@[simp] theorem Dev.blkCount_setGroup (g : Nat) (x : Group) : (d.setGroup g x).blkCount = d.blkCount := rfl
@[simp] theorem Dev.escCycN_setGroup (g : Nat) (x : Group) : (d.setGroup g x).escCycN = d.escCycN := rfl
@[simp] theorem Dev.framesCyc_setGroup (g : Nat) (x : Group) : (d.setGroup g x).framesCyc = d.framesCyc := rfl
@[simp] theorem Dev.framesPrev_setGroup (g : Nat) (x : Group) : (d.setGroup g x).framesPrev = d.framesPrev := rfl
@[simp] theorem Dev.halfMark_setGroup (g : Nat) (x : Group) : (d.setGroup g x).halfMark = d.halfMark := rfl
@[simp] theorem Dev.chans_setGroup (g : Nat) (x : Group) : (d.setGroup g x).chans = d.chans := rfl
@[simp] theorem Dev.relief_setGroup (g : Nat) (x : Group) : (d.setGroup g x).relief = d.relief := rfl
@[simp] theorem Dev.slots_setGroup (g : Nat) (x : Group) : (d.setGroup g x).slots = d.slots := rfl
@[simp] theorem Dev.cal_setGroup (g : Nat) (x : Group) : (d.setGroup g x).cal = d.cal := rfl
@[simp] theorem Dev.calZeros_setGroup (g : Nat) (x : Group) : (d.setGroup g x).calZeros = d.calZeros := rfl
@[simp] theorem Dev.rcf_setGroup (g : Nat) (x : Group) : (d.setGroup g x).rcf = d.rcf := rfl
@[simp] theorem Dev.tcfTemp_setGroup (g : Nat) (x : Group) : (d.setGroup g x).tcfTemp = d.tcfTemp := rfl
@[simp] theorem Dev.qfreq_setGroup (g : Nat) (x : Group) : (d.setGroup g x).qfreq = d.qfreq := rfl
@[simp] theorem Dev.engines_setGroup (g : Nat) (x : Group) : (d.setGroup g x).engines = d.engines := rfl
@[simp] theorem Dev.er_setGroup (g : Nat) (x : Group) : (d.setGroup g x).er = d.er := rfl
@[simp] theorem Dev.roles_setGroup (g : Nat) (x : Group) : (d.setGroup g x).roles = d.roles := rfl
@[simp] theorem Dev.freeze_setGroup (g : Nat) (x : Group) : (d.setGroup g x).freeze = d.freeze := rfl
@[simp] theorem Dev.vBound_setGroup (g : Nat) (x : Group) : (d.setGroup g x).vBound = d.vBound := rfl
@[simp] theorem Dev.outs_setGroup (g : Nat) (x : Group) : (d.setGroup g x).outs = d.outs := rfl
@[simp] theorem Dev.fll_setGroup (g : Nat) (x : Group) : (d.setGroup g x).fll = d.fll := rfl
@[simp] theorem Dev.harm_setGroup (g : Nat) (x : Group) : (d.setGroup g x).harm = d.harm := rfl
@[simp] theorem Dev.evt_setGroup (g : Nat) (x : Group) : (d.setGroup g x).evt = d.evt := rfl
@[simp] theorem Dev.aux_setGroup (g : Nat) (x : Group) : (d.setGroup g x).aux = d.aux := rfl
@[simp] theorem Dev.mbox_setGroup (g : Nat) (x : Group) : (d.setGroup g x).mbox = d.mbox := rfl
@[simp] theorem Dev.sup_setGroup (g : Nat) (x : Group) : (d.setGroup g x).sup = d.sup := rfl
@[simp] theorem Dev.sess_setGroup (g : Nat) (x : Group) : (d.setGroup g x).sess = d.sess := rfl
@[simp] theorem Dev.rtc_setGroup (g : Nat) (x : Group) : (d.setGroup g x).rtc = d.rtc := rfl
@[simp] theorem Dev.plc_setGroup (g : Nat) (x : Group) : (d.setGroup g x).plc = d.plc := rfl
@[simp] theorem Dev.pnl_setGroup (g : Nat) (x : Group) : (d.setGroup g x).pnl = d.pnl := rfl
@[simp] theorem Dev.chn_setGroup (g : Nat) (x : Group) : (d.setGroup g x).chn = d.chn := rfl
@[simp] theorem Dev.cfgCapture_setGroup (g : Nat) (x : Group) : (d.setGroup g x).cfgCapture = d.cfgCapture := rfl
@[simp] theorem Dev.cycHigh_setGroup (g : Nat) (x : Group) : (d.setGroup g x).cycHigh = d.cycHigh := rfl
@[simp] theorem Dev.txen_setGroup (g : Nat) (x : Group) : (d.setGroup g x).txen = d.txen := rfl
@[simp] theorem Dev.freeCtr_setGroup (g : Nat) (x : Group) : (d.setGroup g x).freeCtr = d.freeCtr := rfl

@[simp] theorem Dev.now_setAux (x : Aux) : (d.setAux x).now = d.now := rfl
@[simp] theorem Dev.instT_setAux (x : Aux) : (d.setAux x).instT = d.instT := rfl
@[simp] theorem Dev.fuses_setAux (x : Aux) : (d.setAux x).fuses = d.fuses := rfl
@[simp] theorem Dev.inReset_setAux (x : Aux) : (d.setAux x).inReset = d.inReset := rfl
@[simp] theorem Dev.resetPin_setAux (x : Aux) : (d.setAux x).resetPin = d.resetPin := rfl
@[simp] theorem Dev.regs_setAux (x : Aux) : (d.setAux x).regs = d.regs := rfl
@[simp] theorem Dev.act_setAux (x : Aux) : (d.setAux x).act = d.act := rfl
@[simp] theorem Dev.inst_setAux (x : Aux) : (d.setAux x).inst = d.inst := rfl
@[simp] theorem Dev.staged_setAux (x : Aux) : (d.setAux x).staged = d.staged := rfl
@[simp] theorem Dev.bound_setAux (x : Aux) : (d.setAux x).bound = d.bound := rfl
@[simp] theorem Dev.shadow_setAux (x : Aux) : (d.setAux x).shadow = d.shadow := rfl
@[simp] theorem Dev.halves_setAux (x : Aux) : (d.setAux x).halves = d.halves := rfl
@[simp] theorem Dev.locks_setAux (x : Aux) : (d.setAux x).locks = d.locks := rfl
@[simp] theorem Dev.cmPend_setAux (x : Aux) : (d.setAux x).cmPend = d.cmPend := rfl
@[simp] theorem Dev.resp_setAux (x : Aux) : (d.setAux x).resp = d.resp := rfl
@[simp] theorem Dev.miso_setAux (x : Aux) : (d.setAux x).miso = d.miso := rfl
@[simp] theorem Dev.i2cResp_setAux (x : Aux) : (d.setAux x).i2cResp = d.i2cResp := rfl
@[simp] theorem Dev.pwr_setAux (x : Aux) : (d.setAux x).pwr = d.pwr := rfl
@[simp] theorem Dev.modCnt_setAux (x : Aux) : (d.setAux x).modCnt = d.modCnt := rfl
@[simp] theorem Dev.modOn_setAux (x : Aux) : (d.setAux x).modOn = d.modOn := rfl
@[simp] theorem Dev.syncDue_setAux (x : Aux) : (d.setAux x).syncDue = d.syncDue := rfl
@[simp] theorem Dev.frameSeq_setAux (x : Aux) : (d.setAux x).frameSeq = d.frameSeq := rfl
@[simp] theorem Dev.cycN_setAux (x : Aux) : (d.setAux x).cycN = d.cycN := rfl
@[simp] theorem Dev.cutoffPassed_setAux (x : Aux) : (d.setAux x).cutoffPassed = d.cutoffPassed := rfl
@[simp] theorem Dev.cycMark_setAux (x : Aux) : (d.setAux x).cycMark = d.cycMark := rfl
@[simp] theorem Dev.blkMark_setAux (x : Aux) : (d.setAux x).blkMark = d.blkMark := rfl
@[simp] theorem Dev.secMark_setAux (x : Aux) : (d.setAux x).secMark = d.secMark := rfl
@[simp] theorem Dev.swpMark_setAux (x : Aux) : (d.setAux x).swpMark = d.swpMark := rfl
@[simp] theorem Dev.blkCount_setAux (x : Aux) : (d.setAux x).blkCount = d.blkCount := rfl
@[simp] theorem Dev.escCycN_setAux (x : Aux) : (d.setAux x).escCycN = d.escCycN := rfl
@[simp] theorem Dev.framesCyc_setAux (x : Aux) : (d.setAux x).framesCyc = d.framesCyc := rfl
@[simp] theorem Dev.framesPrev_setAux (x : Aux) : (d.setAux x).framesPrev = d.framesPrev := rfl
@[simp] theorem Dev.halfMark_setAux (x : Aux) : (d.setAux x).halfMark = d.halfMark := rfl
@[simp] theorem Dev.chans_setAux (x : Aux) : (d.setAux x).chans = d.chans := rfl
@[simp] theorem Dev.relief_setAux (x : Aux) : (d.setAux x).relief = d.relief := rfl
@[simp] theorem Dev.slots_setAux (x : Aux) : (d.setAux x).slots = d.slots := rfl
@[simp] theorem Dev.cal_setAux (x : Aux) : (d.setAux x).cal = d.cal := rfl
@[simp] theorem Dev.calZeros_setAux (x : Aux) : (d.setAux x).calZeros = d.calZeros := rfl
@[simp] theorem Dev.rcf_setAux (x : Aux) : (d.setAux x).rcf = d.rcf := rfl
@[simp] theorem Dev.tcfTemp_setAux (x : Aux) : (d.setAux x).tcfTemp = d.tcfTemp := rfl
@[simp] theorem Dev.qfreq_setAux (x : Aux) : (d.setAux x).qfreq = d.qfreq := rfl
@[simp] theorem Dev.engines_setAux (x : Aux) : (d.setAux x).engines = d.engines := rfl
@[simp] theorem Dev.er_setAux (x : Aux) : (d.setAux x).er = d.er := rfl
@[simp] theorem Dev.roles_setAux (x : Aux) : (d.setAux x).roles = d.roles := rfl
@[simp] theorem Dev.freeze_setAux (x : Aux) : (d.setAux x).freeze = d.freeze := rfl
@[simp] theorem Dev.vBound_setAux (x : Aux) : (d.setAux x).vBound = d.vBound := rfl
@[simp] theorem Dev.outs_setAux (x : Aux) : (d.setAux x).outs = d.outs := rfl
@[simp] theorem Dev.groups_setAux (x : Aux) : (d.setAux x).groups = d.groups := rfl
@[simp] theorem Dev.fll_setAux (x : Aux) : (d.setAux x).fll = d.fll := rfl
@[simp] theorem Dev.harm_setAux (x : Aux) : (d.setAux x).harm = d.harm := rfl
@[simp] theorem Dev.evt_setAux (x : Aux) : (d.setAux x).evt = d.evt := rfl
@[simp] theorem Dev.mbox_setAux (x : Aux) : (d.setAux x).mbox = d.mbox := rfl
@[simp] theorem Dev.sup_setAux (x : Aux) : (d.setAux x).sup = d.sup := rfl
@[simp] theorem Dev.sess_setAux (x : Aux) : (d.setAux x).sess = d.sess := rfl
@[simp] theorem Dev.rtc_setAux (x : Aux) : (d.setAux x).rtc = d.rtc := rfl
@[simp] theorem Dev.plc_setAux (x : Aux) : (d.setAux x).plc = d.plc := rfl
@[simp] theorem Dev.pnl_setAux (x : Aux) : (d.setAux x).pnl = d.pnl := rfl
@[simp] theorem Dev.chn_setAux (x : Aux) : (d.setAux x).chn = d.chn := rfl
@[simp] theorem Dev.cfgCapture_setAux (x : Aux) : (d.setAux x).cfgCapture = d.cfgCapture := rfl
@[simp] theorem Dev.cycHigh_setAux (x : Aux) : (d.setAux x).cycHigh = d.cycHigh := rfl
@[simp] theorem Dev.txen_setAux (x : Aux) : (d.setAux x).txen = d.txen := rfl
@[simp] theorem Dev.freeCtr_setAux (x : Aux) : (d.setAux x).freeCtr = d.freeCtr := rfl

@[simp] theorem Dev.now_modUnit (u : Nat) (f : Relief → Relief) : (d.modUnit u f).now = d.now := rfl
@[simp] theorem Dev.instT_modUnit (u : Nat) (f : Relief → Relief) : (d.modUnit u f).instT = d.instT := rfl
@[simp] theorem Dev.fuses_modUnit (u : Nat) (f : Relief → Relief) : (d.modUnit u f).fuses = d.fuses := rfl
@[simp] theorem Dev.inReset_modUnit (u : Nat) (f : Relief → Relief) : (d.modUnit u f).inReset = d.inReset := rfl
@[simp] theorem Dev.resetPin_modUnit (u : Nat) (f : Relief → Relief) : (d.modUnit u f).resetPin = d.resetPin := rfl
@[simp] theorem Dev.regs_modUnit (u : Nat) (f : Relief → Relief) : (d.modUnit u f).regs = d.regs := rfl
@[simp] theorem Dev.act_modUnit (u : Nat) (f : Relief → Relief) : (d.modUnit u f).act = d.act := rfl
@[simp] theorem Dev.inst_modUnit (u : Nat) (f : Relief → Relief) : (d.modUnit u f).inst = d.inst := rfl
@[simp] theorem Dev.staged_modUnit (u : Nat) (f : Relief → Relief) : (d.modUnit u f).staged = d.staged := rfl
@[simp] theorem Dev.bound_modUnit (u : Nat) (f : Relief → Relief) : (d.modUnit u f).bound = d.bound := rfl
@[simp] theorem Dev.shadow_modUnit (u : Nat) (f : Relief → Relief) : (d.modUnit u f).shadow = d.shadow := rfl
@[simp] theorem Dev.halves_modUnit (u : Nat) (f : Relief → Relief) : (d.modUnit u f).halves = d.halves := rfl
@[simp] theorem Dev.locks_modUnit (u : Nat) (f : Relief → Relief) : (d.modUnit u f).locks = d.locks := rfl
@[simp] theorem Dev.cmPend_modUnit (u : Nat) (f : Relief → Relief) : (d.modUnit u f).cmPend = d.cmPend := rfl
@[simp] theorem Dev.resp_modUnit (u : Nat) (f : Relief → Relief) : (d.modUnit u f).resp = d.resp := rfl
@[simp] theorem Dev.miso_modUnit (u : Nat) (f : Relief → Relief) : (d.modUnit u f).miso = d.miso := rfl
@[simp] theorem Dev.i2cResp_modUnit (u : Nat) (f : Relief → Relief) : (d.modUnit u f).i2cResp = d.i2cResp := rfl
@[simp] theorem Dev.pwr_modUnit (u : Nat) (f : Relief → Relief) : (d.modUnit u f).pwr = d.pwr := rfl
@[simp] theorem Dev.modCnt_modUnit (u : Nat) (f : Relief → Relief) : (d.modUnit u f).modCnt = d.modCnt := rfl
@[simp] theorem Dev.modOn_modUnit (u : Nat) (f : Relief → Relief) : (d.modUnit u f).modOn = d.modOn := rfl
@[simp] theorem Dev.syncDue_modUnit (u : Nat) (f : Relief → Relief) : (d.modUnit u f).syncDue = d.syncDue := rfl
@[simp] theorem Dev.frameSeq_modUnit (u : Nat) (f : Relief → Relief) : (d.modUnit u f).frameSeq = d.frameSeq := rfl
@[simp] theorem Dev.cycN_modUnit (u : Nat) (f : Relief → Relief) : (d.modUnit u f).cycN = d.cycN := rfl
@[simp] theorem Dev.cutoffPassed_modUnit (u : Nat) (f : Relief → Relief) : (d.modUnit u f).cutoffPassed = d.cutoffPassed := rfl
@[simp] theorem Dev.cycMark_modUnit (u : Nat) (f : Relief → Relief) : (d.modUnit u f).cycMark = d.cycMark := rfl
@[simp] theorem Dev.blkMark_modUnit (u : Nat) (f : Relief → Relief) : (d.modUnit u f).blkMark = d.blkMark := rfl
@[simp] theorem Dev.secMark_modUnit (u : Nat) (f : Relief → Relief) : (d.modUnit u f).secMark = d.secMark := rfl
@[simp] theorem Dev.swpMark_modUnit (u : Nat) (f : Relief → Relief) : (d.modUnit u f).swpMark = d.swpMark := rfl
@[simp] theorem Dev.blkCount_modUnit (u : Nat) (f : Relief → Relief) : (d.modUnit u f).blkCount = d.blkCount := rfl
@[simp] theorem Dev.escCycN_modUnit (u : Nat) (f : Relief → Relief) : (d.modUnit u f).escCycN = d.escCycN := rfl
@[simp] theorem Dev.framesCyc_modUnit (u : Nat) (f : Relief → Relief) : (d.modUnit u f).framesCyc = d.framesCyc := rfl
@[simp] theorem Dev.framesPrev_modUnit (u : Nat) (f : Relief → Relief) : (d.modUnit u f).framesPrev = d.framesPrev := rfl
@[simp] theorem Dev.halfMark_modUnit (u : Nat) (f : Relief → Relief) : (d.modUnit u f).halfMark = d.halfMark := rfl
@[simp] theorem Dev.chans_modUnit (u : Nat) (f : Relief → Relief) : (d.modUnit u f).chans = d.chans := rfl
@[simp] theorem Dev.slots_modUnit (u : Nat) (f : Relief → Relief) : (d.modUnit u f).slots = d.slots := rfl
@[simp] theorem Dev.cal_modUnit (u : Nat) (f : Relief → Relief) : (d.modUnit u f).cal = d.cal := rfl
@[simp] theorem Dev.calZeros_modUnit (u : Nat) (f : Relief → Relief) : (d.modUnit u f).calZeros = d.calZeros := rfl
@[simp] theorem Dev.rcf_modUnit (u : Nat) (f : Relief → Relief) : (d.modUnit u f).rcf = d.rcf := rfl
@[simp] theorem Dev.tcfTemp_modUnit (u : Nat) (f : Relief → Relief) : (d.modUnit u f).tcfTemp = d.tcfTemp := rfl
@[simp] theorem Dev.qfreq_modUnit (u : Nat) (f : Relief → Relief) : (d.modUnit u f).qfreq = d.qfreq := rfl
@[simp] theorem Dev.engines_modUnit (u : Nat) (f : Relief → Relief) : (d.modUnit u f).engines = d.engines := rfl
@[simp] theorem Dev.er_modUnit (u : Nat) (f : Relief → Relief) : (d.modUnit u f).er = d.er := rfl
@[simp] theorem Dev.roles_modUnit (u : Nat) (f : Relief → Relief) : (d.modUnit u f).roles = d.roles := rfl
@[simp] theorem Dev.freeze_modUnit (u : Nat) (f : Relief → Relief) : (d.modUnit u f).freeze = d.freeze := rfl
@[simp] theorem Dev.vBound_modUnit (u : Nat) (f : Relief → Relief) : (d.modUnit u f).vBound = d.vBound := rfl
@[simp] theorem Dev.outs_modUnit (u : Nat) (f : Relief → Relief) : (d.modUnit u f).outs = d.outs := rfl
@[simp] theorem Dev.groups_modUnit (u : Nat) (f : Relief → Relief) : (d.modUnit u f).groups = d.groups := rfl
@[simp] theorem Dev.fll_modUnit (u : Nat) (f : Relief → Relief) : (d.modUnit u f).fll = d.fll := rfl
@[simp] theorem Dev.harm_modUnit (u : Nat) (f : Relief → Relief) : (d.modUnit u f).harm = d.harm := rfl
@[simp] theorem Dev.evt_modUnit (u : Nat) (f : Relief → Relief) : (d.modUnit u f).evt = d.evt := rfl
@[simp] theorem Dev.aux_modUnit (u : Nat) (f : Relief → Relief) : (d.modUnit u f).aux = d.aux := rfl
@[simp] theorem Dev.mbox_modUnit (u : Nat) (f : Relief → Relief) : (d.modUnit u f).mbox = d.mbox := rfl
@[simp] theorem Dev.sup_modUnit (u : Nat) (f : Relief → Relief) : (d.modUnit u f).sup = d.sup := rfl
@[simp] theorem Dev.sess_modUnit (u : Nat) (f : Relief → Relief) : (d.modUnit u f).sess = d.sess := rfl
@[simp] theorem Dev.rtc_modUnit (u : Nat) (f : Relief → Relief) : (d.modUnit u f).rtc = d.rtc := rfl
@[simp] theorem Dev.plc_modUnit (u : Nat) (f : Relief → Relief) : (d.modUnit u f).plc = d.plc := rfl
@[simp] theorem Dev.pnl_modUnit (u : Nat) (f : Relief → Relief) : (d.modUnit u f).pnl = d.pnl := rfl
@[simp] theorem Dev.chn_modUnit (u : Nat) (f : Relief → Relief) : (d.modUnit u f).chn = d.chn := rfl
@[simp] theorem Dev.cfgCapture_modUnit (u : Nat) (f : Relief → Relief) : (d.modUnit u f).cfgCapture = d.cfgCapture := rfl
@[simp] theorem Dev.cycHigh_modUnit (u : Nat) (f : Relief → Relief) : (d.modUnit u f).cycHigh = d.cycHigh := rfl
@[simp] theorem Dev.txen_modUnit (u : Nat) (f : Relief → Relief) : (d.modUnit u f).txen = d.txen := rfl
@[simp] theorem Dev.freeCtr_modUnit (u : Nat) (f : Relief → Relief) : (d.modUnit u f).freeCtr = d.freeCtr := rfl

@[simp] theorem Dev.now_modSup (f : Sup → Sup) : (d.modSup f).now = d.now := rfl
@[simp] theorem Dev.instT_modSup (f : Sup → Sup) : (d.modSup f).instT = d.instT := rfl
@[simp] theorem Dev.fuses_modSup (f : Sup → Sup) : (d.modSup f).fuses = d.fuses := rfl
@[simp] theorem Dev.inReset_modSup (f : Sup → Sup) : (d.modSup f).inReset = d.inReset := rfl
@[simp] theorem Dev.resetPin_modSup (f : Sup → Sup) : (d.modSup f).resetPin = d.resetPin := rfl
@[simp] theorem Dev.regs_modSup (f : Sup → Sup) : (d.modSup f).regs = d.regs := rfl
@[simp] theorem Dev.act_modSup (f : Sup → Sup) : (d.modSup f).act = d.act := rfl
@[simp] theorem Dev.inst_modSup (f : Sup → Sup) : (d.modSup f).inst = d.inst := rfl
@[simp] theorem Dev.staged_modSup (f : Sup → Sup) : (d.modSup f).staged = d.staged := rfl
@[simp] theorem Dev.bound_modSup (f : Sup → Sup) : (d.modSup f).bound = d.bound := rfl
@[simp] theorem Dev.shadow_modSup (f : Sup → Sup) : (d.modSup f).shadow = d.shadow := rfl
@[simp] theorem Dev.halves_modSup (f : Sup → Sup) : (d.modSup f).halves = d.halves := rfl
@[simp] theorem Dev.locks_modSup (f : Sup → Sup) : (d.modSup f).locks = d.locks := rfl
@[simp] theorem Dev.cmPend_modSup (f : Sup → Sup) : (d.modSup f).cmPend = d.cmPend := rfl
@[simp] theorem Dev.resp_modSup (f : Sup → Sup) : (d.modSup f).resp = d.resp := rfl
@[simp] theorem Dev.miso_modSup (f : Sup → Sup) : (d.modSup f).miso = d.miso := rfl
@[simp] theorem Dev.i2cResp_modSup (f : Sup → Sup) : (d.modSup f).i2cResp = d.i2cResp := rfl
@[simp] theorem Dev.pwr_modSup (f : Sup → Sup) : (d.modSup f).pwr = d.pwr := rfl
@[simp] theorem Dev.modCnt_modSup (f : Sup → Sup) : (d.modSup f).modCnt = d.modCnt := rfl
@[simp] theorem Dev.modOn_modSup (f : Sup → Sup) : (d.modSup f).modOn = d.modOn := rfl
@[simp] theorem Dev.syncDue_modSup (f : Sup → Sup) : (d.modSup f).syncDue = d.syncDue := rfl
@[simp] theorem Dev.frameSeq_modSup (f : Sup → Sup) : (d.modSup f).frameSeq = d.frameSeq := rfl
@[simp] theorem Dev.cycN_modSup (f : Sup → Sup) : (d.modSup f).cycN = d.cycN := rfl
@[simp] theorem Dev.cutoffPassed_modSup (f : Sup → Sup) : (d.modSup f).cutoffPassed = d.cutoffPassed := rfl
@[simp] theorem Dev.cycMark_modSup (f : Sup → Sup) : (d.modSup f).cycMark = d.cycMark := rfl
@[simp] theorem Dev.blkMark_modSup (f : Sup → Sup) : (d.modSup f).blkMark = d.blkMark := rfl
@[simp] theorem Dev.secMark_modSup (f : Sup → Sup) : (d.modSup f).secMark = d.secMark := rfl
@[simp] theorem Dev.swpMark_modSup (f : Sup → Sup) : (d.modSup f).swpMark = d.swpMark := rfl
@[simp] theorem Dev.blkCount_modSup (f : Sup → Sup) : (d.modSup f).blkCount = d.blkCount := rfl
@[simp] theorem Dev.escCycN_modSup (f : Sup → Sup) : (d.modSup f).escCycN = d.escCycN := rfl
@[simp] theorem Dev.framesCyc_modSup (f : Sup → Sup) : (d.modSup f).framesCyc = d.framesCyc := rfl
@[simp] theorem Dev.framesPrev_modSup (f : Sup → Sup) : (d.modSup f).framesPrev = d.framesPrev := rfl
@[simp] theorem Dev.halfMark_modSup (f : Sup → Sup) : (d.modSup f).halfMark = d.halfMark := rfl
@[simp] theorem Dev.chans_modSup (f : Sup → Sup) : (d.modSup f).chans = d.chans := rfl
@[simp] theorem Dev.relief_modSup (f : Sup → Sup) : (d.modSup f).relief = d.relief := rfl
@[simp] theorem Dev.slots_modSup (f : Sup → Sup) : (d.modSup f).slots = d.slots := rfl
@[simp] theorem Dev.cal_modSup (f : Sup → Sup) : (d.modSup f).cal = d.cal := rfl
@[simp] theorem Dev.calZeros_modSup (f : Sup → Sup) : (d.modSup f).calZeros = d.calZeros := rfl
@[simp] theorem Dev.rcf_modSup (f : Sup → Sup) : (d.modSup f).rcf = d.rcf := rfl
@[simp] theorem Dev.tcfTemp_modSup (f : Sup → Sup) : (d.modSup f).tcfTemp = d.tcfTemp := rfl
@[simp] theorem Dev.qfreq_modSup (f : Sup → Sup) : (d.modSup f).qfreq = d.qfreq := rfl
@[simp] theorem Dev.engines_modSup (f : Sup → Sup) : (d.modSup f).engines = d.engines := rfl
@[simp] theorem Dev.er_modSup (f : Sup → Sup) : (d.modSup f).er = d.er := rfl
@[simp] theorem Dev.roles_modSup (f : Sup → Sup) : (d.modSup f).roles = d.roles := rfl
@[simp] theorem Dev.freeze_modSup (f : Sup → Sup) : (d.modSup f).freeze = d.freeze := rfl
@[simp] theorem Dev.vBound_modSup (f : Sup → Sup) : (d.modSup f).vBound = d.vBound := rfl
@[simp] theorem Dev.outs_modSup (f : Sup → Sup) : (d.modSup f).outs = d.outs := rfl
@[simp] theorem Dev.groups_modSup (f : Sup → Sup) : (d.modSup f).groups = d.groups := rfl
@[simp] theorem Dev.fll_modSup (f : Sup → Sup) : (d.modSup f).fll = d.fll := rfl
@[simp] theorem Dev.harm_modSup (f : Sup → Sup) : (d.modSup f).harm = d.harm := rfl
@[simp] theorem Dev.evt_modSup (f : Sup → Sup) : (d.modSup f).evt = d.evt := rfl
@[simp] theorem Dev.aux_modSup (f : Sup → Sup) : (d.modSup f).aux = d.aux := rfl
@[simp] theorem Dev.mbox_modSup (f : Sup → Sup) : (d.modSup f).mbox = d.mbox := rfl
@[simp] theorem Dev.sess_modSup (f : Sup → Sup) : (d.modSup f).sess = d.sess := rfl
@[simp] theorem Dev.rtc_modSup (f : Sup → Sup) : (d.modSup f).rtc = d.rtc := rfl
@[simp] theorem Dev.plc_modSup (f : Sup → Sup) : (d.modSup f).plc = d.plc := rfl
@[simp] theorem Dev.pnl_modSup (f : Sup → Sup) : (d.modSup f).pnl = d.pnl := rfl
@[simp] theorem Dev.chn_modSup (f : Sup → Sup) : (d.modSup f).chn = d.chn := rfl
@[simp] theorem Dev.cfgCapture_modSup (f : Sup → Sup) : (d.modSup f).cfgCapture = d.cfgCapture := rfl
@[simp] theorem Dev.cycHigh_modSup (f : Sup → Sup) : (d.modSup f).cycHigh = d.cycHigh := rfl
@[simp] theorem Dev.txen_modSup (f : Sup → Sup) : (d.modSup f).txen = d.txen := rfl
@[simp] theorem Dev.freeCtr_modSup (f : Sup → Sup) : (d.modSup f).freeCtr = d.freeCtr := rfl

@[simp] theorem Dev.now_modChn (f : Chn → Chn) : (d.modChn f).now = d.now := rfl
@[simp] theorem Dev.instT_modChn (f : Chn → Chn) : (d.modChn f).instT = d.instT := rfl
@[simp] theorem Dev.fuses_modChn (f : Chn → Chn) : (d.modChn f).fuses = d.fuses := rfl
@[simp] theorem Dev.inReset_modChn (f : Chn → Chn) : (d.modChn f).inReset = d.inReset := rfl
@[simp] theorem Dev.resetPin_modChn (f : Chn → Chn) : (d.modChn f).resetPin = d.resetPin := rfl
@[simp] theorem Dev.regs_modChn (f : Chn → Chn) : (d.modChn f).regs = d.regs := rfl
@[simp] theorem Dev.act_modChn (f : Chn → Chn) : (d.modChn f).act = d.act := rfl
@[simp] theorem Dev.inst_modChn (f : Chn → Chn) : (d.modChn f).inst = d.inst := rfl
@[simp] theorem Dev.staged_modChn (f : Chn → Chn) : (d.modChn f).staged = d.staged := rfl
@[simp] theorem Dev.bound_modChn (f : Chn → Chn) : (d.modChn f).bound = d.bound := rfl
@[simp] theorem Dev.shadow_modChn (f : Chn → Chn) : (d.modChn f).shadow = d.shadow := rfl
@[simp] theorem Dev.halves_modChn (f : Chn → Chn) : (d.modChn f).halves = d.halves := rfl
@[simp] theorem Dev.locks_modChn (f : Chn → Chn) : (d.modChn f).locks = d.locks := rfl
@[simp] theorem Dev.cmPend_modChn (f : Chn → Chn) : (d.modChn f).cmPend = d.cmPend := rfl
@[simp] theorem Dev.resp_modChn (f : Chn → Chn) : (d.modChn f).resp = d.resp := rfl
@[simp] theorem Dev.miso_modChn (f : Chn → Chn) : (d.modChn f).miso = d.miso := rfl
@[simp] theorem Dev.i2cResp_modChn (f : Chn → Chn) : (d.modChn f).i2cResp = d.i2cResp := rfl
@[simp] theorem Dev.pwr_modChn (f : Chn → Chn) : (d.modChn f).pwr = d.pwr := rfl
@[simp] theorem Dev.modCnt_modChn (f : Chn → Chn) : (d.modChn f).modCnt = d.modCnt := rfl
@[simp] theorem Dev.modOn_modChn (f : Chn → Chn) : (d.modChn f).modOn = d.modOn := rfl
@[simp] theorem Dev.syncDue_modChn (f : Chn → Chn) : (d.modChn f).syncDue = d.syncDue := rfl
@[simp] theorem Dev.frameSeq_modChn (f : Chn → Chn) : (d.modChn f).frameSeq = d.frameSeq := rfl
@[simp] theorem Dev.cycN_modChn (f : Chn → Chn) : (d.modChn f).cycN = d.cycN := rfl
@[simp] theorem Dev.cutoffPassed_modChn (f : Chn → Chn) : (d.modChn f).cutoffPassed = d.cutoffPassed := rfl
@[simp] theorem Dev.cycMark_modChn (f : Chn → Chn) : (d.modChn f).cycMark = d.cycMark := rfl
@[simp] theorem Dev.blkMark_modChn (f : Chn → Chn) : (d.modChn f).blkMark = d.blkMark := rfl
@[simp] theorem Dev.secMark_modChn (f : Chn → Chn) : (d.modChn f).secMark = d.secMark := rfl
@[simp] theorem Dev.swpMark_modChn (f : Chn → Chn) : (d.modChn f).swpMark = d.swpMark := rfl
@[simp] theorem Dev.blkCount_modChn (f : Chn → Chn) : (d.modChn f).blkCount = d.blkCount := rfl
@[simp] theorem Dev.escCycN_modChn (f : Chn → Chn) : (d.modChn f).escCycN = d.escCycN := rfl
@[simp] theorem Dev.framesCyc_modChn (f : Chn → Chn) : (d.modChn f).framesCyc = d.framesCyc := rfl
@[simp] theorem Dev.framesPrev_modChn (f : Chn → Chn) : (d.modChn f).framesPrev = d.framesPrev := rfl
@[simp] theorem Dev.halfMark_modChn (f : Chn → Chn) : (d.modChn f).halfMark = d.halfMark := rfl
@[simp] theorem Dev.chans_modChn (f : Chn → Chn) : (d.modChn f).chans = d.chans := rfl
@[simp] theorem Dev.relief_modChn (f : Chn → Chn) : (d.modChn f).relief = d.relief := rfl
@[simp] theorem Dev.slots_modChn (f : Chn → Chn) : (d.modChn f).slots = d.slots := rfl
@[simp] theorem Dev.cal_modChn (f : Chn → Chn) : (d.modChn f).cal = d.cal := rfl
@[simp] theorem Dev.calZeros_modChn (f : Chn → Chn) : (d.modChn f).calZeros = d.calZeros := rfl
@[simp] theorem Dev.rcf_modChn (f : Chn → Chn) : (d.modChn f).rcf = d.rcf := rfl
@[simp] theorem Dev.tcfTemp_modChn (f : Chn → Chn) : (d.modChn f).tcfTemp = d.tcfTemp := rfl
@[simp] theorem Dev.qfreq_modChn (f : Chn → Chn) : (d.modChn f).qfreq = d.qfreq := rfl
@[simp] theorem Dev.engines_modChn (f : Chn → Chn) : (d.modChn f).engines = d.engines := rfl
@[simp] theorem Dev.er_modChn (f : Chn → Chn) : (d.modChn f).er = d.er := rfl
@[simp] theorem Dev.roles_modChn (f : Chn → Chn) : (d.modChn f).roles = d.roles := rfl
@[simp] theorem Dev.freeze_modChn (f : Chn → Chn) : (d.modChn f).freeze = d.freeze := rfl
@[simp] theorem Dev.vBound_modChn (f : Chn → Chn) : (d.modChn f).vBound = d.vBound := rfl
@[simp] theorem Dev.outs_modChn (f : Chn → Chn) : (d.modChn f).outs = d.outs := rfl
@[simp] theorem Dev.groups_modChn (f : Chn → Chn) : (d.modChn f).groups = d.groups := rfl
@[simp] theorem Dev.fll_modChn (f : Chn → Chn) : (d.modChn f).fll = d.fll := rfl
@[simp] theorem Dev.harm_modChn (f : Chn → Chn) : (d.modChn f).harm = d.harm := rfl
@[simp] theorem Dev.evt_modChn (f : Chn → Chn) : (d.modChn f).evt = d.evt := rfl
@[simp] theorem Dev.aux_modChn (f : Chn → Chn) : (d.modChn f).aux = d.aux := rfl
@[simp] theorem Dev.mbox_modChn (f : Chn → Chn) : (d.modChn f).mbox = d.mbox := rfl
@[simp] theorem Dev.sup_modChn (f : Chn → Chn) : (d.modChn f).sup = d.sup := rfl
@[simp] theorem Dev.sess_modChn (f : Chn → Chn) : (d.modChn f).sess = d.sess := rfl
@[simp] theorem Dev.rtc_modChn (f : Chn → Chn) : (d.modChn f).rtc = d.rtc := rfl
@[simp] theorem Dev.plc_modChn (f : Chn → Chn) : (d.modChn f).plc = d.plc := rfl
@[simp] theorem Dev.pnl_modChn (f : Chn → Chn) : (d.modChn f).pnl = d.pnl := rfl
@[simp] theorem Dev.cfgCapture_modChn (f : Chn → Chn) : (d.modChn f).cfgCapture = d.cfgCapture := rfl
@[simp] theorem Dev.cycHigh_modChn (f : Chn → Chn) : (d.modChn f).cycHigh = d.cycHigh := rfl
@[simp] theorem Dev.txen_modChn (f : Chn → Chn) : (d.modChn f).txen = d.txen := rfl
@[simp] theorem Dev.freeCtr_modChn (f : Chn → Chn) : (d.modChn f).freeCtr = d.freeCtr := rfl

@[simp] theorem Dev.now_modPnl (f : Pnl → Pnl) : (d.modPnl f).now = d.now := rfl
@[simp] theorem Dev.instT_modPnl (f : Pnl → Pnl) : (d.modPnl f).instT = d.instT := rfl
@[simp] theorem Dev.fuses_modPnl (f : Pnl → Pnl) : (d.modPnl f).fuses = d.fuses := rfl
@[simp] theorem Dev.inReset_modPnl (f : Pnl → Pnl) : (d.modPnl f).inReset = d.inReset := rfl
@[simp] theorem Dev.resetPin_modPnl (f : Pnl → Pnl) : (d.modPnl f).resetPin = d.resetPin := rfl
@[simp] theorem Dev.regs_modPnl (f : Pnl → Pnl) : (d.modPnl f).regs = d.regs := rfl
@[simp] theorem Dev.act_modPnl (f : Pnl → Pnl) : (d.modPnl f).act = d.act := rfl
@[simp] theorem Dev.inst_modPnl (f : Pnl → Pnl) : (d.modPnl f).inst = d.inst := rfl
@[simp] theorem Dev.staged_modPnl (f : Pnl → Pnl) : (d.modPnl f).staged = d.staged := rfl
@[simp] theorem Dev.bound_modPnl (f : Pnl → Pnl) : (d.modPnl f).bound = d.bound := rfl
@[simp] theorem Dev.shadow_modPnl (f : Pnl → Pnl) : (d.modPnl f).shadow = d.shadow := rfl
@[simp] theorem Dev.halves_modPnl (f : Pnl → Pnl) : (d.modPnl f).halves = d.halves := rfl
@[simp] theorem Dev.locks_modPnl (f : Pnl → Pnl) : (d.modPnl f).locks = d.locks := rfl
@[simp] theorem Dev.cmPend_modPnl (f : Pnl → Pnl) : (d.modPnl f).cmPend = d.cmPend := rfl
@[simp] theorem Dev.resp_modPnl (f : Pnl → Pnl) : (d.modPnl f).resp = d.resp := rfl
@[simp] theorem Dev.miso_modPnl (f : Pnl → Pnl) : (d.modPnl f).miso = d.miso := rfl
@[simp] theorem Dev.i2cResp_modPnl (f : Pnl → Pnl) : (d.modPnl f).i2cResp = d.i2cResp := rfl
@[simp] theorem Dev.pwr_modPnl (f : Pnl → Pnl) : (d.modPnl f).pwr = d.pwr := rfl
@[simp] theorem Dev.modCnt_modPnl (f : Pnl → Pnl) : (d.modPnl f).modCnt = d.modCnt := rfl
@[simp] theorem Dev.modOn_modPnl (f : Pnl → Pnl) : (d.modPnl f).modOn = d.modOn := rfl
@[simp] theorem Dev.syncDue_modPnl (f : Pnl → Pnl) : (d.modPnl f).syncDue = d.syncDue := rfl
@[simp] theorem Dev.frameSeq_modPnl (f : Pnl → Pnl) : (d.modPnl f).frameSeq = d.frameSeq := rfl
@[simp] theorem Dev.cycN_modPnl (f : Pnl → Pnl) : (d.modPnl f).cycN = d.cycN := rfl
@[simp] theorem Dev.cutoffPassed_modPnl (f : Pnl → Pnl) : (d.modPnl f).cutoffPassed = d.cutoffPassed := rfl
@[simp] theorem Dev.cycMark_modPnl (f : Pnl → Pnl) : (d.modPnl f).cycMark = d.cycMark := rfl
@[simp] theorem Dev.blkMark_modPnl (f : Pnl → Pnl) : (d.modPnl f).blkMark = d.blkMark := rfl
@[simp] theorem Dev.secMark_modPnl (f : Pnl → Pnl) : (d.modPnl f).secMark = d.secMark := rfl
@[simp] theorem Dev.swpMark_modPnl (f : Pnl → Pnl) : (d.modPnl f).swpMark = d.swpMark := rfl
@[simp] theorem Dev.blkCount_modPnl (f : Pnl → Pnl) : (d.modPnl f).blkCount = d.blkCount := rfl
@[simp] theorem Dev.escCycN_modPnl (f : Pnl → Pnl) : (d.modPnl f).escCycN = d.escCycN := rfl
@[simp] theorem Dev.framesCyc_modPnl (f : Pnl → Pnl) : (d.modPnl f).framesCyc = d.framesCyc := rfl
@[simp] theorem Dev.framesPrev_modPnl (f : Pnl → Pnl) : (d.modPnl f).framesPrev = d.framesPrev := rfl
@[simp] theorem Dev.halfMark_modPnl (f : Pnl → Pnl) : (d.modPnl f).halfMark = d.halfMark := rfl
@[simp] theorem Dev.chans_modPnl (f : Pnl → Pnl) : (d.modPnl f).chans = d.chans := rfl
@[simp] theorem Dev.relief_modPnl (f : Pnl → Pnl) : (d.modPnl f).relief = d.relief := rfl
@[simp] theorem Dev.slots_modPnl (f : Pnl → Pnl) : (d.modPnl f).slots = d.slots := rfl
@[simp] theorem Dev.cal_modPnl (f : Pnl → Pnl) : (d.modPnl f).cal = d.cal := rfl
@[simp] theorem Dev.calZeros_modPnl (f : Pnl → Pnl) : (d.modPnl f).calZeros = d.calZeros := rfl
@[simp] theorem Dev.rcf_modPnl (f : Pnl → Pnl) : (d.modPnl f).rcf = d.rcf := rfl
@[simp] theorem Dev.tcfTemp_modPnl (f : Pnl → Pnl) : (d.modPnl f).tcfTemp = d.tcfTemp := rfl
@[simp] theorem Dev.qfreq_modPnl (f : Pnl → Pnl) : (d.modPnl f).qfreq = d.qfreq := rfl
@[simp] theorem Dev.engines_modPnl (f : Pnl → Pnl) : (d.modPnl f).engines = d.engines := rfl
@[simp] theorem Dev.er_modPnl (f : Pnl → Pnl) : (d.modPnl f).er = d.er := rfl
@[simp] theorem Dev.roles_modPnl (f : Pnl → Pnl) : (d.modPnl f).roles = d.roles := rfl
@[simp] theorem Dev.freeze_modPnl (f : Pnl → Pnl) : (d.modPnl f).freeze = d.freeze := rfl
@[simp] theorem Dev.vBound_modPnl (f : Pnl → Pnl) : (d.modPnl f).vBound = d.vBound := rfl
@[simp] theorem Dev.outs_modPnl (f : Pnl → Pnl) : (d.modPnl f).outs = d.outs := rfl
@[simp] theorem Dev.groups_modPnl (f : Pnl → Pnl) : (d.modPnl f).groups = d.groups := rfl
@[simp] theorem Dev.fll_modPnl (f : Pnl → Pnl) : (d.modPnl f).fll = d.fll := rfl
@[simp] theorem Dev.harm_modPnl (f : Pnl → Pnl) : (d.modPnl f).harm = d.harm := rfl
@[simp] theorem Dev.evt_modPnl (f : Pnl → Pnl) : (d.modPnl f).evt = d.evt := rfl
@[simp] theorem Dev.aux_modPnl (f : Pnl → Pnl) : (d.modPnl f).aux = d.aux := rfl
@[simp] theorem Dev.mbox_modPnl (f : Pnl → Pnl) : (d.modPnl f).mbox = d.mbox := rfl
@[simp] theorem Dev.sup_modPnl (f : Pnl → Pnl) : (d.modPnl f).sup = d.sup := rfl
@[simp] theorem Dev.sess_modPnl (f : Pnl → Pnl) : (d.modPnl f).sess = d.sess := rfl
@[simp] theorem Dev.rtc_modPnl (f : Pnl → Pnl) : (d.modPnl f).rtc = d.rtc := rfl
@[simp] theorem Dev.plc_modPnl (f : Pnl → Pnl) : (d.modPnl f).plc = d.plc := rfl
@[simp] theorem Dev.chn_modPnl (f : Pnl → Pnl) : (d.modPnl f).chn = d.chn := rfl
@[simp] theorem Dev.cfgCapture_modPnl (f : Pnl → Pnl) : (d.modPnl f).cfgCapture = d.cfgCapture := rfl
@[simp] theorem Dev.cycHigh_modPnl (f : Pnl → Pnl) : (d.modPnl f).cycHigh = d.cycHigh := rfl
@[simp] theorem Dev.txen_modPnl (f : Pnl → Pnl) : (d.modPnl f).txen = d.txen := rfl
@[simp] theorem Dev.freeCtr_modPnl (f : Pnl → Pnl) : (d.modPnl f).freeCtr = d.freeCtr := rfl

@[simp] theorem Dev.now_modPlc (f : Plc → Plc) : (d.modPlc f).now = d.now := rfl
@[simp] theorem Dev.instT_modPlc (f : Plc → Plc) : (d.modPlc f).instT = d.instT := rfl
@[simp] theorem Dev.fuses_modPlc (f : Plc → Plc) : (d.modPlc f).fuses = d.fuses := rfl
@[simp] theorem Dev.inReset_modPlc (f : Plc → Plc) : (d.modPlc f).inReset = d.inReset := rfl
@[simp] theorem Dev.resetPin_modPlc (f : Plc → Plc) : (d.modPlc f).resetPin = d.resetPin := rfl
@[simp] theorem Dev.regs_modPlc (f : Plc → Plc) : (d.modPlc f).regs = d.regs := rfl
@[simp] theorem Dev.act_modPlc (f : Plc → Plc) : (d.modPlc f).act = d.act := rfl
@[simp] theorem Dev.inst_modPlc (f : Plc → Plc) : (d.modPlc f).inst = d.inst := rfl
@[simp] theorem Dev.staged_modPlc (f : Plc → Plc) : (d.modPlc f).staged = d.staged := rfl
@[simp] theorem Dev.bound_modPlc (f : Plc → Plc) : (d.modPlc f).bound = d.bound := rfl
@[simp] theorem Dev.shadow_modPlc (f : Plc → Plc) : (d.modPlc f).shadow = d.shadow := rfl
@[simp] theorem Dev.halves_modPlc (f : Plc → Plc) : (d.modPlc f).halves = d.halves := rfl
@[simp] theorem Dev.locks_modPlc (f : Plc → Plc) : (d.modPlc f).locks = d.locks := rfl
@[simp] theorem Dev.cmPend_modPlc (f : Plc → Plc) : (d.modPlc f).cmPend = d.cmPend := rfl
@[simp] theorem Dev.resp_modPlc (f : Plc → Plc) : (d.modPlc f).resp = d.resp := rfl
@[simp] theorem Dev.miso_modPlc (f : Plc → Plc) : (d.modPlc f).miso = d.miso := rfl
@[simp] theorem Dev.i2cResp_modPlc (f : Plc → Plc) : (d.modPlc f).i2cResp = d.i2cResp := rfl
@[simp] theorem Dev.pwr_modPlc (f : Plc → Plc) : (d.modPlc f).pwr = d.pwr := rfl
@[simp] theorem Dev.modCnt_modPlc (f : Plc → Plc) : (d.modPlc f).modCnt = d.modCnt := rfl
@[simp] theorem Dev.modOn_modPlc (f : Plc → Plc) : (d.modPlc f).modOn = d.modOn := rfl
@[simp] theorem Dev.syncDue_modPlc (f : Plc → Plc) : (d.modPlc f).syncDue = d.syncDue := rfl
@[simp] theorem Dev.frameSeq_modPlc (f : Plc → Plc) : (d.modPlc f).frameSeq = d.frameSeq := rfl
@[simp] theorem Dev.cycN_modPlc (f : Plc → Plc) : (d.modPlc f).cycN = d.cycN := rfl
@[simp] theorem Dev.cutoffPassed_modPlc (f : Plc → Plc) : (d.modPlc f).cutoffPassed = d.cutoffPassed := rfl
@[simp] theorem Dev.cycMark_modPlc (f : Plc → Plc) : (d.modPlc f).cycMark = d.cycMark := rfl
@[simp] theorem Dev.blkMark_modPlc (f : Plc → Plc) : (d.modPlc f).blkMark = d.blkMark := rfl
@[simp] theorem Dev.secMark_modPlc (f : Plc → Plc) : (d.modPlc f).secMark = d.secMark := rfl
@[simp] theorem Dev.swpMark_modPlc (f : Plc → Plc) : (d.modPlc f).swpMark = d.swpMark := rfl
@[simp] theorem Dev.blkCount_modPlc (f : Plc → Plc) : (d.modPlc f).blkCount = d.blkCount := rfl
@[simp] theorem Dev.escCycN_modPlc (f : Plc → Plc) : (d.modPlc f).escCycN = d.escCycN := rfl
@[simp] theorem Dev.framesCyc_modPlc (f : Plc → Plc) : (d.modPlc f).framesCyc = d.framesCyc := rfl
@[simp] theorem Dev.framesPrev_modPlc (f : Plc → Plc) : (d.modPlc f).framesPrev = d.framesPrev := rfl
@[simp] theorem Dev.halfMark_modPlc (f : Plc → Plc) : (d.modPlc f).halfMark = d.halfMark := rfl
@[simp] theorem Dev.chans_modPlc (f : Plc → Plc) : (d.modPlc f).chans = d.chans := rfl
@[simp] theorem Dev.relief_modPlc (f : Plc → Plc) : (d.modPlc f).relief = d.relief := rfl
@[simp] theorem Dev.slots_modPlc (f : Plc → Plc) : (d.modPlc f).slots = d.slots := rfl
@[simp] theorem Dev.cal_modPlc (f : Plc → Plc) : (d.modPlc f).cal = d.cal := rfl
@[simp] theorem Dev.calZeros_modPlc (f : Plc → Plc) : (d.modPlc f).calZeros = d.calZeros := rfl
@[simp] theorem Dev.rcf_modPlc (f : Plc → Plc) : (d.modPlc f).rcf = d.rcf := rfl
@[simp] theorem Dev.tcfTemp_modPlc (f : Plc → Plc) : (d.modPlc f).tcfTemp = d.tcfTemp := rfl
@[simp] theorem Dev.qfreq_modPlc (f : Plc → Plc) : (d.modPlc f).qfreq = d.qfreq := rfl
@[simp] theorem Dev.engines_modPlc (f : Plc → Plc) : (d.modPlc f).engines = d.engines := rfl
@[simp] theorem Dev.er_modPlc (f : Plc → Plc) : (d.modPlc f).er = d.er := rfl
@[simp] theorem Dev.roles_modPlc (f : Plc → Plc) : (d.modPlc f).roles = d.roles := rfl
@[simp] theorem Dev.freeze_modPlc (f : Plc → Plc) : (d.modPlc f).freeze = d.freeze := rfl
@[simp] theorem Dev.vBound_modPlc (f : Plc → Plc) : (d.modPlc f).vBound = d.vBound := rfl
@[simp] theorem Dev.outs_modPlc (f : Plc → Plc) : (d.modPlc f).outs = d.outs := rfl
@[simp] theorem Dev.groups_modPlc (f : Plc → Plc) : (d.modPlc f).groups = d.groups := rfl
@[simp] theorem Dev.fll_modPlc (f : Plc → Plc) : (d.modPlc f).fll = d.fll := rfl
@[simp] theorem Dev.harm_modPlc (f : Plc → Plc) : (d.modPlc f).harm = d.harm := rfl
@[simp] theorem Dev.evt_modPlc (f : Plc → Plc) : (d.modPlc f).evt = d.evt := rfl
@[simp] theorem Dev.aux_modPlc (f : Plc → Plc) : (d.modPlc f).aux = d.aux := rfl
@[simp] theorem Dev.mbox_modPlc (f : Plc → Plc) : (d.modPlc f).mbox = d.mbox := rfl
@[simp] theorem Dev.sup_modPlc (f : Plc → Plc) : (d.modPlc f).sup = d.sup := rfl
@[simp] theorem Dev.sess_modPlc (f : Plc → Plc) : (d.modPlc f).sess = d.sess := rfl
@[simp] theorem Dev.rtc_modPlc (f : Plc → Plc) : (d.modPlc f).rtc = d.rtc := rfl
@[simp] theorem Dev.pnl_modPlc (f : Plc → Plc) : (d.modPlc f).pnl = d.pnl := rfl
@[simp] theorem Dev.chn_modPlc (f : Plc → Plc) : (d.modPlc f).chn = d.chn := rfl
@[simp] theorem Dev.cfgCapture_modPlc (f : Plc → Plc) : (d.modPlc f).cfgCapture = d.cfgCapture := rfl
@[simp] theorem Dev.cycHigh_modPlc (f : Plc → Plc) : (d.modPlc f).cycHigh = d.cycHigh := rfl
@[simp] theorem Dev.txen_modPlc (f : Plc → Plc) : (d.modPlc f).txen = d.txen := rfl
@[simp] theorem Dev.freeCtr_modPlc (f : Plc → Plc) : (d.modPlc f).freeCtr = d.freeCtr := rfl

@[simp] theorem Dev.now_modRtc (f : Rtc → Rtc) : (d.modRtc f).now = d.now := rfl
@[simp] theorem Dev.instT_modRtc (f : Rtc → Rtc) : (d.modRtc f).instT = d.instT := rfl
@[simp] theorem Dev.fuses_modRtc (f : Rtc → Rtc) : (d.modRtc f).fuses = d.fuses := rfl
@[simp] theorem Dev.inReset_modRtc (f : Rtc → Rtc) : (d.modRtc f).inReset = d.inReset := rfl
@[simp] theorem Dev.resetPin_modRtc (f : Rtc → Rtc) : (d.modRtc f).resetPin = d.resetPin := rfl
@[simp] theorem Dev.regs_modRtc (f : Rtc → Rtc) : (d.modRtc f).regs = d.regs := rfl
@[simp] theorem Dev.act_modRtc (f : Rtc → Rtc) : (d.modRtc f).act = d.act := rfl
@[simp] theorem Dev.inst_modRtc (f : Rtc → Rtc) : (d.modRtc f).inst = d.inst := rfl
@[simp] theorem Dev.staged_modRtc (f : Rtc → Rtc) : (d.modRtc f).staged = d.staged := rfl
@[simp] theorem Dev.bound_modRtc (f : Rtc → Rtc) : (d.modRtc f).bound = d.bound := rfl
@[simp] theorem Dev.shadow_modRtc (f : Rtc → Rtc) : (d.modRtc f).shadow = d.shadow := rfl
@[simp] theorem Dev.halves_modRtc (f : Rtc → Rtc) : (d.modRtc f).halves = d.halves := rfl
@[simp] theorem Dev.locks_modRtc (f : Rtc → Rtc) : (d.modRtc f).locks = d.locks := rfl
@[simp] theorem Dev.cmPend_modRtc (f : Rtc → Rtc) : (d.modRtc f).cmPend = d.cmPend := rfl
@[simp] theorem Dev.resp_modRtc (f : Rtc → Rtc) : (d.modRtc f).resp = d.resp := rfl
@[simp] theorem Dev.miso_modRtc (f : Rtc → Rtc) : (d.modRtc f).miso = d.miso := rfl
@[simp] theorem Dev.i2cResp_modRtc (f : Rtc → Rtc) : (d.modRtc f).i2cResp = d.i2cResp := rfl
@[simp] theorem Dev.pwr_modRtc (f : Rtc → Rtc) : (d.modRtc f).pwr = d.pwr := rfl
@[simp] theorem Dev.modCnt_modRtc (f : Rtc → Rtc) : (d.modRtc f).modCnt = d.modCnt := rfl
@[simp] theorem Dev.modOn_modRtc (f : Rtc → Rtc) : (d.modRtc f).modOn = d.modOn := rfl
@[simp] theorem Dev.syncDue_modRtc (f : Rtc → Rtc) : (d.modRtc f).syncDue = d.syncDue := rfl
@[simp] theorem Dev.frameSeq_modRtc (f : Rtc → Rtc) : (d.modRtc f).frameSeq = d.frameSeq := rfl
@[simp] theorem Dev.cycN_modRtc (f : Rtc → Rtc) : (d.modRtc f).cycN = d.cycN := rfl
@[simp] theorem Dev.cutoffPassed_modRtc (f : Rtc → Rtc) : (d.modRtc f).cutoffPassed = d.cutoffPassed := rfl
@[simp] theorem Dev.cycMark_modRtc (f : Rtc → Rtc) : (d.modRtc f).cycMark = d.cycMark := rfl
@[simp] theorem Dev.blkMark_modRtc (f : Rtc → Rtc) : (d.modRtc f).blkMark = d.blkMark := rfl
@[simp] theorem Dev.secMark_modRtc (f : Rtc → Rtc) : (d.modRtc f).secMark = d.secMark := rfl
@[simp] theorem Dev.swpMark_modRtc (f : Rtc → Rtc) : (d.modRtc f).swpMark = d.swpMark := rfl
@[simp] theorem Dev.blkCount_modRtc (f : Rtc → Rtc) : (d.modRtc f).blkCount = d.blkCount := rfl
@[simp] theorem Dev.escCycN_modRtc (f : Rtc → Rtc) : (d.modRtc f).escCycN = d.escCycN := rfl
@[simp] theorem Dev.framesCyc_modRtc (f : Rtc → Rtc) : (d.modRtc f).framesCyc = d.framesCyc := rfl
@[simp] theorem Dev.framesPrev_modRtc (f : Rtc → Rtc) : (d.modRtc f).framesPrev = d.framesPrev := rfl
@[simp] theorem Dev.halfMark_modRtc (f : Rtc → Rtc) : (d.modRtc f).halfMark = d.halfMark := rfl
@[simp] theorem Dev.chans_modRtc (f : Rtc → Rtc) : (d.modRtc f).chans = d.chans := rfl
@[simp] theorem Dev.relief_modRtc (f : Rtc → Rtc) : (d.modRtc f).relief = d.relief := rfl
@[simp] theorem Dev.slots_modRtc (f : Rtc → Rtc) : (d.modRtc f).slots = d.slots := rfl
@[simp] theorem Dev.cal_modRtc (f : Rtc → Rtc) : (d.modRtc f).cal = d.cal := rfl
@[simp] theorem Dev.calZeros_modRtc (f : Rtc → Rtc) : (d.modRtc f).calZeros = d.calZeros := rfl
@[simp] theorem Dev.rcf_modRtc (f : Rtc → Rtc) : (d.modRtc f).rcf = d.rcf := rfl
@[simp] theorem Dev.tcfTemp_modRtc (f : Rtc → Rtc) : (d.modRtc f).tcfTemp = d.tcfTemp := rfl
@[simp] theorem Dev.qfreq_modRtc (f : Rtc → Rtc) : (d.modRtc f).qfreq = d.qfreq := rfl
@[simp] theorem Dev.engines_modRtc (f : Rtc → Rtc) : (d.modRtc f).engines = d.engines := rfl
@[simp] theorem Dev.er_modRtc (f : Rtc → Rtc) : (d.modRtc f).er = d.er := rfl
@[simp] theorem Dev.roles_modRtc (f : Rtc → Rtc) : (d.modRtc f).roles = d.roles := rfl
@[simp] theorem Dev.freeze_modRtc (f : Rtc → Rtc) : (d.modRtc f).freeze = d.freeze := rfl
@[simp] theorem Dev.vBound_modRtc (f : Rtc → Rtc) : (d.modRtc f).vBound = d.vBound := rfl
@[simp] theorem Dev.outs_modRtc (f : Rtc → Rtc) : (d.modRtc f).outs = d.outs := rfl
@[simp] theorem Dev.groups_modRtc (f : Rtc → Rtc) : (d.modRtc f).groups = d.groups := rfl
@[simp] theorem Dev.fll_modRtc (f : Rtc → Rtc) : (d.modRtc f).fll = d.fll := rfl
@[simp] theorem Dev.harm_modRtc (f : Rtc → Rtc) : (d.modRtc f).harm = d.harm := rfl
@[simp] theorem Dev.evt_modRtc (f : Rtc → Rtc) : (d.modRtc f).evt = d.evt := rfl
@[simp] theorem Dev.aux_modRtc (f : Rtc → Rtc) : (d.modRtc f).aux = d.aux := rfl
@[simp] theorem Dev.mbox_modRtc (f : Rtc → Rtc) : (d.modRtc f).mbox = d.mbox := rfl
@[simp] theorem Dev.sup_modRtc (f : Rtc → Rtc) : (d.modRtc f).sup = d.sup := rfl
@[simp] theorem Dev.sess_modRtc (f : Rtc → Rtc) : (d.modRtc f).sess = d.sess := rfl
@[simp] theorem Dev.plc_modRtc (f : Rtc → Rtc) : (d.modRtc f).plc = d.plc := rfl
@[simp] theorem Dev.pnl_modRtc (f : Rtc → Rtc) : (d.modRtc f).pnl = d.pnl := rfl
@[simp] theorem Dev.chn_modRtc (f : Rtc → Rtc) : (d.modRtc f).chn = d.chn := rfl
@[simp] theorem Dev.cfgCapture_modRtc (f : Rtc → Rtc) : (d.modRtc f).cfgCapture = d.cfgCapture := rfl
@[simp] theorem Dev.cycHigh_modRtc (f : Rtc → Rtc) : (d.modRtc f).cycHigh = d.cycHigh := rfl
@[simp] theorem Dev.txen_modRtc (f : Rtc → Rtc) : (d.modRtc f).txen = d.txen := rfl
@[simp] theorem Dev.freeCtr_modRtc (f : Rtc → Rtc) : (d.modRtc f).freeCtr = d.freeCtr := rfl

@[simp] theorem Dev.now_modFll (f : Fll → Fll) : (d.modFll f).now = d.now := rfl
@[simp] theorem Dev.instT_modFll (f : Fll → Fll) : (d.modFll f).instT = d.instT := rfl
@[simp] theorem Dev.fuses_modFll (f : Fll → Fll) : (d.modFll f).fuses = d.fuses := rfl
@[simp] theorem Dev.inReset_modFll (f : Fll → Fll) : (d.modFll f).inReset = d.inReset := rfl
@[simp] theorem Dev.resetPin_modFll (f : Fll → Fll) : (d.modFll f).resetPin = d.resetPin := rfl
@[simp] theorem Dev.regs_modFll (f : Fll → Fll) : (d.modFll f).regs = d.regs := rfl
@[simp] theorem Dev.act_modFll (f : Fll → Fll) : (d.modFll f).act = d.act := rfl
@[simp] theorem Dev.inst_modFll (f : Fll → Fll) : (d.modFll f).inst = d.inst := rfl
@[simp] theorem Dev.staged_modFll (f : Fll → Fll) : (d.modFll f).staged = d.staged := rfl
@[simp] theorem Dev.bound_modFll (f : Fll → Fll) : (d.modFll f).bound = d.bound := rfl
@[simp] theorem Dev.shadow_modFll (f : Fll → Fll) : (d.modFll f).shadow = d.shadow := rfl
@[simp] theorem Dev.halves_modFll (f : Fll → Fll) : (d.modFll f).halves = d.halves := rfl
@[simp] theorem Dev.locks_modFll (f : Fll → Fll) : (d.modFll f).locks = d.locks := rfl
@[simp] theorem Dev.cmPend_modFll (f : Fll → Fll) : (d.modFll f).cmPend = d.cmPend := rfl
@[simp] theorem Dev.resp_modFll (f : Fll → Fll) : (d.modFll f).resp = d.resp := rfl
@[simp] theorem Dev.miso_modFll (f : Fll → Fll) : (d.modFll f).miso = d.miso := rfl
@[simp] theorem Dev.i2cResp_modFll (f : Fll → Fll) : (d.modFll f).i2cResp = d.i2cResp := rfl
@[simp] theorem Dev.pwr_modFll (f : Fll → Fll) : (d.modFll f).pwr = d.pwr := rfl
@[simp] theorem Dev.modCnt_modFll (f : Fll → Fll) : (d.modFll f).modCnt = d.modCnt := rfl
@[simp] theorem Dev.modOn_modFll (f : Fll → Fll) : (d.modFll f).modOn = d.modOn := rfl
@[simp] theorem Dev.syncDue_modFll (f : Fll → Fll) : (d.modFll f).syncDue = d.syncDue := rfl
@[simp] theorem Dev.frameSeq_modFll (f : Fll → Fll) : (d.modFll f).frameSeq = d.frameSeq := rfl
@[simp] theorem Dev.cycN_modFll (f : Fll → Fll) : (d.modFll f).cycN = d.cycN := rfl
@[simp] theorem Dev.cutoffPassed_modFll (f : Fll → Fll) : (d.modFll f).cutoffPassed = d.cutoffPassed := rfl
@[simp] theorem Dev.cycMark_modFll (f : Fll → Fll) : (d.modFll f).cycMark = d.cycMark := rfl
@[simp] theorem Dev.blkMark_modFll (f : Fll → Fll) : (d.modFll f).blkMark = d.blkMark := rfl
@[simp] theorem Dev.secMark_modFll (f : Fll → Fll) : (d.modFll f).secMark = d.secMark := rfl
@[simp] theorem Dev.swpMark_modFll (f : Fll → Fll) : (d.modFll f).swpMark = d.swpMark := rfl
@[simp] theorem Dev.blkCount_modFll (f : Fll → Fll) : (d.modFll f).blkCount = d.blkCount := rfl
@[simp] theorem Dev.escCycN_modFll (f : Fll → Fll) : (d.modFll f).escCycN = d.escCycN := rfl
@[simp] theorem Dev.framesCyc_modFll (f : Fll → Fll) : (d.modFll f).framesCyc = d.framesCyc := rfl
@[simp] theorem Dev.framesPrev_modFll (f : Fll → Fll) : (d.modFll f).framesPrev = d.framesPrev := rfl
@[simp] theorem Dev.halfMark_modFll (f : Fll → Fll) : (d.modFll f).halfMark = d.halfMark := rfl
@[simp] theorem Dev.chans_modFll (f : Fll → Fll) : (d.modFll f).chans = d.chans := rfl
@[simp] theorem Dev.relief_modFll (f : Fll → Fll) : (d.modFll f).relief = d.relief := rfl
@[simp] theorem Dev.slots_modFll (f : Fll → Fll) : (d.modFll f).slots = d.slots := rfl
@[simp] theorem Dev.cal_modFll (f : Fll → Fll) : (d.modFll f).cal = d.cal := rfl
@[simp] theorem Dev.calZeros_modFll (f : Fll → Fll) : (d.modFll f).calZeros = d.calZeros := rfl
@[simp] theorem Dev.rcf_modFll (f : Fll → Fll) : (d.modFll f).rcf = d.rcf := rfl
@[simp] theorem Dev.tcfTemp_modFll (f : Fll → Fll) : (d.modFll f).tcfTemp = d.tcfTemp := rfl
@[simp] theorem Dev.qfreq_modFll (f : Fll → Fll) : (d.modFll f).qfreq = d.qfreq := rfl
@[simp] theorem Dev.engines_modFll (f : Fll → Fll) : (d.modFll f).engines = d.engines := rfl
@[simp] theorem Dev.er_modFll (f : Fll → Fll) : (d.modFll f).er = d.er := rfl
@[simp] theorem Dev.roles_modFll (f : Fll → Fll) : (d.modFll f).roles = d.roles := rfl
@[simp] theorem Dev.freeze_modFll (f : Fll → Fll) : (d.modFll f).freeze = d.freeze := rfl
@[simp] theorem Dev.vBound_modFll (f : Fll → Fll) : (d.modFll f).vBound = d.vBound := rfl
@[simp] theorem Dev.outs_modFll (f : Fll → Fll) : (d.modFll f).outs = d.outs := rfl
@[simp] theorem Dev.groups_modFll (f : Fll → Fll) : (d.modFll f).groups = d.groups := rfl
@[simp] theorem Dev.harm_modFll (f : Fll → Fll) : (d.modFll f).harm = d.harm := rfl
@[simp] theorem Dev.evt_modFll (f : Fll → Fll) : (d.modFll f).evt = d.evt := rfl
@[simp] theorem Dev.aux_modFll (f : Fll → Fll) : (d.modFll f).aux = d.aux := rfl
@[simp] theorem Dev.mbox_modFll (f : Fll → Fll) : (d.modFll f).mbox = d.mbox := rfl
@[simp] theorem Dev.sup_modFll (f : Fll → Fll) : (d.modFll f).sup = d.sup := rfl
@[simp] theorem Dev.sess_modFll (f : Fll → Fll) : (d.modFll f).sess = d.sess := rfl
@[simp] theorem Dev.rtc_modFll (f : Fll → Fll) : (d.modFll f).rtc = d.rtc := rfl
@[simp] theorem Dev.plc_modFll (f : Fll → Fll) : (d.modFll f).plc = d.plc := rfl
@[simp] theorem Dev.pnl_modFll (f : Fll → Fll) : (d.modFll f).pnl = d.pnl := rfl
@[simp] theorem Dev.chn_modFll (f : Fll → Fll) : (d.modFll f).chn = d.chn := rfl
@[simp] theorem Dev.cfgCapture_modFll (f : Fll → Fll) : (d.modFll f).cfgCapture = d.cfgCapture := rfl
@[simp] theorem Dev.cycHigh_modFll (f : Fll → Fll) : (d.modFll f).cycHigh = d.cycHigh := rfl
@[simp] theorem Dev.txen_modFll (f : Fll → Fll) : (d.modFll f).txen = d.txen := rfl
@[simp] theorem Dev.freeCtr_modFll (f : Fll → Fll) : (d.modFll f).freeCtr = d.freeCtr := rfl

@[simp] theorem Dev.now_modHrm (g : Nat) (f : Harm → Harm) : (d.modHrm g f).now = d.now := rfl
@[simp] theorem Dev.instT_modHrm (g : Nat) (f : Harm → Harm) : (d.modHrm g f).instT = d.instT := rfl
@[simp] theorem Dev.fuses_modHrm (g : Nat) (f : Harm → Harm) : (d.modHrm g f).fuses = d.fuses := rfl
@[simp] theorem Dev.inReset_modHrm (g : Nat) (f : Harm → Harm) : (d.modHrm g f).inReset = d.inReset := rfl
@[simp] theorem Dev.resetPin_modHrm (g : Nat) (f : Harm → Harm) : (d.modHrm g f).resetPin = d.resetPin := rfl
@[simp] theorem Dev.regs_modHrm (g : Nat) (f : Harm → Harm) : (d.modHrm g f).regs = d.regs := rfl
@[simp] theorem Dev.act_modHrm (g : Nat) (f : Harm → Harm) : (d.modHrm g f).act = d.act := rfl
@[simp] theorem Dev.inst_modHrm (g : Nat) (f : Harm → Harm) : (d.modHrm g f).inst = d.inst := rfl
@[simp] theorem Dev.staged_modHrm (g : Nat) (f : Harm → Harm) : (d.modHrm g f).staged = d.staged := rfl
@[simp] theorem Dev.bound_modHrm (g : Nat) (f : Harm → Harm) : (d.modHrm g f).bound = d.bound := rfl
@[simp] theorem Dev.shadow_modHrm (g : Nat) (f : Harm → Harm) : (d.modHrm g f).shadow = d.shadow := rfl
@[simp] theorem Dev.halves_modHrm (g : Nat) (f : Harm → Harm) : (d.modHrm g f).halves = d.halves := rfl
@[simp] theorem Dev.locks_modHrm (g : Nat) (f : Harm → Harm) : (d.modHrm g f).locks = d.locks := rfl
@[simp] theorem Dev.cmPend_modHrm (g : Nat) (f : Harm → Harm) : (d.modHrm g f).cmPend = d.cmPend := rfl
@[simp] theorem Dev.resp_modHrm (g : Nat) (f : Harm → Harm) : (d.modHrm g f).resp = d.resp := rfl
@[simp] theorem Dev.miso_modHrm (g : Nat) (f : Harm → Harm) : (d.modHrm g f).miso = d.miso := rfl
@[simp] theorem Dev.i2cResp_modHrm (g : Nat) (f : Harm → Harm) : (d.modHrm g f).i2cResp = d.i2cResp := rfl
@[simp] theorem Dev.pwr_modHrm (g : Nat) (f : Harm → Harm) : (d.modHrm g f).pwr = d.pwr := rfl
@[simp] theorem Dev.modCnt_modHrm (g : Nat) (f : Harm → Harm) : (d.modHrm g f).modCnt = d.modCnt := rfl
@[simp] theorem Dev.modOn_modHrm (g : Nat) (f : Harm → Harm) : (d.modHrm g f).modOn = d.modOn := rfl
@[simp] theorem Dev.syncDue_modHrm (g : Nat) (f : Harm → Harm) : (d.modHrm g f).syncDue = d.syncDue := rfl
@[simp] theorem Dev.frameSeq_modHrm (g : Nat) (f : Harm → Harm) : (d.modHrm g f).frameSeq = d.frameSeq := rfl
@[simp] theorem Dev.cycN_modHrm (g : Nat) (f : Harm → Harm) : (d.modHrm g f).cycN = d.cycN := rfl
@[simp] theorem Dev.cutoffPassed_modHrm (g : Nat) (f : Harm → Harm) : (d.modHrm g f).cutoffPassed = d.cutoffPassed := rfl
@[simp] theorem Dev.cycMark_modHrm (g : Nat) (f : Harm → Harm) : (d.modHrm g f).cycMark = d.cycMark := rfl
@[simp] theorem Dev.blkMark_modHrm (g : Nat) (f : Harm → Harm) : (d.modHrm g f).blkMark = d.blkMark := rfl
@[simp] theorem Dev.secMark_modHrm (g : Nat) (f : Harm → Harm) : (d.modHrm g f).secMark = d.secMark := rfl
@[simp] theorem Dev.swpMark_modHrm (g : Nat) (f : Harm → Harm) : (d.modHrm g f).swpMark = d.swpMark := rfl
@[simp] theorem Dev.blkCount_modHrm (g : Nat) (f : Harm → Harm) : (d.modHrm g f).blkCount = d.blkCount := rfl
@[simp] theorem Dev.escCycN_modHrm (g : Nat) (f : Harm → Harm) : (d.modHrm g f).escCycN = d.escCycN := rfl
@[simp] theorem Dev.framesCyc_modHrm (g : Nat) (f : Harm → Harm) : (d.modHrm g f).framesCyc = d.framesCyc := rfl
@[simp] theorem Dev.framesPrev_modHrm (g : Nat) (f : Harm → Harm) : (d.modHrm g f).framesPrev = d.framesPrev := rfl
@[simp] theorem Dev.halfMark_modHrm (g : Nat) (f : Harm → Harm) : (d.modHrm g f).halfMark = d.halfMark := rfl
@[simp] theorem Dev.chans_modHrm (g : Nat) (f : Harm → Harm) : (d.modHrm g f).chans = d.chans := rfl
@[simp] theorem Dev.relief_modHrm (g : Nat) (f : Harm → Harm) : (d.modHrm g f).relief = d.relief := rfl
@[simp] theorem Dev.slots_modHrm (g : Nat) (f : Harm → Harm) : (d.modHrm g f).slots = d.slots := rfl
@[simp] theorem Dev.cal_modHrm (g : Nat) (f : Harm → Harm) : (d.modHrm g f).cal = d.cal := rfl
@[simp] theorem Dev.calZeros_modHrm (g : Nat) (f : Harm → Harm) : (d.modHrm g f).calZeros = d.calZeros := rfl
@[simp] theorem Dev.rcf_modHrm (g : Nat) (f : Harm → Harm) : (d.modHrm g f).rcf = d.rcf := rfl
@[simp] theorem Dev.tcfTemp_modHrm (g : Nat) (f : Harm → Harm) : (d.modHrm g f).tcfTemp = d.tcfTemp := rfl
@[simp] theorem Dev.qfreq_modHrm (g : Nat) (f : Harm → Harm) : (d.modHrm g f).qfreq = d.qfreq := rfl
@[simp] theorem Dev.engines_modHrm (g : Nat) (f : Harm → Harm) : (d.modHrm g f).engines = d.engines := rfl
@[simp] theorem Dev.er_modHrm (g : Nat) (f : Harm → Harm) : (d.modHrm g f).er = d.er := rfl
@[simp] theorem Dev.roles_modHrm (g : Nat) (f : Harm → Harm) : (d.modHrm g f).roles = d.roles := rfl
@[simp] theorem Dev.freeze_modHrm (g : Nat) (f : Harm → Harm) : (d.modHrm g f).freeze = d.freeze := rfl
@[simp] theorem Dev.vBound_modHrm (g : Nat) (f : Harm → Harm) : (d.modHrm g f).vBound = d.vBound := rfl
@[simp] theorem Dev.outs_modHrm (g : Nat) (f : Harm → Harm) : (d.modHrm g f).outs = d.outs := rfl
@[simp] theorem Dev.groups_modHrm (g : Nat) (f : Harm → Harm) : (d.modHrm g f).groups = d.groups := rfl
@[simp] theorem Dev.fll_modHrm (g : Nat) (f : Harm → Harm) : (d.modHrm g f).fll = d.fll := rfl
@[simp] theorem Dev.evt_modHrm (g : Nat) (f : Harm → Harm) : (d.modHrm g f).evt = d.evt := rfl
@[simp] theorem Dev.aux_modHrm (g : Nat) (f : Harm → Harm) : (d.modHrm g f).aux = d.aux := rfl
@[simp] theorem Dev.mbox_modHrm (g : Nat) (f : Harm → Harm) : (d.modHrm g f).mbox = d.mbox := rfl
@[simp] theorem Dev.sup_modHrm (g : Nat) (f : Harm → Harm) : (d.modHrm g f).sup = d.sup := rfl
@[simp] theorem Dev.sess_modHrm (g : Nat) (f : Harm → Harm) : (d.modHrm g f).sess = d.sess := rfl
@[simp] theorem Dev.rtc_modHrm (g : Nat) (f : Harm → Harm) : (d.modHrm g f).rtc = d.rtc := rfl
@[simp] theorem Dev.plc_modHrm (g : Nat) (f : Harm → Harm) : (d.modHrm g f).plc = d.plc := rfl
@[simp] theorem Dev.pnl_modHrm (g : Nat) (f : Harm → Harm) : (d.modHrm g f).pnl = d.pnl := rfl
@[simp] theorem Dev.chn_modHrm (g : Nat) (f : Harm → Harm) : (d.modHrm g f).chn = d.chn := rfl
@[simp] theorem Dev.cfgCapture_modHrm (g : Nat) (f : Harm → Harm) : (d.modHrm g f).cfgCapture = d.cfgCapture := rfl
@[simp] theorem Dev.cycHigh_modHrm (g : Nat) (f : Harm → Harm) : (d.modHrm g f).cycHigh = d.cycHigh := rfl
@[simp] theorem Dev.txen_modHrm (g : Nat) (f : Harm → Harm) : (d.modHrm g f).txen = d.txen := rfl
@[simp] theorem Dev.freeCtr_modHrm (g : Nat) (f : Harm → Harm) : (d.modHrm g f).freeCtr = d.freeCtr := rfl

end Fields

/-! ## The updates made of these: all other fields at once -/

section Derived
variable (d : Dev)

@[simp] theorem Dev.fields_putFld (a hi lo v : Nat) : let e := d.putFld a hi lo v
    e.now = d.now ∧ e.instT = d.instT ∧ e.fuses = d.fuses ∧ e.inReset = d.inReset ∧ e.resetPin = d.resetPin ∧ e.act = d.act ∧
    e.inst = d.inst ∧ e.staged = d.staged ∧ e.bound = d.bound ∧ e.shadow = d.shadow ∧ e.halves = d.halves ∧ e.locks = d.locks ∧
    e.cmPend = d.cmPend ∧ e.resp = d.resp ∧ e.miso = d.miso ∧ e.i2cResp = d.i2cResp ∧ e.pwr = d.pwr ∧ e.modCnt = d.modCnt ∧
    e.modOn = d.modOn ∧ e.syncDue = d.syncDue ∧ e.frameSeq = d.frameSeq ∧ e.cycN = d.cycN ∧ e.cutoffPassed = d.cutoffPassed ∧
    e.cycMark = d.cycMark ∧ e.blkMark = d.blkMark ∧ e.secMark = d.secMark ∧ e.swpMark = d.swpMark ∧ e.blkCount = d.blkCount ∧
    e.escCycN = d.escCycN ∧ e.framesCyc = d.framesCyc ∧ e.framesPrev = d.framesPrev ∧ e.halfMark = d.halfMark ∧ e.chans = d.chans ∧
    e.relief = d.relief ∧ e.slots = d.slots ∧ e.cal = d.cal ∧ e.calZeros = d.calZeros ∧ e.rcf = d.rcf ∧ e.tcfTemp = d.tcfTemp ∧
    e.qfreq = d.qfreq ∧ e.engines = d.engines ∧ e.er = d.er ∧ e.roles = d.roles ∧ e.freeze = d.freeze ∧ e.vBound = d.vBound ∧
    e.outs = d.outs ∧ e.groups = d.groups ∧ e.fll = d.fll ∧ e.harm = d.harm ∧ e.evt = d.evt ∧ e.aux = d.aux ∧ e.mbox = d.mbox ∧
    e.sup = d.sup ∧ e.sess = d.sess ∧ e.rtc = d.rtc ∧ e.plc = d.plc ∧ e.pnl = d.pnl ∧ e.chn = d.chn ∧ e.cfgCapture = d.cfgCapture ∧
    e.cycHigh = d.cycHigh ∧ e.txen = d.txen ∧ e.freeCtr = d.freeCtr :=
  ⟨rfl, rfl, rfl, rfl, rfl, rfl, rfl, rfl, rfl, rfl, rfl, rfl, rfl, rfl, rfl, rfl, rfl, rfl, rfl, rfl, rfl, rfl, rfl, rfl, rfl, rfl, rfl, rfl, rfl, rfl, rfl, rfl, rfl, rfl, rfl, rfl, rfl, rfl, rfl, rfl, rfl, rfl, rfl, rfl, rfl, rfl, rfl, rfl, rfl, rfl, rfl, rfl, rfl, rfl, rfl, rfl, rfl, rfl, rfl, rfl, rfl, rfl⟩

@[simp] theorem Dev.fields_putBit (a i : Nat) (b : Bool) : let e := d.putBit a i b
    e.now = d.now ∧ e.instT = d.instT ∧ e.fuses = d.fuses ∧ e.inReset = d.inReset ∧ e.resetPin = d.resetPin ∧ e.act = d.act ∧
    e.inst = d.inst ∧ e.staged = d.staged ∧ e.bound = d.bound ∧ e.shadow = d.shadow ∧ e.halves = d.halves ∧ e.locks = d.locks ∧
    e.cmPend = d.cmPend ∧ e.resp = d.resp ∧ e.miso = d.miso ∧ e.i2cResp = d.i2cResp ∧ e.pwr = d.pwr ∧ e.modCnt = d.modCnt ∧
    e.modOn = d.modOn ∧ e.syncDue = d.syncDue ∧ e.frameSeq = d.frameSeq ∧ e.cycN = d.cycN ∧ e.cutoffPassed = d.cutoffPassed ∧
    e.cycMark = d.cycMark ∧ e.blkMark = d.blkMark ∧ e.secMark = d.secMark ∧ e.swpMark = d.swpMark ∧ e.blkCount = d.blkCount ∧
    e.escCycN = d.escCycN ∧ e.framesCyc = d.framesCyc ∧ e.framesPrev = d.framesPrev ∧ e.halfMark = d.halfMark ∧ e.chans = d.chans ∧
    e.relief = d.relief ∧ e.slots = d.slots ∧ e.cal = d.cal ∧ e.calZeros = d.calZeros ∧ e.rcf = d.rcf ∧ e.tcfTemp = d.tcfTemp ∧
    e.qfreq = d.qfreq ∧ e.engines = d.engines ∧ e.er = d.er ∧ e.roles = d.roles ∧ e.freeze = d.freeze ∧ e.vBound = d.vBound ∧
    e.outs = d.outs ∧ e.groups = d.groups ∧ e.fll = d.fll ∧ e.harm = d.harm ∧ e.evt = d.evt ∧ e.aux = d.aux ∧ e.mbox = d.mbox ∧
    e.sup = d.sup ∧ e.sess = d.sess ∧ e.rtc = d.rtc ∧ e.plc = d.plc ∧ e.pnl = d.pnl ∧ e.chn = d.chn ∧ e.cfgCapture = d.cfgCapture ∧
    e.cycHigh = d.cycHigh ∧ e.txen = d.txen ∧ e.freeCtr = d.freeCtr :=
  ⟨rfl, rfl, rfl, rfl, rfl, rfl, rfl, rfl, rfl, rfl, rfl, rfl, rfl, rfl, rfl, rfl, rfl, rfl, rfl, rfl, rfl, rfl, rfl, rfl, rfl, rfl, rfl, rfl, rfl, rfl, rfl, rfl, rfl, rfl, rfl, rfl, rfl, rfl, rfl, rfl, rfl, rfl, rfl, rfl, rfl, rfl, rfl, rfl, rfl, rfl, rfl, rfl, rfl, rfl, rfl, rfl, rfl, rfl, rfl, rfl, rfl, rfl⟩

@[simp] theorem Dev.fields_raiseSq (a bits : Nat) : let e := d.raiseSq a bits
    e.now = d.now ∧ e.instT = d.instT ∧ e.fuses = d.fuses ∧ e.inReset = d.inReset ∧ e.resetPin = d.resetPin ∧ e.act = d.act ∧
    e.inst = d.inst ∧ e.staged = d.staged ∧ e.bound = d.bound ∧ e.shadow = d.shadow ∧ e.halves = d.halves ∧ e.locks = d.locks ∧
    e.cmPend = d.cmPend ∧ e.resp = d.resp ∧ e.miso = d.miso ∧ e.i2cResp = d.i2cResp ∧ e.pwr = d.pwr ∧ e.modCnt = d.modCnt ∧
    e.modOn = d.modOn ∧ e.syncDue = d.syncDue ∧ e.frameSeq = d.frameSeq ∧ e.cycN = d.cycN ∧ e.cutoffPassed = d.cutoffPassed ∧
    e.cycMark = d.cycMark ∧ e.blkMark = d.blkMark ∧ e.secMark = d.secMark ∧ e.swpMark = d.swpMark ∧ e.blkCount = d.blkCount ∧
    e.escCycN = d.escCycN ∧ e.framesCyc = d.framesCyc ∧ e.framesPrev = d.framesPrev ∧ e.halfMark = d.halfMark ∧ e.chans = d.chans ∧
    e.relief = d.relief ∧ e.slots = d.slots ∧ e.cal = d.cal ∧ e.calZeros = d.calZeros ∧ e.rcf = d.rcf ∧ e.tcfTemp = d.tcfTemp ∧
    e.qfreq = d.qfreq ∧ e.engines = d.engines ∧ e.er = d.er ∧ e.roles = d.roles ∧ e.freeze = d.freeze ∧ e.vBound = d.vBound ∧
    e.outs = d.outs ∧ e.groups = d.groups ∧ e.fll = d.fll ∧ e.harm = d.harm ∧ e.evt = d.evt ∧ e.aux = d.aux ∧ e.mbox = d.mbox ∧
    e.sup = d.sup ∧ e.sess = d.sess ∧ e.rtc = d.rtc ∧ e.plc = d.plc ∧ e.pnl = d.pnl ∧ e.chn = d.chn ∧ e.cfgCapture = d.cfgCapture ∧
    e.cycHigh = d.cycHigh ∧ e.txen = d.txen ∧ e.freeCtr = d.freeCtr :=
  ⟨rfl, rfl, rfl, rfl, rfl, rfl, rfl, rfl, rfl, rfl, rfl, rfl, rfl, rfl, rfl, rfl, rfl, rfl, rfl, rfl, rfl, rfl, rfl, rfl, rfl, rfl, rfl, rfl, rfl, rfl, rfl, rfl, rfl, rfl, rfl, rfl, rfl, rfl, rfl, rfl, rfl, rfl, rfl, rfl, rfl, rfl, rfl, rfl, rfl, rfl, rfl, rfl, rfl, rfl, rfl, rfl, rfl, rfl, rfl, rfl, rfl, rfl⟩

@[simp] theorem Dev.fields_count (a hi lo n : Nat) : let e := d.count a hi lo n
    e.now = d.now ∧ e.instT = d.instT ∧ e.fuses = d.fuses ∧ e.inReset = d.inReset ∧ e.resetPin = d.resetPin ∧ e.act = d.act ∧
    e.inst = d.inst ∧ e.staged = d.staged ∧ e.bound = d.bound ∧ e.shadow = d.shadow ∧ e.halves = d.halves ∧ e.locks = d.locks ∧
    e.cmPend = d.cmPend ∧ e.resp = d.resp ∧ e.miso = d.miso ∧ e.i2cResp = d.i2cResp ∧ e.pwr = d.pwr ∧ e.modCnt = d.modCnt ∧
    e.modOn = d.modOn ∧ e.syncDue = d.syncDue ∧ e.frameSeq = d.frameSeq ∧ e.cycN = d.cycN ∧ e.cutoffPassed = d.cutoffPassed ∧
    e.cycMark = d.cycMark ∧ e.blkMark = d.blkMark ∧ e.secMark = d.secMark ∧ e.swpMark = d.swpMark ∧ e.blkCount = d.blkCount ∧
    e.escCycN = d.escCycN ∧ e.framesCyc = d.framesCyc ∧ e.framesPrev = d.framesPrev ∧ e.halfMark = d.halfMark ∧ e.chans = d.chans ∧
    e.relief = d.relief ∧ e.slots = d.slots ∧ e.cal = d.cal ∧ e.calZeros = d.calZeros ∧ e.rcf = d.rcf ∧ e.tcfTemp = d.tcfTemp ∧
    e.qfreq = d.qfreq ∧ e.engines = d.engines ∧ e.er = d.er ∧ e.roles = d.roles ∧ e.freeze = d.freeze ∧ e.vBound = d.vBound ∧
    e.outs = d.outs ∧ e.groups = d.groups ∧ e.fll = d.fll ∧ e.harm = d.harm ∧ e.evt = d.evt ∧ e.aux = d.aux ∧ e.mbox = d.mbox ∧
    e.sup = d.sup ∧ e.sess = d.sess ∧ e.rtc = d.rtc ∧ e.plc = d.plc ∧ e.pnl = d.pnl ∧ e.chn = d.chn ∧ e.cfgCapture = d.cfgCapture ∧
    e.cycHigh = d.cycHigh ∧ e.txen = d.txen ∧ e.freeCtr = d.freeCtr :=
  ⟨rfl, rfl, rfl, rfl, rfl, rfl, rfl, rfl, rfl, rfl, rfl, rfl, rfl, rfl, rfl, rfl, rfl, rfl, rfl, rfl, rfl, rfl, rfl, rfl, rfl, rfl, rfl, rfl, rfl, rfl, rfl, rfl, rfl, rfl, rfl, rfl, rfl, rfl, rfl, rfl, rfl, rfl, rfl, rfl, rfl, rfl, rfl, rfl, rfl, rfl, rfl, rfl, rfl, rfl, rfl, rfl, rfl, rfl, rfl, rfl, rfl, rfl⟩

@[simp] theorem Dev.fields_countMod (a hi lo n : Nat) : let e := d.countMod a hi lo n
    e.now = d.now ∧ e.instT = d.instT ∧ e.fuses = d.fuses ∧ e.inReset = d.inReset ∧ e.resetPin = d.resetPin ∧ e.act = d.act ∧
    e.inst = d.inst ∧ e.staged = d.staged ∧ e.bound = d.bound ∧ e.shadow = d.shadow ∧ e.halves = d.halves ∧ e.locks = d.locks ∧
    e.cmPend = d.cmPend ∧ e.resp = d.resp ∧ e.miso = d.miso ∧ e.i2cResp = d.i2cResp ∧ e.pwr = d.pwr ∧ e.modCnt = d.modCnt ∧
    e.modOn = d.modOn ∧ e.syncDue = d.syncDue ∧ e.frameSeq = d.frameSeq ∧ e.cycN = d.cycN ∧ e.cutoffPassed = d.cutoffPassed ∧
    e.cycMark = d.cycMark ∧ e.blkMark = d.blkMark ∧ e.secMark = d.secMark ∧ e.swpMark = d.swpMark ∧ e.blkCount = d.blkCount ∧
    e.escCycN = d.escCycN ∧ e.framesCyc = d.framesCyc ∧ e.framesPrev = d.framesPrev ∧ e.halfMark = d.halfMark ∧ e.chans = d.chans ∧
    e.relief = d.relief ∧ e.slots = d.slots ∧ e.cal = d.cal ∧ e.calZeros = d.calZeros ∧ e.rcf = d.rcf ∧ e.tcfTemp = d.tcfTemp ∧
    e.qfreq = d.qfreq ∧ e.engines = d.engines ∧ e.er = d.er ∧ e.roles = d.roles ∧ e.freeze = d.freeze ∧ e.vBound = d.vBound ∧
    e.outs = d.outs ∧ e.groups = d.groups ∧ e.fll = d.fll ∧ e.harm = d.harm ∧ e.evt = d.evt ∧ e.aux = d.aux ∧ e.mbox = d.mbox ∧
    e.sup = d.sup ∧ e.sess = d.sess ∧ e.rtc = d.rtc ∧ e.plc = d.plc ∧ e.pnl = d.pnl ∧ e.chn = d.chn ∧ e.cfgCapture = d.cfgCapture ∧
    e.cycHigh = d.cycHigh ∧ e.txen = d.txen ∧ e.freeCtr = d.freeCtr :=
  ⟨rfl, rfl, rfl, rfl, rfl, rfl, rfl, rfl, rfl, rfl, rfl, rfl, rfl, rfl, rfl, rfl, rfl, rfl, rfl, rfl, rfl, rfl, rfl, rfl, rfl, rfl, rfl, rfl, rfl, rfl, rfl, rfl, rfl, rfl, rfl, rfl, rfl, rfl, rfl, rfl, rfl, rfl, rfl, rfl, rfl, rfl, rfl, rfl, rfl, rfl, rfl, rfl, rfl, rfl, rfl, rfl, rfl, rfl, rfl, rfl, rfl, rfl⟩

@[simp] theorem Dev.fields_putIfld (m a hi lo v : Nat) : let e := d.putIfld m a hi lo v
    e.now = d.now ∧ e.instT = d.instT ∧ e.fuses = d.fuses ∧ e.inReset = d.inReset ∧ e.resetPin = d.resetPin ∧ e.regs = d.regs ∧
    e.act = d.act ∧ e.staged = d.staged ∧ e.bound = d.bound ∧ e.shadow = d.shadow ∧ e.halves = d.halves ∧ e.locks = d.locks ∧
    e.cmPend = d.cmPend ∧ e.resp = d.resp ∧ e.miso = d.miso ∧ e.i2cResp = d.i2cResp ∧ e.pwr = d.pwr ∧ e.modCnt = d.modCnt ∧
    e.modOn = d.modOn ∧ e.syncDue = d.syncDue ∧ e.frameSeq = d.frameSeq ∧ e.cycN = d.cycN ∧ e.cutoffPassed = d.cutoffPassed ∧
    e.cycMark = d.cycMark ∧ e.blkMark = d.blkMark ∧ e.secMark = d.secMark ∧ e.swpMark = d.swpMark ∧ e.blkCount = d.blkCount ∧
    e.escCycN = d.escCycN ∧ e.framesCyc = d.framesCyc ∧ e.framesPrev = d.framesPrev ∧ e.halfMark = d.halfMark ∧ e.chans = d.chans ∧
    e.relief = d.relief ∧ e.slots = d.slots ∧ e.cal = d.cal ∧ e.calZeros = d.calZeros ∧ e.rcf = d.rcf ∧ e.tcfTemp = d.tcfTemp ∧
    e.qfreq = d.qfreq ∧ e.engines = d.engines ∧ e.er = d.er ∧ e.roles = d.roles ∧ e.freeze = d.freeze ∧ e.vBound = d.vBound ∧
    e.outs = d.outs ∧ e.groups = d.groups ∧ e.fll = d.fll ∧ e.harm = d.harm ∧ e.evt = d.evt ∧ e.aux = d.aux ∧ e.mbox = d.mbox ∧
    e.sup = d.sup ∧ e.sess = d.sess ∧ e.rtc = d.rtc ∧ e.plc = d.plc ∧ e.pnl = d.pnl ∧ e.chn = d.chn ∧ e.cfgCapture = d.cfgCapture ∧
    e.cycHigh = d.cycHigh ∧ e.txen = d.txen ∧ e.freeCtr = d.freeCtr :=
  ⟨rfl, rfl, rfl, rfl, rfl, rfl, rfl, rfl, rfl, rfl, rfl, rfl, rfl, rfl, rfl, rfl, rfl, rfl, rfl, rfl, rfl, rfl, rfl, rfl, rfl, rfl, rfl, rfl, rfl, rfl, rfl, rfl, rfl, rfl, rfl, rfl, rfl, rfl, rfl, rfl, rfl, rfl, rfl, rfl, rfl, rfl, rfl, rfl, rfl, rfl, rfl, rfl, rfl, rfl, rfl, rfl, rfl, rfl, rfl, rfl, rfl, rfl⟩

@[simp] theorem Dev.fields_raiseIsq (m a bits : Nat) : let e := d.raiseIsq m a bits
    e.now = d.now ∧ e.instT = d.instT ∧ e.fuses = d.fuses ∧ e.inReset = d.inReset ∧ e.resetPin = d.resetPin ∧ e.regs = d.regs ∧
    e.act = d.act ∧ e.staged = d.staged ∧ e.bound = d.bound ∧ e.shadow = d.shadow ∧ e.halves = d.halves ∧ e.locks = d.locks ∧
    e.cmPend = d.cmPend ∧ e.resp = d.resp ∧ e.miso = d.miso ∧ e.i2cResp = d.i2cResp ∧ e.pwr = d.pwr ∧ e.modCnt = d.modCnt ∧
    e.modOn = d.modOn ∧ e.syncDue = d.syncDue ∧ e.frameSeq = d.frameSeq ∧ e.cycN = d.cycN ∧ e.cutoffPassed = d.cutoffPassed ∧
    e.cycMark = d.cycMark ∧ e.blkMark = d.blkMark ∧ e.secMark = d.secMark ∧ e.swpMark = d.swpMark ∧ e.blkCount = d.blkCount ∧
    e.escCycN = d.escCycN ∧ e.framesCyc = d.framesCyc ∧ e.framesPrev = d.framesPrev ∧ e.halfMark = d.halfMark ∧ e.chans = d.chans ∧
    e.relief = d.relief ∧ e.slots = d.slots ∧ e.cal = d.cal ∧ e.calZeros = d.calZeros ∧ e.rcf = d.rcf ∧ e.tcfTemp = d.tcfTemp ∧
    e.qfreq = d.qfreq ∧ e.engines = d.engines ∧ e.er = d.er ∧ e.roles = d.roles ∧ e.freeze = d.freeze ∧ e.vBound = d.vBound ∧
    e.outs = d.outs ∧ e.groups = d.groups ∧ e.fll = d.fll ∧ e.harm = d.harm ∧ e.evt = d.evt ∧ e.aux = d.aux ∧ e.mbox = d.mbox ∧
    e.sup = d.sup ∧ e.sess = d.sess ∧ e.rtc = d.rtc ∧ e.plc = d.plc ∧ e.pnl = d.pnl ∧ e.chn = d.chn ∧ e.cfgCapture = d.cfgCapture ∧
    e.cycHigh = d.cycHigh ∧ e.txen = d.txen ∧ e.freeCtr = d.freeCtr :=
  ⟨rfl, rfl, rfl, rfl, rfl, rfl, rfl, rfl, rfl, rfl, rfl, rfl, rfl, rfl, rfl, rfl, rfl, rfl, rfl, rfl, rfl, rfl, rfl, rfl, rfl, rfl, rfl, rfl, rfl, rfl, rfl, rfl, rfl, rfl, rfl, rfl, rfl, rfl, rfl, rfl, rfl, rfl, rfl, rfl, rfl, rfl, rfl, rfl, rfl, rfl, rfl, rfl, rfl, rfl, rfl, rfl, rfl, rfl, rfl, rfl, rfl, rfl⟩

@[simp] theorem Dev.fields_modChan (k : Nat) (f : Chan → Chan) : let e := d.modChan k f
    e.now = d.now ∧ e.instT = d.instT ∧ e.fuses = d.fuses ∧ e.inReset = d.inReset ∧ e.resetPin = d.resetPin ∧ e.regs = d.regs ∧
    e.act = d.act ∧ e.inst = d.inst ∧ e.staged = d.staged ∧ e.bound = d.bound ∧ e.shadow = d.shadow ∧ e.halves = d.halves ∧
    e.locks = d.locks ∧ e.cmPend = d.cmPend ∧ e.resp = d.resp ∧ e.miso = d.miso ∧ e.i2cResp = d.i2cResp ∧ e.pwr = d.pwr ∧
    e.modCnt = d.modCnt ∧ e.modOn = d.modOn ∧ e.syncDue = d.syncDue ∧ e.frameSeq = d.frameSeq ∧ e.cycN = d.cycN ∧
    e.cutoffPassed = d.cutoffPassed ∧ e.cycMark = d.cycMark ∧ e.blkMark = d.blkMark ∧ e.secMark = d.secMark ∧ e.swpMark = d.swpMark ∧
    e.blkCount = d.blkCount ∧ e.escCycN = d.escCycN ∧ e.framesCyc = d.framesCyc ∧ e.framesPrev = d.framesPrev ∧ e.halfMark = d.halfMark ∧
    e.relief = d.relief ∧ e.slots = d.slots ∧ e.cal = d.cal ∧ e.calZeros = d.calZeros ∧ e.rcf = d.rcf ∧ e.tcfTemp = d.tcfTemp ∧
    e.qfreq = d.qfreq ∧ e.engines = d.engines ∧ e.er = d.er ∧ e.roles = d.roles ∧ e.freeze = d.freeze ∧ e.vBound = d.vBound ∧
    e.outs = d.outs ∧ e.groups = d.groups ∧ e.fll = d.fll ∧ e.harm = d.harm ∧ e.evt = d.evt ∧ e.aux = d.aux ∧ e.mbox = d.mbox ∧
    e.sup = d.sup ∧ e.sess = d.sess ∧ e.rtc = d.rtc ∧ e.plc = d.plc ∧ e.pnl = d.pnl ∧ e.chn = d.chn ∧ e.cfgCapture = d.cfgCapture ∧
    e.cycHigh = d.cycHigh ∧ e.txen = d.txen ∧ e.freeCtr = d.freeCtr :=
  ⟨rfl, rfl, rfl, rfl, rfl, rfl, rfl, rfl, rfl, rfl, rfl, rfl, rfl, rfl, rfl, rfl, rfl, rfl, rfl, rfl, rfl, rfl, rfl, rfl, rfl, rfl, rfl, rfl, rfl, rfl, rfl, rfl, rfl, rfl, rfl, rfl, rfl, rfl, rfl, rfl, rfl, rfl, rfl, rfl, rfl, rfl, rfl, rfl, rfl, rfl, rfl, rfl, rfl, rfl, rfl, rfl, rfl, rfl, rfl, rfl, rfl, rfl⟩

@[simp] theorem Dev.fields_modEng (k : Nat) (f : Engine → Engine) : let e := d.modEng k f
    e.now = d.now ∧ e.instT = d.instT ∧ e.fuses = d.fuses ∧ e.inReset = d.inReset ∧ e.resetPin = d.resetPin ∧ e.regs = d.regs ∧
    e.act = d.act ∧ e.inst = d.inst ∧ e.staged = d.staged ∧ e.bound = d.bound ∧ e.shadow = d.shadow ∧ e.halves = d.halves ∧
    e.locks = d.locks ∧ e.cmPend = d.cmPend ∧ e.resp = d.resp ∧ e.miso = d.miso ∧ e.i2cResp = d.i2cResp ∧ e.pwr = d.pwr ∧
    e.modCnt = d.modCnt ∧ e.modOn = d.modOn ∧ e.syncDue = d.syncDue ∧ e.frameSeq = d.frameSeq ∧ e.cycN = d.cycN ∧
    e.cutoffPassed = d.cutoffPassed ∧ e.cycMark = d.cycMark ∧ e.blkMark = d.blkMark ∧ e.secMark = d.secMark ∧ e.swpMark = d.swpMark ∧
    e.blkCount = d.blkCount ∧ e.escCycN = d.escCycN ∧ e.framesCyc = d.framesCyc ∧ e.framesPrev = d.framesPrev ∧ e.halfMark = d.halfMark ∧
    e.chans = d.chans ∧ e.relief = d.relief ∧ e.slots = d.slots ∧ e.cal = d.cal ∧ e.calZeros = d.calZeros ∧ e.rcf = d.rcf ∧
    e.tcfTemp = d.tcfTemp ∧ e.qfreq = d.qfreq ∧ e.er = d.er ∧ e.roles = d.roles ∧ e.freeze = d.freeze ∧ e.vBound = d.vBound ∧
    e.outs = d.outs ∧ e.groups = d.groups ∧ e.fll = d.fll ∧ e.harm = d.harm ∧ e.evt = d.evt ∧ e.aux = d.aux ∧ e.mbox = d.mbox ∧
    e.sup = d.sup ∧ e.sess = d.sess ∧ e.rtc = d.rtc ∧ e.plc = d.plc ∧ e.pnl = d.pnl ∧ e.chn = d.chn ∧ e.cfgCapture = d.cfgCapture ∧
    e.cycHigh = d.cycHigh ∧ e.txen = d.txen ∧ e.freeCtr = d.freeCtr :=
  ⟨rfl, rfl, rfl, rfl, rfl, rfl, rfl, rfl, rfl, rfl, rfl, rfl, rfl, rfl, rfl, rfl, rfl, rfl, rfl, rfl, rfl, rfl, rfl, rfl, rfl, rfl, rfl, rfl, rfl, rfl, rfl, rfl, rfl, rfl, rfl, rfl, rfl, rfl, rfl, rfl, rfl, rfl, rfl, rfl, rfl, rfl, rfl, rfl, rfl, rfl, rfl, rfl, rfl, rfl, rfl, rfl, rfl, rfl, rfl, rfl, rfl, rfl⟩

@[simp] theorem Dev.fields_modOut (n : Nat) (f : PulseOut → PulseOut) : let e := d.modOut n f
    e.now = d.now ∧ e.instT = d.instT ∧ e.fuses = d.fuses ∧ e.inReset = d.inReset ∧ e.resetPin = d.resetPin ∧ e.regs = d.regs ∧
    e.act = d.act ∧ e.inst = d.inst ∧ e.staged = d.staged ∧ e.bound = d.bound ∧ e.shadow = d.shadow ∧ e.halves = d.halves ∧
    e.locks = d.locks ∧ e.cmPend = d.cmPend ∧ e.resp = d.resp ∧ e.miso = d.miso ∧ e.i2cResp = d.i2cResp ∧ e.pwr = d.pwr ∧
    e.modCnt = d.modCnt ∧ e.modOn = d.modOn ∧ e.syncDue = d.syncDue ∧ e.frameSeq = d.frameSeq ∧ e.cycN = d.cycN ∧
    e.cutoffPassed = d.cutoffPassed ∧ e.cycMark = d.cycMark ∧ e.blkMark = d.blkMark ∧ e.secMark = d.secMark ∧ e.swpMark = d.swpMark ∧
    e.blkCount = d.blkCount ∧ e.escCycN = d.escCycN ∧ e.framesCyc = d.framesCyc ∧ e.framesPrev = d.framesPrev ∧ e.halfMark = d.halfMark ∧
    e.chans = d.chans ∧ e.relief = d.relief ∧ e.slots = d.slots ∧ e.cal = d.cal ∧ e.calZeros = d.calZeros ∧ e.rcf = d.rcf ∧
    e.tcfTemp = d.tcfTemp ∧ e.qfreq = d.qfreq ∧ e.engines = d.engines ∧ e.er = d.er ∧ e.roles = d.roles ∧ e.freeze = d.freeze ∧
    e.vBound = d.vBound ∧ e.groups = d.groups ∧ e.fll = d.fll ∧ e.harm = d.harm ∧ e.evt = d.evt ∧ e.aux = d.aux ∧ e.mbox = d.mbox ∧
    e.sup = d.sup ∧ e.sess = d.sess ∧ e.rtc = d.rtc ∧ e.plc = d.plc ∧ e.pnl = d.pnl ∧ e.chn = d.chn ∧ e.cfgCapture = d.cfgCapture ∧
    e.cycHigh = d.cycHigh ∧ e.txen = d.txen ∧ e.freeCtr = d.freeCtr :=
  ⟨rfl, rfl, rfl, rfl, rfl, rfl, rfl, rfl, rfl, rfl, rfl, rfl, rfl, rfl, rfl, rfl, rfl, rfl, rfl, rfl, rfl, rfl, rfl, rfl, rfl, rfl, rfl, rfl, rfl, rfl, rfl, rfl, rfl, rfl, rfl, rfl, rfl, rfl, rfl, rfl, rfl, rfl, rfl, rfl, rfl, rfl, rfl, rfl, rfl, rfl, rfl, rfl, rfl, rfl, rfl, rfl, rfl, rfl, rfl, rfl, rfl, rfl⟩

@[simp] theorem Dev.fields_modGroup (g : Nat) (f : Group → Group) : let e := d.modGroup g f
    e.now = d.now ∧ e.instT = d.instT ∧ e.fuses = d.fuses ∧ e.inReset = d.inReset ∧ e.resetPin = d.resetPin ∧ e.regs = d.regs ∧
    e.act = d.act ∧ e.inst = d.inst ∧ e.staged = d.staged ∧ e.bound = d.bound ∧ e.shadow = d.shadow ∧ e.halves = d.halves ∧
    e.locks = d.locks ∧ e.cmPend = d.cmPend ∧ e.resp = d.resp ∧ e.miso = d.miso ∧ e.i2cResp = d.i2cResp ∧ e.pwr = d.pwr ∧
    e.modCnt = d.modCnt ∧ e.modOn = d.modOn ∧ e.syncDue = d.syncDue ∧ e.frameSeq = d.frameSeq ∧ e.cycN = d.cycN ∧
    e.cutoffPassed = d.cutoffPassed ∧ e.cycMark = d.cycMark ∧ e.blkMark = d.blkMark ∧ e.secMark = d.secMark ∧ e.swpMark = d.swpMark ∧
    e.blkCount = d.blkCount ∧ e.escCycN = d.escCycN ∧ e.framesCyc = d.framesCyc ∧ e.framesPrev = d.framesPrev ∧ e.halfMark = d.halfMark ∧
    e.chans = d.chans ∧ e.relief = d.relief ∧ e.slots = d.slots ∧ e.cal = d.cal ∧ e.calZeros = d.calZeros ∧ e.rcf = d.rcf ∧
    e.tcfTemp = d.tcfTemp ∧ e.qfreq = d.qfreq ∧ e.engines = d.engines ∧ e.er = d.er ∧ e.roles = d.roles ∧ e.freeze = d.freeze ∧
    e.vBound = d.vBound ∧ e.outs = d.outs ∧ e.fll = d.fll ∧ e.harm = d.harm ∧ e.evt = d.evt ∧ e.aux = d.aux ∧ e.mbox = d.mbox ∧
    e.sup = d.sup ∧ e.sess = d.sess ∧ e.rtc = d.rtc ∧ e.plc = d.plc ∧ e.pnl = d.pnl ∧ e.chn = d.chn ∧ e.cfgCapture = d.cfgCapture ∧
    e.cycHigh = d.cycHigh ∧ e.txen = d.txen ∧ e.freeCtr = d.freeCtr :=
  ⟨rfl, rfl, rfl, rfl, rfl, rfl, rfl, rfl, rfl, rfl, rfl, rfl, rfl, rfl, rfl, rfl, rfl, rfl, rfl, rfl, rfl, rfl, rfl, rfl, rfl, rfl, rfl, rfl, rfl, rfl, rfl, rfl, rfl, rfl, rfl, rfl, rfl, rfl, rfl, rfl, rfl, rfl, rfl, rfl, rfl, rfl, rfl, rfl, rfl, rfl, rfl, rfl, rfl, rfl, rfl, rfl, rfl, rfl, rfl, rfl, rfl, rfl⟩

end Derived

/-! ## A part read after it is written -/

theorem getD_setIfInBounds {α : Type} {n : Nat} (v : Vector α n) (i j : Nat) (x z : α) :
    (v.setIfInBounds i x).getD j z = if i = j ∧ j < n then x else v.getD j z := by
  by_cases hj : j < n
  · by_cases hi : i = j
    · subst hi; simp [Vector.getD, hj]
    · simp [Vector.getD, hj, hi]
  · simp [Vector.getD, hj]

theorem Dev.eng_setEng (d : Dev) (k j : Nat) (x : Engine) : (d.setEng k x).eng j = if k = j ∧ j < 5 then x else d.eng j :=
  getD_setIfInBounds ..

theorem Dev.chan_setChan (d : Dev) (k j : Nat) (x : Chan) : (d.setChan k x).chan j = if k = j ∧ j < 18 then x else d.chan j :=
  getD_setIfInBounds ..

theorem Dev.mb_setMb (d : Dev) (k j : Nat) (x : Mbox) : (d.setMb k x).mb j = if k = j ∧ j < 32 then x else d.mb j :=
  getD_setIfInBounds ..

theorem Dev.out_setOut (d : Dev) (k j : Nat) (x : PulseOut) : (d.setOut k x).out j = if k = j ∧ j < 4 then x else d.out j :=
  getD_setIfInBounds ..

theorem Dev.group_setGroup (d : Dev) (k j : Nat) (x : Group) : (d.setGroup k x).group j = if k = j ∧ j < 4 then x else d.group j :=
  getD_setIfInBounds ..

end Sys2Proof.Machine
end

