-- ==== Sys2Proof/Tests/Slice0.lean ====
section
/-! SUPPORT. Tests: operands that are refused, a state and operands that meet the hypotheses of each statement (the theorems `wit_`,
named after the statement), and values worked out from the spec (the theorems `test_`). -/
namespace Sys2Proof.Tests
open Sys2Proof Sys2Proof.Machine
set_option Elab.async false

/-! ## Helpers -/

/-- The state a command answers with, or none where it stops. -/
def nextOf (o : Host.Outcome State Fault Refusal) : Option State := match o with | .next t => some t | _ => none

/-- The answer is a next state with a property. -/
def nextB (o : Host.Outcome State Fault Refusal) (p : State → Bool) : Bool := match nextOf o with | some t => p t | none => false

/-- A change of the device, and of the store. -/
def dev (s : State) (f : Dev → Dev) : State := { s with chip := s.chip.onDev f }
def nvm (s : State) (f : Nvm → Nvm) : State := { s with chip := s.chip.onNvm f }

/-- After reset with every domain on, CK2 XTM verified, and the host masters at L1. -/
def up : State := dev State.reset fun d =>
  ((d.setReg A.pwrDom 0xFF).setReg A.secLevel 0x15).putBit A.clkStat 8 true

/-- The same on a device of the variant with the link and a panel of four commons and 32 segments. -/
def opt : State := dev up fun d => { d with fuses := { d.fuses with plc := true } }

def fetchesB (s : State) (e : Fin 5) (o : Op) (w : Word) (h : Handler) : Bool :=
  decide (s.chip.dev.held = false) && decide (s.chip.dev.on 5 = true) && decide ((s.chip.dev.eng e.val).cur = some h) &&
    decide ((s.chip.dev.eng e.val).pc < 4096) &&
    decide (SMap.get 0 (s.chip.dev.eng e.val).prog (s.chip.dev.eng e.val).pc = w) && decide (decodeOp w = some o) &&
    decide (h.paces + o.paces ≤ s.chip.dev.paceLimit e.val)

theorem fetches_of {s : State} {e : Fin 5} {o : Op} {w : Word} {h : Handler} (hb : fetchesB s e o w h = true) : s.fetches e o w h := by
  simp only [fetchesB, Bool.and_eq_true, decide_eq_true_eq] at hb
  obtain ⟨⟨⟨⟨⟨⟨a, b⟩, c⟩, d⟩, e⟩, f⟩, g⟩ := hb
  exact ⟨⟨a, b, c, d, e, f⟩, g⟩

def letsB (c : Chip) (m a : Nat) (w : Word) : Bool :=
  !c.dev.held && decide (m < 3 ∨ 8 ≤ m) && match c.dev.target a with
    | .ok r => r.typ == .cm && c.dev.admits m a r.gp && !(r.gs && c.dev.sealed) &&
        (c.value r m a false &&& w &&& wd r.cm) == 0#32 && (c.dev.ownRefuses a (c.dev.stored r m a) w).isNone
    | .error _ => false

theorem lets_of {c : Chip} {m a : Nat} {w : Word} (hb : letsB c m a w = true) : c.lets m a w := by
  unfold letsB at hb
  simp only [Bool.and_eq_true, Bool.not_eq_true', decide_eq_true_eq] at hb
  obtain ⟨⟨h0, hm⟩, h1⟩ := hb
  split at h1
  · next r hr =>
    simp only [Bool.and_eq_true, Bool.not_eq_true', beq_iff_eq, Option.isNone_iff_eq_none] at h1
    obtain ⟨⟨⟨⟨a, b⟩, c⟩, d⟩, e⟩ := h1
    exact ⟨h0, hm, r, hr, a, b, c, d, e⟩
  · cases h1

def holdsB (s : State) (i : Fin 4) (cls op : Nat) (h : HeldCmd) : Bool :=
  decide (s.chip.dev.held = false ∧ s.chip.dev.sup.held[i.val]? = some h ∧ h.started = false ∧
    fld (h.words.getD 0 0) 31 28 = cls ∧ fld (h.words.getD 0 0) 27 20 = op)

theorem holds_of {s : State} {i : Fin 4} {cls op : Nat} {h : HeldCmd} (hb : holdsB s i cls op h = true) : s.holds i cls op h := by
  unfold State.holds
  exact of_decide_eq_true hb

/-- A command of a class and code from HS at level 1, with its data words, and a state whose supervisor holds it first. -/
def cmd (cls op : Nat) (data : List Word) : HeldCmd :=
  { words := wd (cls * 2 ^ 28 + op * 2 ^ 20) :: data ++ List.replicate (15 - data.length) 0, sender := 0, priv := 1, started := false }
def holding (s : State) (h : HeldCmd) : State := dev s fun d => d.modSup fun u => { u with held := [h] }

/-! ## Operands out of range are refused, one for each check -/

theorem test_wf_packets : (Instr.crossfadeEnd [[⟨5, 0, 0⟩]]).wf = false ∧ (Instr.syncInstant [List.replicate 19 ⟨0, 0, 0⟩]).wf = false ∧
    (Instr.crossfadeEnd [[⟨4, -4, 0⟩]]).wf = true := by decide +kernel
theorem test_wf_offset : (Instr.offsetMeasured 0 [[⟨0, 5, 0⟩]]).wf = false ∧ (Instr.offsetMeasured 0 [[⟨4, -4, 0⟩]]).wf = true := by decide +kernel
theorem test_wf_retire : (Instr.cnvRetire .hs 32 0).wf = false ∧ (Instr.cnvRetire .hs 31 4).wf = false ∧
    (Instr.cnvRestore .hs 32 0).wf = false ∧ (Instr.cnvRestore .hs 0 3).wf = true := by decide +kernel
theorem test_wf_relief : (Instr.reliefStart .hs 0 32 0 true).wf = false ∧ (Instr.reliefStart .hs 0 0 256 true).wf = false ∧
    (Instr.reliefReturn .hs 0 256 true).wf = false ∧ (Instr.reliefReturn .hs 1 255 true).wf = true := by decide +kernel
theorem test_wf_addresses : (Instr.tableWordWrite .hs 0x083FFC 0).wf = false ∧ (Instr.tableWordWrite .hs 0x084000 0).wf = true ∧
    (Instr.aliasSet .hs 0x150000 0 0).wf = false ∧ (Instr.aliasClr .hs 0x080000 0 0).wf = false ∧
    (Instr.aliasTgl .hs 0x0BFFFC 0 0).wf = false ∧ (Instr.sqClear .hs 0x150000 0 0).wf = false ∧
    (Instr.nvmWrite .hs 0x440000 0 0).wf = false ∧ (Instr.nvmRead .hs 0x3FFFFC 0 []).wf = false ∧
    (Instr.nvmRead .hs 0x400000 0 []).wf = true := by decide +kernel
theorem test_wf_codewords : (Instr.pageinfoRead .hs [(0, .corrected), (0, .corrected)]).wf = false ∧
    (Instr.remap .hs [(1, .corrected), (1, .corrected)]).wf = false ∧ (Instr.scrubDone [(1024, [])]).wf = false ∧
    (Instr.scrubDone [(1023, [(0, .corrected)])]).wf = true := by decide +kernel
theorem test_wf_masters : (Instr.hostAccessTimeout .sv 0).wf = false ∧ (Instr.sessionTimeout .cl).wf = false ∧
    (Instr.sessionTimeout .hi).wf = true := by decide +kernel
theorem test_wf_calibration : (Instr.calZero .hs 32 false 1).wf = false ∧ (Instr.calFull .hs 0 false 256).wf = false := by decide +kernel
theorem test_wf_link : (Instr.sackReceived ⟨4096, 0, 0, 0, 0⟩).wf = false ∧ (Instr.sackReceived ⟨0, 256, 0, 0, 0⟩).wf = false ∧
    (Instr.toneMapMessage (.measured 4096 ⟨1, List.replicate 6 ⟨1, []⟩⟩)).wf = false ∧
    (Instr.toneMapMessage (.measured 1 ⟨1, List.replicate 5 ⟨1, []⟩⟩)).wf = false ∧
    (Instr.toneMapMessage (.measured 1 ⟨1, List.replicate 6 ⟨3, []⟩⟩)).wf = false ∧
    (Instr.toneMapMessage (.measured 1 ⟨1, List.replicate 6 ⟨1, [5]⟩⟩)).wf = false ∧
    (Instr.toneMapMessage (.measured 1 ⟨1, List.replicate 6 ⟨4, [4]⟩⟩)).wf = true := by decide +kernel

/-- A header and a frame of one block. -/
def hdr0 : DataHdr := ⟨0, 0, true, true, 2, 1, 1, 7, 0, 1, 0, 0, true, 1⟩
def frame0 : DataFrame := ⟨crc16 0xFFFF (beBytes 12 hdr0.word.toNat), hdr0, 0, [⟨[1, 2], crc16 0xFFFF [1, 2], [1, 2]⟩], 20, 5, 2, 0, true⟩

theorem test_wf_frame : frame0.wf = true ∧ ({ hdr0 with pri := 4 } : DataHdr).wf = false ∧ ({ hdr0 with typ := 16 } : DataHdr).wf = false ∧ ({ hdr0 with src := 4096 } : DataHdr).wf = false ∧
    ({ hdr0 with dst := 4096 } : DataHdr).wf = false ∧ ({ hdr0 with fdst := 4096 } : DataHdr).wf = false ∧
    ({ hdr0 with hops := 8 } : DataHdr).wf = false ∧ ({ hdr0 with seq := 256 } : DataHdr).wf = false ∧
    ({ hdr0 with nblk := 0 } : DataHdr).wf = false ∧ ({ hdr0 with nblk := 65 } : DataHdr).wf = false ∧
    ({ hdr0 with tmid := 256 } : DataHdr).wf = false ∧ ({ hdr0 with sphase := 1024 } : DataHdr).wf = false ∧
    ({ hdr0 with nid := 256 } : DataHdr).wf = false ∧ ({ frame0 with blocks := [] } : DataFrame).wf = false ∧
    ({ frame0 with origSrc := 4096 } : DataFrame).wf = false := by decide +kernel

/-- An empty round. -/
def round0 : Round := roundSealed true
  ⟨0xB4E2, 0, 1, 1, List.replicate 8 ⟨false, false, false, 0⟩, List.replicate 4 ⟨0, 0⟩, List.replicate 16 noSlot⟩

theorem test_wf_round : round0.wf = true ∧ ({ round0 with status := [] } : Round).wf = false ∧ ({ round0 with cells := [] } : Round).wf = false ∧
    ({ round0 with cells := [⟨2 ^ 63, 0⟩, ⟨0, 0⟩, ⟨0, 0⟩, ⟨0, 0⟩] } : Round).wf = false ∧
    ({ round0 with status := List.replicate 8 ⟨true, true, true, 16⟩ } : Round).wf = false ∧
    ({ round0 with slots := [] } : Round).wf = false ∧ ({ noSlot with w := 16 } : RingSlot).wf = false ∧
    ({ noSlot with mbx := 32 } : RingSlot).wf = false ∧ ({ noSlot with dst := 8 } : RingSlot).wf = false ∧
    ({ noSlot with src := 8 } : RingSlot).wf = false ∧ ({ noSlot with result := 8 } : RingSlot).wf = false := by decide +kernel
theorem test_wf_ports : (Instr.spiReadFrame [] none).wf = false ∧ (Instr.spiWriteFrame []).wf = false ∧ (Instr.spiBroadcastWrite []).wf = false ∧
    (Instr.spiCsEarly []).wf = false ∧ (Instr.i2cRequest ⟨[], false⟩).wf = false ∧ (Instr.i2cRequest ⟨[0], true⟩).wf = true := by decide +kernel

/-! ## The machine as a whole -/

/-- The meaning of a command, the end of the queue, and the fetch words of the host. -/
theorem test_step : nextOf (step { up with pending := [.ping 0] }) = nextOf (exec (.ping 0) up) ∧ nextOf (step up) = some up ∧
    decodeTableWord 32 0 = none ∧ up.withFetchWord 32 0 = up := by decide +kernel

theorem wit_StoreStaysWellFormed : (nvm up fun n => n.putByte 5 7).Inv := by
  unfold State.Inv Nvm.Ok
  decide +kernel

/-! ## The engines -/

/-- Engine 0 in a handler at word 8, which holds w; d2 = 5, d3 = -3, d4 = 0, x1 = 2, a declared figure of 100 paces. -/
def hnd (k : HKind) : Handler := { kind := k, base := 0, paces := 10, stage := { res := [], resAny := false, pulses := [], evts := [] }
                                   frame := some ⟨7, List.replicate 16 3, 1, 2, 3, ⟨1, 2, 3, true, true, 4⟩, 0⟩ }
def eng (k : HKind) (w : Word) : State := dev up fun d =>
  (d.setReg (A.escEkW 0) 0x00640064).setReg (A.escEkWfault 0) 100 |>.modEng 0 fun e => { e with
    st := .running, prog := [(8, w)], pc := 8, cur := some (hnd k), d := [(2, 5), (3, -3)], a := [(1, 9)], x := [(1, 2), (2, 1)] }

theorem wit_fetch (k : HKind) (o : Op) (w : Word) (h : fetchesB (eng k w) 0 o w (hnd k) = true) : (eng k w).fetches 0 o w (hnd k) :=
  fetches_of h

/-- ADD d1,d2,d3 and its like, to ADDI d1,d2,0xFFFF. -/
theorem wit_ArithmeticSaturates : ∀ p ∈ [(Op.add, 0x04221800#32), (.sub, 0x04221801#32), (.neg, 0x04220002#32), (.abs, 0x04230003#32),
    (.min, 0x04221804#32), (.max, 0x04221805#32), (.addi, 0x0822FFFF#32)], (eng .sample p.2).fetches 0 p.1 p.2 (hnd .sample) :=
  fun p h => wit_fetch .sample p.1 p.2 ((by decide +kernel : ∀ p ∈ [(Op.add, 0x04221800#32), (.sub, 0x04221801#32), (.neg, 0x04220002#32),
    (.abs, 0x04230003#32), (.min, 0x04221804#32), (.max, 0x04221805#32), (.addi, 0x0822FFFF#32)],
    fetchesB (eng .sample p.2) 0 p.1 p.2 (hnd .sample) = true) p h)

/-- Every other instruction of a SAMPLE handler that has a witness below: each word is the encoding of its instruction. -/
def words : List (Op × Word) := [(.shl, 0x042205E6), (.shr, 0x04220007), (.shrr, 0x04220028), (.sat, 0x042205A9), (.mov, 0x0422000A),
  (.movFromX, 0x0421000B), (.movToX, 0x0422000C), (.movi, 0x0C20FFFF), (.movhi, 0x10228000), (.mul, 0x24221800), (.mac, 0x20886000),
  (.msu, 0x20886001), (.sqa, 0x20880002), (.aclr, 0x20800003), (.aadd, 0x20880004), (.amov, 0x20880085), (.div, 0x30221801),
  (.div, 0x30222001), (.sqrt, 0x30220000), (.sqrt, 0x30230000), (.cordVector, 0x30421802), (.cordVector, 0x30442002), (.cordRotate, 0x30440022),
  (.inPort, 0x40238000), (.inPort, 0x40240000), (.inPort, 0x40248000), (.inPort, 0x40250000), (.inq, 0x44238000), (.tld, 0x482607FD),
  (.tst, 0x4C260040), (.xld, 0x50800FFF), (.xadd, 0x54840FFF), (.xadd, 0x54800001), (.res, 0x58440000), (.resa, 0x5C210000),
  (.pulse, 0xC0478000), (.evt, 0xC8407F80), (.post, 0xC44F8C00), (.flagClrs, 0xCC000000), (.flagGetf, 0xCC208000), (.flagPutf, 0xCC410000),
  (.pace, 0xD0200000), (.pace, 0xD0208000), (.pace, 0xD0210000), (.pace, 0xD0218000), (.pace, 0xD0220000), (.cyc, 0xD4200000),
  (.cyc, 0xD4208000), (.cyc, 0xD4210000), (.cyc, 0xD4218000), (.cyc, 0xD4220000), (.br, 0x80000FFF), (.brc, 0x84000008), (.brc, 0x84800008),
  (.brc, 0x86882008), (.loop, 0x88800008), (.loop, 0x89000008), (.loop, 0x8B000008), (.call, 0x8C000008), (.ret, 0x90000000),
  (.yield, 0x94000000), (.trap, 0x98000123)]

theorem wit_words : ∀ p ∈ words, (eng .sample p.2).fetches 0 p.1 p.2 (hnd .sample) :=
  fun p h => wit_fetch .sample p.1 p.2 ((by decide +kernel :
    ∀ p ∈ words, fetchesB (eng .sample p.2) 0 p.1 p.2 (hnd .sample) = true) p h)

/-- The bounds of the clauses, each met by a word of the list: shifts of 47, SAT of 45, a divisor of 0, an even rd of CORD, ports 7 to 10,
the last table word and the first working one, an even RESA, PULSE 15, POST to mailbox 31, FLAG, PACE and CYC selections, and branches. -/
theorem wit_ShiftsClampAndMoves : fK 0x042205E6 = 47 ∧ fK 0x042205A9 = 45 ∧ fK 0x04220007 = 0 := by decide +kernel
theorem wit_DivisionRootAndCord : (let x := (eng .sample 0).chip.dev.eng 0
    x.dv (fRt 0x30221801) ≠ 0 ∧ x.dv (fRt 0x30222001) = 0 ∧ 0 ≤ x.dv (fRs 0x30220000) ∧ x.dv (fRs 0x30230000) < 0 ∧
    fRd 0x30421802 % 2 = 0 ∧ x.dv (fRs 0x30421802) ≠ 0 ∧ fRd 0x30442002 % 2 = 0 ∧ x.dv (fRs 0x30442002) = 0 ∧ x.dv (fRt 0x30442002) = 0 ∧
    fRd 0x30440022 % 2 = 0 ∧ x.dv (fRs 0x30440022) % 2 ^ 46 = 0) := by decide +kernel
theorem wit_FrameTableAndIndexReads : (let x := (eng .sample 0).chip.dev.eng 0
    fSel 0x40238000 = 7 ∧ fSel 0x40240000 = 8 ∧ fSel 0x40248000 = 9 ∧ fSel 0x40250000 = 10 ∧ fSel 0x44238000 = 7 ∧
    x.xv (fMXi 0x482607FD) + fDisp 0x482607FD = 2047 ∧ 64 * (eng .sample 0).chip.dev.af (A.escEkCfg 0) 4 0 ≤ x.xv (fMXi 0x4C260040) + fDisp 0x4C260040 ∧
    fXM 0x54840FFF = 4 ∧ fXM 0x54800001 = 0 ∧ (hnd .sample).frame ≠ none) := by decide +kernel
theorem wit_StagingWaits : fSel 0x5C210000 % 2 = 0 ∧ fSel 0xC0478000 = 15 ∧ (hnd .sample).stage.evts.length < 8 := by decide +kernel

/-- Engine 0 as `eng` has it, with some change. -/
def engWith (k : HKind) (w : Word) (f : Engine → Engine) : State := dev (eng k w) fun d => d.modEng 0 f

def fullQueue : List PostEntry := List.replicate 4 { mb := 3, w := 0, data := 0, go := false }

theorem wit_PostsFlagsAndFigures : fSel 0xC44F8C00 = 31 ∧ ((eng .sample 0xC44F8C00).chip.dev.eng 0).quiet = false ∧
    ((eng .sample 0xC44F8C00).chip.dev.eng 0).postq.length < 4 ∧ fullQueue.length = 4 ∧
    fetchesB (engWith .sample 0xC44F8C00 fun e => { e with postq := fullQueue }) 0 .post 0xC44F8C00 (hnd .sample) = true ∧
    fetchesB (engWith .sample 0xC44F8C00 fun e => { e with quiet := true }) 0 .post 0xC44F8C00 (hnd .sample) = true ∧
    (∀ k < 5, (words.filter fun p => p.1 == .pace && fSel p.2 == k).length = 1) ∧
    (∀ k < 5, (words.filter fun p => p.1 == .cyc && fSel p.2 == k).length = 1) := by decide +kernel

theorem wit_ControlFlow : (let x := (eng .sample 0).chip.dev.eng 0
    fTgt 0x80000FFF = 4095 ∧ fC 0x84000008 = 0 ∧ x.z = false ∧ fC 0x84800008 = 1 ∧ fC 0x86882008 = 5 ∧ fB 0x86882008 = 2 ∧
    x.xv (fC 0x88800008) = 2 ∧ x.xv (fC 0x89000008) = 1 ∧ x.xv (fC 0x8B000008) = 0 ∧ fTgt 0x8C000008 = 8 ∧ x.stack.length < 8) ∧
    fetchesB (engWith .sample 0x90000000 fun e => { e with stack := [8] }) 0 .ret 0x90000000 (hnd .sample) = true ∧
    (hnd .sample).base < [8].length ∧
    fetchesB (eng .mail 0x94000000) 0 .yield 0x94000000 (hnd .mail) = true ∧ (hnd .mail).kind.background = true ∧
    ((eng .mail 0x94000000).chip.dev.eng 0).fifo = [] := by decide +kernel

theorem wit_EngineFaults : (eng .sample 0x30221801).standsAt 0 .div 0x30221801 (hnd .sample) ∧
    (let s := dev (eng .sample 0x30221801) fun d => d.setReg (A.escEkW 0) 35
     s.standsAt 0 .div 0x30221801 (hnd .sample) ∧ s.chip.dev.paceLimit 0 < (hnd .sample).paces + Op.paces .div) ∧
    (hnd .sample).kind ≠ .fault ∧ decodeOp 0 = none ∧ ((engWith .sample 0 fun e => { e with pc := 4096 }).chip.dev.eng 0).cur = some (hnd .sample) := by
  unfold State.standsAt
  decide +kernel

/-! ## Channels, filters, events -/

/-- An order that the fabric lets in and that answers with its effect. -/
def ordB (s : State) (m : Master) (a : Nat) (f : Word → Word) (i : Instr) (g : Dev → Dev) : Bool :=
  letsB s.chip m.id a (f (s.chip.dev.plain a)) && nextOf (exec i s) == some (s.took m a f g)

/-- An order that the fabric lets in. -/
def letB (s : State) (m : Master) (a : Nat) (f : Word → Word) : Bool := letsB s.chip m.id a (f (s.chip.dev.plain a))

def twoEvents : State := dev up fun d => { d with evt := { d.evt with fifo := [⟨1, 2, 3, 4⟩, ⟨5, 6, 7, 8⟩] } }
def setF (s : State) (a hi lo v : Nat) : State := dev s fun d => d.putFld a hi lo v

theorem wit_EventAndSyncOrders :
    ordB twoEvents .hs A.evtCmd (fun w => setBit w 0 true) (.evtPop .hs) (fun d =>
      { d with evt := { d.evt with fifo := [⟨5, 6, 7, 8⟩] } }.putBit A.evtStat 3 true) = true ∧
    letB twoEvents .hs A.evtCmd (fun w => setBit w 1 true) = true ∧ letB up .hs A.hrmCmd (fun w => setBit w 0 true) = true ∧
    letB (dev up fun d => { d with bound := [(d.nextBoundary, .blkSync)] }) .hs A.hrmCmd (fun w => setBit w 0 true) = true ∧
    letB (dev up fun d => { d with modOn := true }) .hs A.fltSync (fun w => setBit w 0 true) = true ∧
    letB (dev up fun d => { d with fuses := { d.fuses with id := 5 } }) .hs A.fltSync (fun w => setBit w 0 true) = true ∧
    ordB (dev up fun d => { d with fuses := { d.fuses with id := 5 } }) .hs A.fltSync (fun w => setBit w 0 true) (.fltSyncGo .hs)
      (fun d => d.raiseSq A.fltStat 0x4) = true := by decide +kernel

/-- Bank A off. -/
def bankOff : State := setF up A.pwrDom 7 0 0xFB

def ret (op sl ch : Nat) (w : Word) : Word := setFld (setFld (setFld (setBit w 8 true) 7 7 op) 6 5 sl) 4 0 ch

theorem wit_SliceOrders :
    ordB up .hs A.cnvRetcmd (ret 0 2 17) (.cnvRetire .hs 17 2) (fun d => d.bind (.retire 17 2)) = true ∧
    ordB up .hs A.cnvRetcmd (ret 1 0 0) (.cnvRestore .hs 0 0) (fun d => d.bind (.restore 0 0)) = true ∧
    ordB up .hs A.cnvRetcmd (ret 0 3 4) (.cnvRetire .hs 4 3) (fun d => d.raiseSq (A.cnvCHkStat 4) 0x40) = true ∧
    ordB bankOff .hs A.cnvRetcmd (ret 0 0 0) (.cnvRetire .hs 0 0) (fun d => d.setRetired 0 0 true) = true ∧
    ordB bankOff .hs A.cnvRetcmd (ret 1 0 0) (.cnvRestore .hs 0 0) (fun d => d.setRetired 0 0 false) = true ∧
    ordB (dev bankOff fun d => (d.setRetired 0 1 true).setRetired 0 2 true) .hs A.cnvRetcmd (ret 0 0 0) (.cnvRetire .hs 0 0) id = true ∧
    (let s := dev up fun d => d.modChan 0 fun c => { c with s2 := { c.s2 with role := .retired } }
     (s.chip.dev.chan 0).mode = 1 ∧ letB s .hs (A.cnvCHkCmd 0) (fun w => setBit w 0 true) = true) := by decide +kernel

theorem wit_SliceMonitorsAndRotation :
    letB up .hs A.cnvRefcmd (fun w => setBit w 0 true) = true ∧
    (let s := setF up A.cnvRefdiff 31 31 1
     letB s .hs A.cnvRefcmd (fun w => setBit w 1 true) = true ∧ s.chip.dev.rb A.cnvRefstat 4 = false) ∧
    (setF up A.cnvRefstat 4 4 1).chip.dev.rb A.cnvRefstat 4 = true ∧ up.chip.dev.on 2 = true ∧
    (setF up A.cnvClamp 2 2 1).chip.dev.rb A.cnvClamp 2 = true ∧ up.chip.dev.chanOn 17 = true ∧
    (let s := dev up fun d => d.modChan 17 fun c => { c with s0 := { c.s0 with role := .serving }, s1 := { c.s1 with role := .standby }
                                                             s2 := { c.s2 with role := .resting, rest := some (33088, 2 ^ 20) } }
     (s.chip.dev.chan 17).inRole .resting = [2] ∧ ((s.chip.dev.chan 17).slice 2).rest = some (33088, 2 ^ 20) ∧
     (nextB (exec (.offsetMeasured 17 []) s) fun t => ((t.chip.dev.chan 17).slice 2).ofs == 2 ^ 23 - 1 &&
       ((t.chip.dev.chan 17).slice 2).ofsValid && t.chip.dev.chan 16 == s.chip.dev.chan 16) = true) ∧
    (let s := dev up fun d => d.modChan 5 fun c => { c with xfade := some ⟨[0, 1], 64⟩ }
     (nextB (exec (.crossfadeEnd []) s) fun t => (List.range 18).all fun k => decide ((t.chip.dev.chan k).xfade = none)) = true) := by decide +kernel

theorem wit_MarksAndBoundaries : up.chip.dev.held = false ∧ up.chip.dev.xtmOk = true ∧
    (let d := (dev up fun d => { d with modOn := true, syncDue := 1 }).chip.dev
     d.modOn = true ∧ 0 < d.syncDue ∧ d.chanOn 17 = true) ∧
    (let s := dev up fun d => { d.putBit A.clkCycstat 3 true with fll := { d.fll with lastX := some 0 } }
     s.chip.dev.fll.lastX = some 0 ∧ s.chip.dev.locked = true ∧ (nextB (exec (.lockLossTimeout 424056) s) fun u => !u.chip.dev.locked &&
       u.chip.dev.fll.period == 327680 && u.chip.dev.rb A.clkCycstat 1) = true) ∧ up.chip.dev.locked = false ∧
    (let s := dev up fun d => { d with cycHigh := true }
     s.chip.dev.cycHigh = true ∧ (nextB (exec .cycTick512 s) fun t => t.chip.dev.halfMark && !t.chip.dev.cycHigh) = true) ∧
    (let s := dev up fun d => { d with modOn := true, modCnt := presetD d.framePreset + 32, cycMark := true, fll := { d.fll with due := 327680 } }
     instantAt s.chip.dev.framePreset s.chip.dev.modCnt = true ∧ instantAt s.chip.dev.framePreset (s.chip.dev.modCnt + 1) = false ∧
     s.chip.dev.isCutoff 327679 = true ∧ s.chip.dev.isCutoff 327680 = false) ∧
    (let d := (dev State.reset fun d => d.putBit A.clkStat 8 true).chip.dev
     d.xtmOk = true ∧ d.locked = false ∧ d.bound = [] ∧ d.staged = [] ∧ (∀ n < 8, 2 ≤ n → d.on n = false) ∧
     d.relief = #v[Relief.idle, Relief.idle] ∧ d.cal = none ∧ d.rlState 0 = 0 ∧ d.rlState 1 = 0 ∧ d.er = EngineRelief.zero) := by
  decide +kernel

def cyc0 : HCyc := { t0 := 0, t1 := 327680, count := 1, len := 327680, valid := true, preset := 0, nom60 := false, ends := 2 }

theorem wit_HarmonicPosts :
    (let d := (dev up fun d => d.modHrm 3 fun u => { u with wait := [cyc0], pts := List.replicate 12 ⟨327680, [], []⟩ }).chip.dev
     (d.hrm 3).wait = [cyc0] ∧ 12 ≤ ((d.hrm 3).pts.filter fun p => decide (cyc0.t1 ≤ p.t)).length) ∧
    (((dev up fun d => d.modHrm 0 fun u => { u with blkWait := some ([], true) }).chip.dev.hrm 0).blkWait = some ([], true)) := by
  decide +kernel

/-! ## Relief and calibration -/

def start (auto : Bool) (k cyc : Nat) (w : Word) : Word := setFld (setFld (setBit (goOp 1 w) 27 auto) 20 16 k) 15 8 cyc
/-- Unit u in a state with a target. -/
def unitIn (u st target : Nat) : State := setF (setF up (A.cnvRLxStat u) 23 20 st) (A.cnvRLxJob u) 20 16 target

theorem wit_ReliefCommands :
    ordB up .hs (A.cnvRLxCmd 1) (start true 15 255) (.reliefStart .hs 1 15 255 true) (fun d => d.bind (.rlStart 1 15 255 true)) = true ∧
    ordB (unitIn 0 8 3) .hs (A.cnvRLxCmd 0) (start false 0 0) (.reliefStart .hs 0 0 0 false) (fun d => d.bind (.rlStart 0 0 0 false)) = true ∧
    ordB (unitIn 0 3 3) .hs (A.cnvRLxCmd 0) (fun w => setBit (goOp 2 w) 26 false) (.reliefSwap .hs 0 false) (fun d => d.bind (.rlSwap 0)) = true ∧
    letB (unitIn 0 7 3) .hs (A.cnvRLxCmd 0) (fun w => setBit (goOp 2 w) 26 true) = true ∧
    (let f := fun w => setFld (setBit (goOp 3 w) 27 true) 15 8 255
     let d := (unitIn 0 4 3).loaded .hs (A.cnvRLxCmd 0) f
     letB (unitIn 0 4 3) .hs (A.cnvRLxCmd 0) f = true ∧ (d.ownCfg 3).preset = (d.chCfg 16).preset ∧ (d.ownCfg 3).rank = (d.chCfg 16).rank ∧
     (d.ownCfg 3).resp = (d.chCfg 16).resp) ∧
    letB (unitIn 0 1 3) .hs (A.cnvRLxCmd 0) (goOp 4) = true ∧ letB (unitIn 1 7 3) .hs (A.cnvRLxCmd 1) (goOp 4) = true ∧
    letB up .hs (A.cnvRLxCmd 0) (goOp 5) = true ∧ letB (unitIn 1 8 3) .hs (A.cnvRLxCmd 1) (goOp 6) = true ∧
    letB (unitIn 0 1 3) .hs (A.cnvRLxCmd 0) (start true 5 1) = true ∧
    ordB bankOff .hs (A.cnvRLxCmd 0) (start true 0 1) (.reliefStart .hs 0 0 1 true)
      (fun d => (d.putFld (A.cnvRLxStat 0) 19 16 3).raiseSq (A.cnvRLxStat 0) 0x4) = true ∧
    ordB (unitIn 1 1 3) .hs (A.cnvRLxCmd 0) (start true 3 1) (.reliefStart .hs 0 3 1 true)
      (fun d => (d.putFld (A.cnvRLxStat 0) 19 16 4).raiseSq (A.cnvRLxStat 0) 0x4) = true ∧
    ordB (setF (unitIn 0 3 3) (A.cnvRLxStat 0) 6 6 1) .hs (A.cnvRLxCmd 0) (fun w => setBit (goOp 2 w) 26 false) (.reliefSwap .hs 0 false)
      (fun d => (d.putFld (A.cnvRLxStat 0) 19 16 8).raiseSq (A.cnvRLxStat 0) 0x4) = true ∧
    (let d := (dev (unitIn 0 2 3) fun d => d.modUnit 0 fun r => { r with sinceB1 := 72 }).chip.dev
     d.rlState 0 = 2 ∧ 4 * max 4 (d.unit 0).matchcyc + 8 ≤ (d.unit 0).sinceB1 ∧ d.bound = []) := by decide +kernel

def cal0 (run : Bool) : CalUnit := ⟨false, 0, false, false, 1, run, 0, 12, 0, ⟨0, 1⟩, ⟨0, 1⟩, false⟩

theorem wit_CalibrationOrders :
    letB up .hs A.cnvCalcmd (fun w => setFld (setFld (setBit (goOp 1 w) 27 false) 20 16 15) 15 8 255) = true ∧
    (let s := dev up fun d => { d with slots := #v[1, 1, 2, 3, 4, 5, 6, 7, 8, 9, 10, 11, 12, 13, 14, 15] }
     letB s .hs A.cnvCalcmd (fun w => setFld (setFld (setBit (goOp 1 w) 27 true) 20 16 0) 15 8 0) = true ∧ ∀ x ∈ s.chip.dev.slots, x.val ≠ 0) ∧
    (let s := dev up fun d => { d with calZeros := [(0, 0)] }
     letB s .hs A.cnvCalcmd (fun w => setFld (setFld (setBit (goOp 2 w) 26 true) 20 16 0) 15 8 0) = true ∧ s.chip.dev.cal = none ∧
     (SMap.find s.chip.dev.calZeros 0).isSome = true ∧ s.chip.dev.chanOn 0 = true) ∧
    letB (dev up fun d => { d with cal := some (cal0 false) }) .hs A.cnvCalcmd (goOp 3) = true ∧
    letB up .hs A.cnvPtrlCmd (fun w => setBit (setBit w 0 true) 1 true) = true ∧
    letB up .hs A.cnvPtrlCmd (fun w => setBit (setBit w 0 false) 1 false) = true ∧
    (cal0 true).running = true ∧ 4 * (cal0 true).ncyc + 8 ≤ (cal0 true).since := by decide +kernel

/-! ## Engines, mailboxes of engines, engine relief, pulses, updates -/

def onEng (s : State) (k : Nat) (f : Engine → Engine) : State := dev s fun d => d.modEng k f
def inSt (s : State) (k : Nat) (st : EState) : State := onEng s k fun x => { x with st := st }
def measured (s : State) (k : Nat) : State := setF s (A.escEkStat k) 15 15 1
def noStage : Stage := ⟨[], false, [], []⟩
def frame1 : Frame := ⟨5, [], 0, 0, 0, ⟨0, 0, 0, false, false, 0⟩, 0⟩
/-- Engine 0 measured, with a dispatch table for SAMPLE and figures that fit. -/
def ready0 : State := setF (onEng (measured up 0) 0 fun x => { x with prog := [(0, wd 0x80000010)] }) (A.escEkW 0) 15 0 100

theorem wit_EngineCommands :
    ordB ready0 .hs (A.escEkCmd 0) (goOp 1) (.admitEngine .hs 0) (fun d =>
      (((d.modEng 0 fun x => { x with st := .armed }).putFld (A.escEkStat 0) 23 20 2).raiseSq (A.escEkStat 0) 0x1).bind (.admitting 0)) = true ∧
    ordB (inSt up 1 .armed) .hs (A.escEkCmd 1) (goOp 2) (.engineStop .hs 1) (fun d =>
      ((d.unbind (· == .admitting 1)).modEng 1 fun x => { x with st := .idle }).putFld (A.escEkStat 1) 23 20 1) = true ∧
    (let s := inSt (dev up fun d => d.modGroup 0 fun g => { g with base := true }) 0 .running
     ordB s .hs (A.escEkCmd 0) (goOp 2) (.engineStop .hs 0) (fun d => (d.unbind (· == .stop 0)).bind (.stop 0)) &&
     (s.chip.dev.rolesOf 0).all fun g => (s.chip.dev.group g).base) = true ∧
    (let s := onEng (inSt up 2 .faulted) 2 fun x => { x with d := [(1, 2)], stack := [3], fifo := [frame1], results := [(1, 5)] }
     letB s .hs (A.escEkCmd 2) (goOp 3) && nextB (exec (.engineClear .hs 2) s) fun t =>
       (t.chip.dev.eng 2).st == .idle && (t.chip.dev.eng 2).d == [] && (t.chip.dev.eng 2).stack == [] && (t.chip.dev.eng 2).fifo == [] &&
       (t.chip.dev.eng 2).results == [(1, 5)] && t.chip.dev.epoch 5 == s.chip.dev.epoch 5 + 1) = true ∧
    letB (inSt up 3 .released) .hs (A.escEkCmd 3) (goOp 3) = true ∧
    (let no := fun (s : State) (e : Fin 5) (cause : Nat) => ordB s .hs (A.escEkCmd e.val) (goOp 1) (.admitEngine .hs e) fun d =>
       (d.putFld (A.escEkStat e.val) 19 16 cause).raiseSq (A.escEkStat e.val) 0x4
     no (measured up 4) 4 4 && no (inSt ready0 0 .armed) 0 4 && no up 0 2 && no (measured up 0) 0 5 &&
     no (setF ready0 (A.escEkW 0) 31 16 0xFFFF) 0 3 &&
       no (dev ready0 fun d => { d with er := { d.er with takeBound := some (.frame 0) } }) 0 7) = true := by decide +kernel

theorem wit_FigureAndDispatch :
    ordB up .hs (A.escEkCmd 4) (fun w => setBit w 1 true) (.pacemaxrst .hs 4) (fun d => d.putFld (A.escEkPace 4) 31 16 0) = true ∧
    ordB up .hs (A.escEkCmd 0) (fun w => setBit w 0 true) (.slackrst .hs 0) (fun d => d.putFld (A.escEkSlack 0) 15 0 0x7FFF) = true ∧
    nextB (exec (.hairspringMeasure 1 0xFFFF) up) (fun t =>
      t.chip.dev.rf (A.escEkPace 1) 31 16 == 0xFFFF && t.chip.dev.rb (A.escEkStat 1) 15 && t.chip.dev.rb (A.escEkStat 1) 7) = true ∧
    (let all := onEng (inSt up 0 .running) 0 fun x =>
       { x with prog := [(0, wd 0x80000010), (1, wd 0x80000020), (2, wd 0x80000030), (3, wd 0x80000040), (4, wd 0x80000050)],
                fifo := [frame1], evCycle := true, evBlock := true, evSecond := true, evMail := true, z := true, s := true }
     let at_ := fun (f : Engine → Engine) (k : HKind) (pc : Nat) => nextB (exec (.handlerDispatch 0) (onEng all 0 f)) fun t =>
       let y := t.chip.dev.eng 0
       y.pc == pc && !y.z && y.s && match y.cur with | some h => decide (h.kind = k) && h.base == 0 && decide (h.stage = noStage) | none => false
     at_ id .sample 16 && at_ (fun x => { x with fifo := [] }) .cycle 32 && at_ (fun x => { x with fifo := [], evCycle := false }) .block 48 &&
       at_ (fun x => { x with fifo := [], evCycle := false, evBlock := false }) .second 64 &&
       at_ (fun x => { x with fifo := [], evCycle := false, evBlock := false, evSecond := false }) .mail 80) = true ∧
    nextOf (exec (.handlerDispatch 0) (inSt up 0 .shadow)) = some (inSt up 0 .shadow) := by decide +kernel

def handler (k : HKind) (st : Stage) : Handler := ⟨k, 0, 0, st, none⟩
/-- Engine 0 runs a handler and stands at a word. -/
def standing (k : HKind) (st : Stage) (w : Word) : State :=
  onEng (setF (inSt up 0 .running) (A.escEkW 0) 31 16 100) 0 fun x => { x with prog := [(100, w)], pc := 100, cur := some (handler k st) }

theorem wit_BackgroundCommit :
    (let st : Stage := ⟨[(3, 7), (4, 8), (3, 9)], true, [], []⟩
     let w : Word := ((words.find? fun p => decide (p.1 = Op.ret)).map (·.2)).getD 0
     let s := standing .cycle st w
     fetchesB s 0 .ret w (handler .cycle st) && (s.chip.dev.eng 0).stack.length == 0 && s.chip.dev.freeze.isNone &&
     nextB (exec (.ret 0 false 0) s) fun t => (t.chip.dev.eng 0).cur.isNone && (t.chip.dev.eng 0).results == [(3, 9), (4, 8)] &&
       t.chip.dev.rf (A.escEkResseq 0) 31 0 == 1) = true := by decide +kernel

def post1 (mb : Fin 32) (w : Fin 16) (go : Bool) : PostEntry := ⟨mb, w, 0x1234, go⟩
def posting (mb : Fin 32) (w : Fin 16) (go : Bool) : State := onEng up 0 fun x => { x with postq := [post1 mb w go, post1 0 0 false] }

theorem wit_PostDelivery :
    nextB (exec (.postQueueDeliver 0) (posting 2 3 true)) (fun t => t.chip.dev.reg (mbDataAt 2 3) == 0x1234#32 && (t.chip.dev.mb 2).full &&
      (t.chip.dev.mb 2).mseq == 1 && fld (t.chip.dev.reg (A.mbxMnStamp 2)) 11 8 == 3 && (t.chip.dev.eng 0).postq.length == 1) = true ∧
    (up.chip.dev.mb 2).high ≤ 16 ∧ 3 < up.chip.dev.mbSize 2 ∧ up.chip.dev.rxOff (up.chip.dev.mbRx 2) = false ∧
    (let s := dev (posting 2 15 false) fun d => d.setMb 2 { d.mb 2 with full := true }
     nextB (exec (.postQueueDeliver 0) s) fun t => (t.chip.dev.eng 0).postRefused == 1 && decide (t.chip.dev.mbox = s.chip.dev.mbox)) = true := by
  decide +kernel

/-- PD5 ESC is on and no seal is held: a master of SESSION level writes the window of an engine. -/
theorem wit_TableWords :
    (let s := onEng (dev up fun d => { d with halves := [(0, (winTag 0 0, 0xABCD))] }) 0 fun x => { x with st := .released }
     s.chip.dev.admits 0 0x084000 true && !s.chip.dev.sealed && s.chip.dev.fuses.engine 0 && s.chip.dev.windowEngine 0 0x084000 == 0 &&
     nextB (exec (.tableWordWrite .hs 0x084000 0x12345678) s) fun t => decide (t.chip.dev.resp = .done) &&
       decide ((t.chip.dev.eng 0).table = SMap.set 0 [] 0 (BitVec.ofNat 48 (s.chip.dev.heldHalf 0 0 0 * 2 ^ 32 + 0x12345678))) &&
       SMap.find t.chip.dev.halves 0 == none) = true ∧
    nextB (exec (.tableWordWrite .hs 0x0B7FF8 5) (inSt up 3 .armed)) (fun t => (t.chip.dev.eng 3).tqueue == [⟨2047, 5, none, false, false⟩]) = true ∧
    (let q := List.replicate 16 (⟨0, 0, none, false, false⟩ : TableEntry)
     let s := onEng (inSt up 0 .running) 0 fun x => { x with tqueue := q }
     nextB (exec (.tableWordWrite .hs 0x084008 5) s) fun t => decide (t.chip.dev.resp = .err 9) && decide (t.chip.dev.eng 0 = s.chip.dev.eng 0)) =
      true ∧
    (let s := onEng up 1 fun x => { x with tqueue := [⟨1, 7, none, true, false⟩, ⟨2, 8, none, false, false⟩, ⟨1, 9, none, true, false⟩] }
     nextB (exec (.queuedTableWrite 1) s) fun t => (t.chip.dev.eng 1).table == [(1, 9)] && (t.chip.dev.eng 1).tqueue == [⟨2, 8, none, false, false⟩]) =
      true := by decide +kernel

/-- Mailbox 3 is addressed to engine 0 with its inbox at word 1984. -/
def mailed : State := dev (setF (setF (inSt up 0 .running) (A.mbxMnCfg 3) 26 16 1984) (A.mbxMnCfg 3) 3 0 3) fun d =>
  (d.setMb 3 { d.mb 3 with full := true }).setReg (mbDataAt 3 1) 0x55AA

theorem wit_MailboxCopied : mailed.chip.dev.tsplit 0 ≤ 1984 ∧
    (∀ k : Fin 32, ((mailed.chip.dev.mb k.val).full = true ∧ 0 ∈ mailed.chip.dev.copyTo k.val ∧ k ∉ (mailed.chip.dev.eng 0).mailCopied) ↔ k = 3) ∧
    nextB (exec (.mailboxCopy 0) mailed) (fun t =>
      let y := t.chip.dev.eng 0
      decide (SMap.get 0 y.table 1984 = mailed.chip.dev.inboxHead 3) && decide (SMap.get 0 y.table 1986 = 0x55AA#48) &&
      decide (3 ∈ y.mailCopied) && decide (t.chip.dev.mbox = mailed.chip.dev.mbox)) = true := by decide +kernel

/-- Engine relief with E4 measured. -/
def e4 (f : EngineRelief → EngineRelief) : State := dev (measured (inSt up 0 .running) 4) fun d => { d with er := f d.er }

theorem wit_EngineReliefOrders :
    (let f := fun w => setFld (setBit (goOp 1 w) 25 true) 17 16 0
     ordB (e4 id) .hs A.escRlfCmd f (.snap .hs 0 true) fun d =>
       (({ d with er := { d.er with group := 0, snapWait := true } } : Dev).modEng 4 fun x => { x with st := .snap }).putFld
         (A.escEkStat 4) 23 20 6) = true ∧
    ((e4 id).loaded .hs A.escRlfCmd fun w => setFld (setBit (goOp 1 w) 25 true) 17 16 0).declared 0 ≤
      admitA (e4 id).chip.dev.framePreset (e4 id).chip.dev.boundNow ∧
    (let s := inSt (e4 fun r => { r with shadow := some 4 }) 4 .shadow
     let f := fun w => setBit (setBit (setBit (goOp 2 w) 27 true) 26 false) 25 true
     ordB s .hs A.escRlfCmd f (.takeover .hs true false true) fun d => { d with er := { d.er with takeBound := some (.frame 0) } }) = true ∧
    (let s := setF (inSt (e4 fun r => { r with shadow := some 4 }) 4 .shadow) A.escRlfStat 5 5 1
     let f := fun w => setBit (setBit (setBit (goOp 2 w) 27 false) 26 true) 25 true
     ordB s .hs A.escRlfCmd f (.takeover .hs false true true) fun d =>
       { d with er := { d.er with takeBound := some (.cycle d.nextBoundary) } }) = true ∧
    (let s := measured (inSt (dev (e4 id) fun d => { d with roles := #v[4, 1, 2, 3] }) 0 .released) 0
     let f := fun w => setBit (setBit (setBit (goOp 3 w) 27 true) 26 false) 25 false
     s.chip.dev.holder 0 = 4 ∧
     ordB s .hs A.escRlfCmd f (.handback .hs true false false) fun d => { d with er := { d.er with handWait := true, handNow := true } }) ∧
    (let s := inSt (e4 fun r => { r with shadow := some 4 }) 4 .shadow
     ordB s .hs A.escRlfCmd (goOp 4) (.engineReliefAbort .hs) fun d =>
       { d with er := { d.er with snapWait := false, handWait := false, abortDue := true } }) = true := by decide +kernel

/-- The parts of an engine that a copy takes over. -/
def sameB (x y : Engine) : Bool := y.st == .shadow && y.prog == x.prog && y.table == x.table && y.d == x.d && y.s == x.s &&
  y.results == x.results && y.fifo == [] && y.cur.isNone

theorem wit_ReliefCopiesAndRoles :
    (let s := onEng (e4 fun r => { r with snapWait := true }) 0 fun x => { x with d := [(2, 3)], s := true, results := [(1, 2)] }
     nextB (exec .snapCopy s) fun t => sameB (s.chip.dev.eng 0) (t.chip.dev.eng 4) && !t.chip.dev.er.snapWait &&
       t.chip.dev.er.shadow == some 4 && t.chip.dev.rb A.escRlfStat 0) = true ∧
    (let s := onEng (inSt (e4 fun r => { r with handWait := true, handNow := true }) 4 .running) 4 fun x => { x with d := [(2, 3)] }
     nextB (exec .handbackCopy s) fun t => sameB (s.chip.dev.eng 4) (t.chip.dev.eng 0) && !t.chip.dev.er.handWait &&
       decide (t.chip.dev.er.handBound = some (.frame 0))) = true ∧
    (let s := inSt (e4 fun r => { r with snapWait := true }) 4 .snap
     nextB (exec .snapTimeout s) fun t => (t.chip.dev.eng 4).st == .idle && !t.chip.dev.er.snapWait && t.chip.dev.rf A.escRlfStat 19 16 == 5 &&
       t.chip.dev.rb A.escRlfStat 1) = true ∧
    (let s := e4 fun r => { r with handWait := true }
     nextB (exec .handbackTimeout s) fun t => decide (t.chip.dev.roles = s.chip.dev.roles) && t.chip.dev.rf A.escRlfStat 19 16 == 5) = true ∧
    (let s := inSt (e4 fun r => { r with passing := some (4, 7) }) 4 .running
     s.chip.dev.holder 0 = 0 ∧ (nextB (exec .engineReleased s) fun t => t.chip.dev.holder 0 == 4 && t.chip.dev.er.passing.isNone &&
       (t.chip.dev.eng 0).st == .released && (t.chip.dev.eng 4).st == .running && t.chip.dev.rb A.escRlfStat 2) = true) ∧
    (let s := inSt (dev (e4 fun r => { r with passing := some (0, 7) }) fun d => { d with roles := #v[4, 1, 2, 3] }) 4 .running
     nextB (exec .engineReleased s) fun t => t.chip.dev.holder 0 == 0 && (t.chip.dev.eng 4).st == .idle && t.chip.dev.rb A.escRlfStat 3) =
      true := by decide +kernel

theorem wit_SourceOrders :
    (let s := dev up fun d => (d.modGroup 1 fun g => { g with base := false }).bind (.srcEngine 1)
     letB s .hs (A.bimGgSrccmd 1) (fun w => setFld (setBit w 31 true) 30 29 1) && nextB (exec (.sourceBase .hs 1) s) fun t =>
       (t.chip.dev.group 1).base && t.chip.dev.rb (A.bimGgSrc 1) 31 && t.chip.dev.rf (A.bimGgSrc 1) 18 16 == 5 &&
       t.chip.dev.reg (A.bimGgFbseq 1) == wd s.chip.dev.frameSeq && t.chip.dev.rb (A.bimGgStat 1) 0 && t.chip.dev.bound == []) = true ∧
    (let s := dev (inSt up 0 .running) fun d => d.modGroup 0 fun g => { g with base := true }
     ordB s .hs (A.bimGgSrccmd 0) (fun w => setFld (setBit w 31 true) 30 29 2) (.sourceEngine .hs 0) fun d => d.bind (.srcEngine 0)) = true := by
  decide +kernel

/-- Output 0 enabled, a stage of T set. -/
def pulsing (o : PulseOut → PulseOut) : State := dev up fun d => { d.setOut 0 (o (d.out 0)) with act := [(A.bimCFnCfg 0, setFld (d.active (A.bimCFnCfg 0)) 0 0 1)] }

theorem wit_PulseGeneration : up.chip.dev.on 5 = true ∧ up.chip.dev.xtmOk = true ∧
    (let s := pulsing fun o => { o with p := 2 ^ 80, idle := 32, h := 7, rate := 9 }
     s.chip.dev.ab (A.bimCFnCfg 0) 0 = true ∧ (s.chip.dev.cfT 0 : Int) ≤ 2 ^ 80 ∧
     (nextB (exec (.pulseStart 0) s) fun u => decide ((u.chip.dev.out 0).p = 2 ^ 80 - s.chip.dev.cfT 0) && (u.chip.dev.out 0).active &&
       u.chip.dev.rf (A.bimCFnCount 0) 31 0 == 1 && u.chip.dev.rb (A.bimCFnStat 0) 0) = true ∧
     (nextB (exec .plsTick s) fun u => (u.chip.dev.out 0).h == 0 && (u.chip.dev.out 0).p == 2 ^ 80 + 7) = true) ∧
    (let s := pulsing fun o => { o with active := true, left := 0 }
     nextB (exec (.pulseEnd 0) s) fun u => !(u.chip.dev.out 0).active && (u.chip.dev.out 0).idle == 0) = true := by decide +kernel

/-- A configuration register of output 0 written and not in force yet; its update group applies as said. -/
def pend (g apply : Nat) : State := setF (setF (setF up (A.bimCFnCfg 0) 0 0 1) (A.bimCFnCfg 0) 30 28 g) A.regUgcfg (2 * g + 1) (2 * g) apply

theorem cycleOnly_two {a : Nat} (h : cycleOnly a = true) : a ∈ [A.clkCyccfg, A.cnvCtrl] := by
  simpa [cycleOnly] using h

/-- The device as REG_UPDATE of group g at time 9 finds it. -/
def pendDev (g apply : Nat) : Dev := (((pend g apply).at 9).chip.loaded 0 A.regUpdate (wd (2 ^ g))).dev
def pendB (g apply : Nat) : Bool :=
  let d := pendDev g apply
  letB ((pend g apply).at 9) .hs A.regUpdate (fun _ => wd (2 ^ g)) && d.staged == [] && d.updateCheck (2 ^ g) == none && d.ugApply g == apply &&
  d.ugOf (A.bimCFnCfg 0) == g && [A.clkCyccfg, A.cnvCtrl].all fun a => d.reg a == d.active a

theorem pend_cycle {g apply : Nat} (hb : pendB g apply = true) (a : Nat) (h : cycleOnly a = true) :
    (pendDev g apply).reg a = (pendDev g apply).active a := by
  simp only [pendB, Bool.and_eq_true, List.all_eq_true, beq_iff_eq] at hb
  exact hb.2 a (cycleOnly_two h)

theorem pend_now : pendB 2 0 = true := by decide +kernel
theorem pend_frame : pendB 7 1 = true := by decide +kernel

theorem wit_UpdatesAndConfigurationScan :
    (∀ a, isBuffered a = true → (4#8).getLsbD ((pendDev 2 0).ugOf a) = true → cycleOnly a = true →
      (pendDev 2 0).reg a = (pendDev 2 0).active a) ∧
    (nextB (exec (.regUpdate .hs 4 9) (pend 2 0)) fun u => u.chip.dev.staged == [] &&
       u.chip.dev.active (A.bimCFnCfg 0) == (pendDev 2 0).reg (A.bimCFnCfg 0) && isBuffered (A.bimCFnCfg 0) &&
       (pendDev 2 0).active (A.bimCFnCfg 0) != (pendDev 2 0).reg (A.bimCFnCfg 0)) = true ∧
    (∀ a, isBuffered a = true → (pendDev 7 1).ugOf a = 7 → cycleOnly a = true → (pendDev 7 1).reg a = (pendDev 7 1).active a) ∧
    (nextB (exec (.regUpdate .hs 128 9) (pend 7 1)) fun u => decide (u.chip.dev.act = (pendDev 7 1).act) &&
       u.chip.dev.staged == [⟨7, false, .frame ((pendDev 7 1).now + 33), [(A.bimCFnCfg 0, (pendDev 7 1).reg (A.bimCFnCfg 0))]⟩]) = true :=
  ⟨fun a _ _ h => pend_cycle pend_now a h, by decide +kernel, fun a _ _ h => pend_cycle pend_frame a h, by decide +kernel⟩

theorem wit_ConfigurationScan :
    (setF (dev up fun d => { d with cfgCapture := [true] }) A.regCfgctl 8 8 1).chip.dev.rf A.regCfgctl 1 0 = 0 ∧
    letB up .hs A.regCfgcmd (fun w => setBit w 0 true) = true := by decide +kernel

/-! ## Register accesses, ports, mailboxes, the supervisor -/

/-- The row of a register that the fabric finds present and on. -/
def rowB (c : Chip) (a : Nat) (p : RegRow → Bool) : Bool := match c.dev.target a with | .ok r => p r | .error _ => false

theorem row_of {c : Chip} {a : Nat} {p : RegRow → Bool} (hb : rowB c a p = true) : ∃ r, c.dev.target a = .ok r ∧ p r = true := by
  unfold rowB at hb
  split at hb
  · next r hr => exact ⟨r, hr, hb⟩
  · cases hb

def plainB (c : Chip) (m addr bytes : Nat) (k : WKind) (data : Nat) : Bool :=
  let base := addr / 4 * 4
  !c.dev.held && decide (m < 3 ∨ 8 ≤ m) && !fixedCfg base && (lockAt base).isNone && addr % bytes == 0 && rowB c base fun r =>
    (r.typ == .rw || r.typ == .bw) && c.dev.admits m base r.gp && !(r.gs && c.dev.sealed) &&
    (c.dev.ownRefuses base (c.dev.stored r m base)
      (c.dev.written r m base k ((2 ^ (8 * bytes) - 1) * 2 ^ (8 * (addr % 4))) (data % 2 ^ (8 * bytes) * 2 ^ (8 * (addr % 4))))).isNone

theorem plain_of {c : Chip} {m addr bytes : Nat} {k : WKind} {data : Nat} (hb : plainB c m addr bytes k data = true) :
    ∃ r, c.acceptsPlain m (addr / 4 * 4) addr bytes k data r := by
  simp only [plainB, Bool.and_eq_true, Bool.not_eq_true', beq_iff_eq, Option.isNone_iff_eq_none, decide_eq_true_eq] at hb
  obtain ⟨⟨⟨⟨⟨h0, hm⟩, h1⟩, h2⟩, h3⟩, h4⟩ := hb
  obtain ⟨r, hr, h5⟩ := row_of h4
  simp only [Bool.and_eq_true, Bool.or_eq_true, Bool.not_eq_true', beq_iff_eq, Option.isNone_iff_eq_none] at h5
  obtain ⟨⟨⟨a, b⟩, c⟩, d⟩ := h5
  exact ⟨r, h0, hm, hr, a, b, c, h1, h2, h3, d⟩

/-- What a write leaves in a register. -/
def leaves (o : Host.Outcome State Fault Refusal) (a : Nat) (w : Word) : Bool :=
  nextB o fun t => t.chip.dev.reg a == w && decide (t.chip.dev.resp = .done)

def oldW : State := dev up fun d => d.setReg (A.escEkW 1) 0x11223344
/-- Bytes, half-words and words at their lanes, and the aliases. -/
theorem wit_RegisterWrites :
    plainB oldW.chip 0 (A.escEkW 1 + 3) 1 .plain 0xAB = true ∧ plainB oldW.chip 1 (A.escEkW 1 + 2) 2 .set 0x0F0F = true ∧
    plainB oldW.chip 2 (A.escEkW 1) 4 .clr 0xFF = true ∧ plainB oldW.chip 0 (A.bimCFnCfg 0) 4 .tgl 1 = true ∧
    inWindow (A.escEkW 1) = false ∧ A.escEkW 1 % 0x10000 < 0x1000 ∧
    leaves (exec (.registerWrite .hs (BitVec.ofNat 24 (A.escEkW 1 + 3)) 0 0x55667788) oldW) (A.escEkW 1) 0x11223344 = false ∧
    leaves (exec (.registerWrite .hs (BitVec.ofNat 24 (A.escEkW 1 + 3)) 2 0xFFAB) oldW) (A.escEkW 1) 0xAB223344 = true ∧
    leaves (exec (.aliasSet .hi (BitVec.ofNat 24 (A.escEkW 1 + 2)) 1 0x0F0F) oldW) (A.escEkW 1) 0x1F2F3344 = true ∧
    leaves (exec (.aliasClr .sv (BitVec.ofNat 24 (A.escEkW 1)) 0 0xFF) oldW) (A.escEkW 1) 0x11223300 = true ∧
    leaves (exec (.aliasTgl .hs (BitVec.ofNat 24 (A.escEkW 1)) 0 0xFF) oldW) (A.escEkW 1) 0x112233BB = true := by decide +kernel

/-- FLT_STAT with three bits set and SEQ 7. -/
def sq7 : State := dev up fun d => d.setReg (A.escEkStat 0) 0x0710001F
theorem wit_SequencedClear :
    rowB sq7.chip (A.escEkStat 0) (fun r => r.typ == .sq && decide (r.sq < 2 ^ 24) && sq7.chip.dev.admits 0 (A.escEkStat 0) r.gp &&
      !(r.gs && sq7.chip.dev.sealed) && (sq7.chip.dev.ownRefuses (A.escEkStat 0) (sq7.chip.dev.stored r 0 (A.escEkStat 0))
        (sq7.chip.dev.written r 0 (A.escEkStat 0) .plain 0xFFFFFFFF 0x07000005)).isNone) = true ∧
    fixedCfg (A.escEkStat 0) = false ∧ lockAt (A.escEkStat 0) = none ∧
    leaves (exec (.sqClear .hs (BitVec.ofNat 24 (A.escEkStat 0)) 7 5) sq7) (A.escEkStat 0) 0x0710001A = true ∧
    leaves (exec (.sqClear .hs (BitVec.ofNat 24 (A.escEkStat 0)) 6 5) sq7) (A.escEkStat 0) 0x0710001F = true := by decide +kernel

def errs (o : Host.Outcome State Fault Refusal) (s : State) (m : Master) (cause : Nat) (addr : BitVec 24) : Bool :=
  nextOf o == some (s.errored m cause addr)
def wr (a : Nat) (size : Fin 4) : Instr := .registerWrite .hs (BitVec.ofNat 24 a) size 1

/-- The seal set. -/
def sealedUp : State := setF up A.secSealstat 0 0 1
/-- A device without the power-line link. -/
def noPlc : State := dev up fun d => { d with fuses := { d.fuses with plc := false } }
/-- ESC closed to writes at level 1. -/
def low : State := setF up (A.secPMAPn 1) 31 24 0x33
theorem wit_AccessErrorsAndSealBars :
    errs (exec (wr 0x150000 0) up) up .hs 3 0x150000 = true ∧ errs (exec (wr 0x3FFFFE 2) up) up .hs 3 0x3FFFFE = true ∧
    errs (exec (wr 0x440000 0) up) up .hs 3 0x440000 = true ∧ errs (exec (.lowWordRead .hs 0xFFFFFF) up) up .hs 3 0xFFFFFF = true ∧
    errs (exec (wr (A.sysId + 2) 0) up) up .hs 4 (BitVec.ofNat 24 (A.sysId + 2)) = true ∧
    errs (exec (wr 0x120000 0) noPlc) noPlc .hs 1 0x120000 = true ∧ noPlc.chip.dev.absentAt 0x120000 = true ∧
    errs (exec (wr (A.escEkW 0) 0) State.reset) State.reset .hs 2 (BitVec.ofNat 24 (A.escEkW 0)) = true ∧
    errs (exec (wr 0x000FFC 0) up) up .hs 3 0x000FFC = true ∧ rowAt 0x000FFC = none ∧
    errs (exec (wr A.sysId 0) up) up .hs 7 (BitVec.ofNat 24 A.sysId) = true ∧
    errs (exec (wr (A.escEkCmd 0) 1) up) up .hs 5 (BitVec.ofNat 24 (A.escEkCmd 0)) = true ∧
    errs (exec (.aliasSet .hs (BitVec.ofNat 24 A.sysId) 0 1) up) up .hs 6 (BitVec.ofNat 24 (A.sysId + 0x4000)) = true ∧
    up.chip.dev.held = false ∧ inWindow A.sysId = false ∧ inView A.sysId = false ∧
    rowB low.chip (A.escEkW 0) (fun r => !low.chip.dev.admits 0 (A.escEkW 0) r.gp) = true ∧
    (nextOf (exec (wr (A.escEkW 0) 0) low) = some (low.to
      { (low.chip.dev.setReg A.secDenyinfo (wd (A.escEkW 0))).count A.secGuardDenied 31 0 1 with resp := .done })) ∧
    rowB sealedUp.chip (A.escEkW 0) (fun r => r.gs && sealedUp.chip.dev.admits 0 (A.escEkW 0) r.gp && sealedUp.chip.dev.sealed) = true ∧
    errs (exec (wr (A.escEkW 0) 0) sealedUp) (sealedUp.to (sealedUp.chip.dev.sealDenied 0 (A.escEkW 0))) .hs 10
      (BitVec.ofNat 24 (A.escEkW 0)) = true := by decide +kernel

/-- Lock 3 held by HI. -/
def locked3 : State := dev up fun d => { d with locks := [(3, 1)] }

theorem wit_LowWordLatchAndLocks :
    up.chip.dev.mayReach 0 3 = true ∧ up.chip.dev.on 1 = true ∧ rowB up.chip A.clkCyccnt (fun r => (up.chip.dev.shadowed 0 r A.clkCyccnt false).isNone) = true ∧
    (let s := dev up fun d => { d with shadow := [(1, (A.clkCyccnt, [7, 8]))] }
     nextB (exec (.lowWordRead .hi (BitVec.ofNat 24 A.clkCycsumLo)) s) fun t => decide (t.chip.dev.resp = .data 7)) = true ∧
    rowB up.chip (A.regLOCKn 3) (fun r => r.typ == .rw && !r.gs && up.chip.dev.admits 0 (A.regLOCKn 3) r.gp) = true ∧
    nextOf (exec (.lockRead .hs 3) up) = some (up.to { up.chip.dev with locks := [(3, 0)], resp := .data 0 }) ∧
    nextOf (exec (.lockRead .hi 3) locked3) = some (locked3.to { locked3.chip.dev with resp := .data 0 }) ∧
    nextOf (exec (.lockRead .hs 3) locked3) = some (locked3.to { locked3.chip.dev with resp := .data 0x80000001 }) ∧
    errs (exec (.lockRelease .hs 3) locked3) locked3 .hs 14 (BitVec.ofNat 24 (A.regLOCKn 3)) = true ∧
    errs (exec (.lockRelease .hs 4) locked3) locked3 .hs 14 (BitVec.ofNat 24 (A.regLOCKn 4)) = true ∧
    nextB (exec (.lockRelease .hi 3) locked3) (fun t => t.chip.dev.locks == [] && decide (t.chip.dev.resp = .done)) = true := by
  decide +kernel

/-- A request of a port: OP and SIZE, device 0, an address, LEN 0 and the word's bytes, with its CRC-16 (R357-R359, R364). -/
def request (op size a : Nat) (body : List Byte) : List Byte :=
  let l := BitVec.ofNat 8 (op * 64 + size * 16) :: (beBytes 3 a ++ [0] ++ body)
  l ++ beBytes 2 (crc16 0xFFFF l).toNat
def rdReq : List Byte := request 1 0 A.clkStat []
def wrReq : List Byte := request 0 1 (A.escEkW 1) [0x12, 0x34]
def bcReq : List Byte := request 2 0 (A.escEkW 1) [1, 2, 3, 4]
def badReq : List Byte := request 0 2 (A.escEkW 1) [0x12] ++ [0]
def cutB (l : List Byte) : Bool := reqWhole l && !(portReq l).bad && crcOk l && (portReq l).len == 0 && (portReq l).dev == 0

theorem wit_PortFrames : up.chip.dev.fuses.hsel = false ∧ up.chip.dev.fuses.id.toNat = 0 ∧ cutB rdReq = true ∧ (portReq rdReq).op = 1 ∧
    (match up.chip.read 0 A.clkStat 4 [] with | (.data w, _) => w == 0x100#32 | _ => false) = true ∧
    (nextB (exec (.spiReadFrame rdReq none) up) fun t => t.chip.dev.miso ==
      List.replicate 7 0xFF ++ [0xA5, 0, 0, 1, 0, 0, 1] ++ beBytes 2 (crc16 0xFFFF [0xA5, 0, 0, 1, 0, 0, 1]).toNat) = true ∧
    cutB wrReq = true ∧ (portReq wrReq).op = 0 ∧ (nextB (exec (.spiWriteFrame wrReq) up) fun t =>
      t.chip.dev.reg (A.escEkW 1) == 0x1234#32 && t.chip.dev.miso == List.replicate 9 0xFF ++ [0xA5, 0, 1] ++
        beBytes 2 (crc16 0xFFFF [0xA5, 0, 1]).toNat && t.chip.dev.reg A.regPortstatHs == 0x10001#32) = true ∧
    cutB bcReq = true ∧ (portReq bcReq).op = 2 ∧ (nextB (exec (.spiBroadcastWrite bcReq) up) fun t =>
      t.chip.dev.reg (A.escEkW 1) == 0x01020304#32 && t.chip.dev.miso == []) = true ∧
    (let l := request 0 2 (A.escEkW 1) [0x12] |>.map (· ^^^ 0)
     let l := l.take 5 ++ [0x13] ++ l.drop 6
     reqWhole l && !(portReq l).bad && !crcOk l && (portReq l).op == 0 && nextB (exec (.spiWriteFrame l) up) fun t =>
       t.chip.dev.miso == List.replicate 8 0xFF ++ [0x5A, 0x10, 0] ++ beBytes 2 (crc16 0xFFFF [0x5A, 0x10, 0]).toNat &&
       t.chip.dev.rf A.regPortstatHs 15 8 == 0x10 && t.chip.dev.rf A.regCrcerr 15 0 == 1) = true ∧
    reqWhole (wrReq.take 6) = false ∧ (portReq (wrReq.take 6)).op = 0 ∧
    (nextB (exec (.i2cRequest ⟨rdReq, false⟩) up) fun t => t.chip.dev.i2cResp ==
      some ([0xA5, 0, 0, 1, 0, 0, 1] ++ beBytes 2 (crc16 0xFFFF [0xA5, 0, 0, 1, 0, 0, 1]).toNat)) = true ∧
    (let s := dev up fun d => { d with i2cResp := some [1, 2] }
     nextOf (exec .i2cResponseRead s) = some (s.to { s.chip.dev with miso := [1, 2], i2cResp := none })) := by decide +kernel

/-- Mailbox 5 to HS, with a word by HI in it. -/
def mb5 : State := dev up fun d => d.setMb 5 { d.mb 5 with writers := [1], high := 2 }
def full5 (s : State) : State := dev s fun d => d.setMb 5 { d.mb 5 with full := true, mseq := 9, high := 2 }
/-- Mailbox 5 to E0 with PD5 off. -/
def off5 : State := setF (setF up (A.mbxMnCfg 5) 3 0 3) A.pwrDom 5 5 0

theorem wit_Mailboxes :
    letB mb5 .hs (A.mbxMnCtrl 5) (fun _ => 0x80000000) = true ∧ (nextB (exec (.mbxPost .hs 5) mb5) fun t => let x := t.chip.dev.mb 5
      x.full && x.mseq == 1 && x.mixed && t.chip.dev.reg (A.mbxMnStamp 5) == 2#32) = true ∧
    plainB mb5.chip 0 (mbDataAt 5 7) 4 .plain 0x99 = true ∧ (nextB (exec (.mbxDataWrite .hs 5 7 0 0x99) mb5) fun t =>
      t.chip.dev.reg (mbDataAt 5 7) == 0x99#32 && (t.chip.dev.mb 5).writers == [1, 0] && (t.chip.dev.mb 5).high == 8) = true ∧
    rowB (full5 up).chip (A.mbxMnCtrl 5) (fun r => up.chip.dev.admits 0 (A.mbxMnCtrl 5) r.gp) = true ∧
    errs (exec (.mbxPost .hs 5) (full5 up)) (full5 up) .hs 12 (BitVec.ofNat 24 (A.mbxMnCtrl 5)) = true ∧
    errs (exec (.mbxDataWrite .hs 5 7 0 1) (full5 up)) (full5 up) .hs 12 (BitVec.ofNat 24 (mbDataAt 5 7)) = true ∧
    off5.chip.dev.rxOff (off5.chip.dev.mbRx 5) = true ∧
    errs (exec (.mbxPost .hs 5) off5) off5 .hs 13 (BitVec.ofNat 24 (A.mbxMnCtrl 5)) = true ∧
    errs (exec (.mbxDataWrite .hs 5 7 0 1) off5) off5 .hs 13 (BitVec.ofNat 24 (mbDataAt 5 7)) = true ∧
    letB (full5 up) .hs (A.mbxMnCtrl 5) (fun _ => setFld 0x40000000#32 23 16 9) = true ∧ up.chip.dev.isReceiver 0 5 = true ∧
    (nextB (exec (.mbxRelease .hs 5 9) (full5 up)) fun t => !(t.chip.dev.mb 5).full && (t.chip.dev.mb 5).mseq == 9) = true ∧
    (nextB (exec (.mbxRelease .hs 5 8) (full5 up)) fun t => (t.chip.dev.mb 5).full) = true ∧ up.chip.dev.isReceiver 2 5 = false ∧
    (nextB (exec (.mbxRelease .sv 5 9) (full5 up)) fun t => (t.chip.dev.mb 5).full && t.chip.dev.rb A.mbxStat 2) = true ∧
    plainB up.chip 0 (A.mbxMnCfg 31) 4 .plain 0x108 = true ∧ rowB up.chip (A.mbxMnCfg 31) (fun r => !r.gs) = true ∧
    rowB up.chip (A.mbxMnCfg 2) (fun r => r.typ == .rw && !r.gs && up.chip.dev.admits 0 (A.mbxMnCfg 2) r.gp) = true ∧
    (nextOf (exec (.mbxCfgWrite .hs 2 7) up) = some (up.to { up.chip.dev with resp := .done })) ∧
    letB locked3 .hi A.mbxEpochcmd (fun _ => 1) = true ∧ up.chip.dev.sessState 1 = 0 ∧
    (nextB (exec (.epochNew .hi) locked3) fun t => t.chip.dev.epoch 1 == 1 && t.chip.dev.locks == []) = true := by decide +kernel

/-- A command of HS in mailbox 0: PING, and one of no class. -/
def posted (w : Word) : State := dev up fun d =>
  ((d.setMb 0 { d.mb 0 with full := true, high := 1 }).setReg (mbDataAt 0 0) w).setReg (A.mbxMnStamp 0) 1
/-- A reply and a notice that wait. -/
def replying : State := dev up fun d => d.modSup fun u => { u with replies := [[1, 2], [3]], notices := [[4, 5, 6]] }

theorem wit_SupervisorMail :
    (let d := (posted 0x10100000).chip.dev
     (d.mb 0).full && d.sup.held.length == 0 && (d.takeStatus d.commandWords).isNone &&
       nextB (exec .svCommandTake (posted 0x10100000)) fun t => t.chip.dev.sup.held == [d.commandWords] && !(t.chip.dev.mb 0).full) = true ∧
    (let d := (posted 0xF0000000).chip.dev
     d.takeStatus d.commandWords == some 1 &&
       nextB (exec .svCommandTake (posted 0xF0000000)) fun t => t.chip.dev.sup.replies == [d.commandWords.reply 1 []]) = true ∧
    (replying.chip.dev.mb 1).full = false ∧ (replying.chip.dev.mb 2).full = false ∧
    (nextB (exec .replyPost replying) fun t => (t.chip.dev.mb 1).full && t.chip.dev.reg (mbDataAt 1 1) == 2#32 &&
      t.chip.dev.sup.replies == [[3]]) = true ∧
    (nextB (exec .noticePost replying) fun t => (t.chip.dev.mb 2).full && t.chip.dev.reg (mbDataAt 2 2) == 6#32 &&
      t.chip.dev.sup.notices == []) = true := by decide +kernel

def loadref (k p : Nat) : HeldCmd := cmd 1 3 [wd k, wd p]
theorem wit_SystemCommands :
    holdsB (holding up (cmd 1 1 [])) 0 1 1 (cmd 1 1 []) = true ∧ holdsB (holding up (cmd 1 2 [])) 0 1 2 (cmd 1 2 []) = true ∧
    nextOf (exec (.ping 0) (holding up (cmd 1 1 []))) = some ((holding up (cmd 1 1 [])).answered (cmd 1 1 []) 0 []) ∧
    (let no := fun (s : State) (h : HeldCmd) (st : Nat) => holdsB (holding s h) 0 1 3 h &&
       nextOf (exec (.loadref 0) (holding s h)) == some ((holding s h).answered h st [])
     no up (loadref 5 1) 2 && no up (loadref 0 0) 2 && no up (loadref 4 4) 2 && no low (loadref 4 3) 6 && no sealedUp (loadref 0 1) 5 &&
     no (inSt up 0 .armed) (loadref 0 1) 4 && no (setF up A.pwrDom 5 5 0) (loadref 0 1) 4 &&
     no (dev up fun d => { d with fuses := { d.fuses with build := .s } }) (loadref 3 1) 7) = true ∧
    (let d := (holding up (loadref 0 1)).chip.dev
     d.reachAt 0 1 7 && d.privAt 0 1 7 && d.reachAt 0 1 8 && d.privAt 0 1 8 && !d.sealed && d.on 5 && (d.eng 0).direct) = true := by decide +kernel

/-! ## The ferroelectric store, the auxiliary converter, the clock -/

/-- Page 3 open with a byte in it; page 9 protected by range 0. -/
def store : State := nvm up fun n => ((n.putByte 0x305 0x5A).setPage 3 ⟨true, 6, 0⟩ : Nvm) |> fun n => { n with openPage := some 3 }
def prot9 : State := dev store fun d => ((d.setReg (A.nvmWPn 0) 0x80090009) : Dev)

theorem wit_ArrayAccess : up.chip.dev.mayReach 0 21 = true ∧ up.chip.dev.privileged 0 21 = true ∧ up.chip.dev.writeProtected 7 = false ∧
    (nextB (exec (.nvmWrite .hs 0x400702 1 0xBEEF) store) fun t => t.chip.nvm.byteAt 0x702 == 0xEF && t.chip.nvm.byteAt 0x703 == 0xBE &&
      t.chip.nvm.byteAt 0x305 == 0x5A && t.chip.nvm.openPage == some 7 && t.chip.nvm.page 3 == ⟨false, 7, pageCheck (store.chip.nvm.pageBytes 3)⟩ && (t.chip.nvm.page 7).isOpen) = true ∧
    (nextB (exec (.nvmRead .hs 0x400304 0 []) store) fun t => decide (t.chip.dev.resp = .data 0x5A00)) = true ∧
    (let s := nvm store fun n => { n with openPage := none }
     nextB (exec (.nvmRead .hs 0x400305 2 []) s) fun t => decide (t.chip.dev.resp = .data 0x5A) && t.chip.dev.rb A.nvmStat 0) = true ∧
    (nextB (exec .pageCloseTimeout store) fun t => t.chip.nvm.page 3 == ⟨false, 7, pageCheck (store.chip.nvm.pageBytes 3)⟩) = true ∧ letB store .hs A.nvmCmd (fun _ => 1) = true := by
  decide +kernel

theorem wit_protected : prot9.chip.dev.writeProtected 9 = true ∧
    errs (exec (.nvmWrite .hs 0x4009FC 0 1) prot9) (prot9.to ((prot9.chip.dev.raiseSq A.nvmStat 0x04).setIreg 0 A.nvmFailaddr
      (wd (2 ^ 31 + 7 * 2 ^ 24 + 0x4009FC)))) .hs 7 0x4009FC = true := by decide +kernel

/-- Page 3 closed with a byte in it. -/
def shut : State := nvm up fun n => let n := n.putByte 0x305 0x5A; n.setPage 3 ⟨false, 0, pageCheck (n.pageBytes 3)⟩
theorem wit_PageCodesScrubAndRemap :
    (nextB (exec (.nvmRead .hs 0x400305 2 [(31, .corrected)]) shut) fun t => decide (t.chip.dev.resp = .data 0x5A) &&
      t.chip.dev.reg A.nvmEccinner == 1) = true ∧
    (nextB (exec (.nvmRead .hs 0x400305 2 [(0, .failed 0xFF0000000000)]) shut) fun t => decide (t.chip.dev.resp = .data 0x5A) &&
      t.chip.dev.reg A.nvmEccouter == 1) = true ∧
    (nextB (exec (.nvmRead .hs 0x400305 2 [(0, .failed 0xFF0000000000), (9, .failed 1)]) shut) fun t =>
      decide (t.chip.dev.resp = .data 0xA5) && t.chip.dev.reg A.nvmUncorrcnt == 1) = true ∧
    (nextB (exec (.pageinfoRead .hs []) shut) fun t => decide (t.chip.dev.resp = .data 0x00C00000)) = true ∧
    letB shut .hs A.nvmCmd (fun _ => 2) = true ∧ letB shut .hs A.nvmCmd (fun _ => 4) = true ∧ shut.chip.nvm.freeSpare = some 0 ∧
    (let s := nvm shut fun n => { n with remapRun := some (3, 5) }
     nextB (exec .remapDone s) fun t => t.chip.nvm.phys 3 == 0x405 && t.chip.dev.rb A.nvmStat 4) = true ∧
    ((Nvm.closeOpen { shut.chip.nvm with scrubbing := true }).pages.all fun e => !e.2.isOpen) = true ∧ shut.chip.nvm.errs = [] ∧
    shut.chip.nvm.scrubTally = (0, 0, 0) := by decide +kernel

def f16 (n : Nat) : Word → Word := fun w => setFld (setBit w 31 true) 3 0 n
theorem wit_Counters :
    letB up .sv A.nvmRccmd (f16 0) = true ∧ letB up .hs A.nvmRccmd (f16 4) = true ∧ letB up .hs A.nvmRccmd (f16 3) = true ∧
    (nextB (exec (.counterIncrement .hs 4) up) fun t => t.chip.nvm.rc 4 == 1 && t.chip.nvm.rc 5 == 0 && t.chip.dev.rb A.nvmRcstat 0) = true ∧
    ordB up .hs A.nvmRccmd (f16 3) (.counterIncrement .hs 3) (fun d => d.raiseSq A.nvmRcstat 0x02) = true ∧
    (let h := cmd 2 0x10 [15]
     let s := holding up h
     holdsB s 0 2 0x10 h && s.chip.dev.reachAt 0 1 16 && s.chip.dev.privAt 0 1 16 && nextB (exec (.cinc 0) s) fun t =>
       t.chip.nvm.rc 15 == 1 && t.chip.dev.sup.replies == [h.reply 0 [1, 0]]) = true ∧
    (let h := cmd 2 0x11 [2]
     let s := holding up h
     holdsB s 0 2 0x11 h && nextOf (exec (.cread 0) s) == some (s.answered h 0 [0, 0, wd (s.chip.nvm.rcInfo 2)])) = true ∧
    (let s := setF (holding up (cmd 2 0x10 [15])) (A.secPMAPn 4) 7 0 0
     nextOf (exec (.cinc 0) s) = some (s.answered (cmd 2 0x10 [15]) 6 [])) := by decide +kernel

/-- Area 1 of pages 0x10 and 0x11, with one record. -/
def areaS : State := nvm up fun n => ({ n with areas := [(1, (0x10, 2))] } : Nvm).putBytes 0x1000 (slotBytes 7 1 [1, 2, 3])
def recd (op : Nat) (data : List Word) : HeldCmd := cmd 2 op data
theorem wit_RecordAreas :
    (let h := recd 1 [2, 0x12, 64]
     holdsB (holding areaS h) 0 2 1 h && areaS.chip.dev.arrayMay h && !areaS.chip.areaClash 2 0x12 64 &&
       nextB (exec (.rdef 0) (holding areaS h)) fun t => SMap.find t.chip.nvm.areas 2 == some (0x12, 64)) = true ∧
    (let h := recd 1 [2, 0x11, 1]
     nextOf (exec (.rdef 0) (holding areaS h)) = some ((holding areaS h).answered h 2 [])) ∧
    (let h := recd 2 [wd (1 + 3 * 256), 0x030201]
     let s := holding areaS h
     holdsB s 0 2 2 h && !s.chip.dev.writeProtected 0x10 && nextB (exec (.rwrite 0) s) fun t =>
       t.chip.dev.sup.replies == [h.reply 0 [8, 0x401040]] && t.chip.nvm.slotRead 0x10 1 == slotBytes 8 1 [1, 2, 3]) = true ∧
    (let h := recd 3 [1]
     let s := holding areaS h
     holdsB s 0 2 3 h && nextB (exec (.rread 0) s) fun t =>
       t.chip.dev.sup.replies == [h.reply 0 (7 :: 3 :: 0x030201 :: List.replicate 11 0)]) = true ∧
    (let h := recd 4 [1]
     let s := holding areaS h
     holdsB s 0 2 4 h && nextB (exec (.rscan 0) s) fun t => t.chip.dev.sup.replies == [h.reply 0 [1, 0, 7]]) = true ∧
    (let h := recd 0x20 [0]
     let b : LogEntry := leBytes 8 1 ++ List.replicate 20 9
     let e : LogEntry := b ++ leBytes 4 (crc32c b).toNat
     let s := nvm (holding up h) fun n => { n.increment 1 with log := [e] }
     holdsB s 0 2 0x20 h && s.chip.nvm.logEntry 0 == some e && nextOf (exec (.logread 0) s) == some (s.answered h 0 (leWords 8 e))) = true ∧
    (let h := recd 3 [2]
     nextOf (exec (.rread 0) (holding areaS h)) = some ((holding areaS h).answered h 4 [])) := by decide +kernel

/-- The auxiliary converter with trigger 1 enabled on input 2. -/
def auxS (f : Aux → Aux) : State := dev up fun d => { d with act := [(auxTrg 1, 0x82000064)], aux := f d.aux }
def trig (src insel t : Nat) : AuxTrig := ⟨src, insel, t, 0⟩
def auxRun (src insel : Nat) : State := auxS fun a => { a with running := some ⟨trig src insel 0, insel, false, 0, 0, false, 0, 0⟩, zeros := [(2, 1000)] }

theorem wit_AuxConverter :
    (auxS id).chip.dev.ab (auxTrg 1) 31 = true ∧ (auxS id).chip.dev.xtmOk = true ∧
    (nextB (exec (.auxTimerEvent 16384009) (auxS id)) fun t => t.chip.dev.aux.waiting == some ⟨1, 2, 16384000, 100⟩) = true ∧
    (let s := auxS fun a => { a with urgent := some (trig 3 0 0) }
     s.chip.dev.aux.busy && nextB (exec (.auxTimerEvent 16384009) s) fun t => t.chip.dev.aux.held == some ⟨1, 2, 16384000, 100⟩) = true ∧
    (let s := auxS fun a => { a with waiting := some (trig 0 0 0), held := some (trig 0 0 0) }
     s.chip.dev.aux.busy && nextB (exec (.auxTimerEvent 16384009) s) fun t => t.chip.dev.rf A.auxTriglost 15 8 == 1 && t.chip.dev.rb A.auxStat 1) = true ∧
    (let s := dev up fun d => { d with act := [(A.auxPwcfg, 0x13)] }
     (s.chip.dev.af A.auxPwcfg 2 0 == 3 && s.chip.dev.ab A.auxPwcfg 4 && nextB (exec (.auxPwPulseEnd 3 true 77 5) s) fun t =>
       t.chip.dev.reg A.auxPwidth == 77) = true ∧ nextOf (exec (.auxPwPulseEnd 3 true 2 5) s) = some s) ∧
    letB (up.at 5) .hs A.auxCmd (fun w => setFld (setBit w 31 true) 27 24 9) = true ∧
    letB (up.at 5) .hs A.auxCalcmd (fun w => setFld (goOp 1 w) 25 24 3) = true ∧
    letB (up.at 5) .hs A.auxCalcmd (fun w => setFld (goOp 2 w) 25 24 3) = true ∧
    (let s := auxS fun a => { a with waiting := some (trig 1 2 9) }
     (nextB (exec (.auxConversionStart 9) s) fun t => t.chip.dev.aux.running == some ⟨trig 1 2 9, 2, false, 0, 0, false, 9, s.chip.dev.cycCount 9⟩) = true ∧
       nextOf (exec (.auxConversionStart 8) s) = some s) ∧
    (let s := auxS fun a => { a with urgent := some (trig 3 7 9), waiting := some (trig 1 2 9) }
     nextB (exec (.auxConversionStart 10) s) fun t => (t.chip.dev.aux.running.map (·.insel)) == some 7 && t.chip.dev.aux.urgent.isNone) = true ∧
    (nextB (exec (.auxResult 0xFFFFF 328335) (auxRun 1 2)) fun t => t.chip.dev.reg (A.auxRESi 2) == 0x840FFFFF#32 &&
      t.chip.dev.reg A.auxLast == 0x20010000#32) = true ∧ (auxRun 1 2).chip.dev.auxPair (trig 1 2 0) 2 = (2 ^ 22, 0) ∧
    (nextB (exec (.auxResult 900 328335) (auxRun 4 2)) fun t => t.chip.dev.aux.zeros == [(2, 900)]) = true ∧
    (let s := setF (auxRun 5 2) A.auxCaltgt 19 0 500000
     (nextB (exec (.auxResult 501000 328335) s) fun t => t.chip.dev.reg A.auxCalresg == 0x82400000#32 &&
       t.chip.dev.reg A.auxCalreso == 0x820003E8#32 && t.chip.dev.rb A.auxStat 3) = true ∧
     (nextB (exec (.auxResult 101000 328335) s) fun t => t.chip.dev.reg A.auxCalresg == 0 && t.chip.dev.rb A.auxStat 4) = true) := by decide +kernel

def clk (f : Rtc → Rtc) : State := dev up fun d => { d with rtc := f d.rtc }
/-- The clock halted, with a set time of 2033-01-01 and five halted ticks. -/
def haltedRtc : State := dev up fun d => ((d.setReg A.rtcCtrl 1).setReg A.rtcHaltticks 5).setReg A.rtcSdate 0x00210101
/-- Alarm 0 armed for every second at the tick before a second. -/
def alarmed : State := dev (clk fun r => { r with ticks := 511 }) fun d => (d.putBit A.rtcStat 10 true).setReg (A.rtcALMnDate 0) 0

theorem wit_RealTimeClock :
    (nextB (exec (.rtcTick true false) haltedRtc) fun u => u.chip.dev.rtc.ticks == 0 && u.chip.dev.reg A.rtcHaltticks == 6) = true ∧
    (nextB (exec (.rtcTick false false) (clk fun r => { r with ticks := calendarEnd - 1 })) fun u => u.chip.dev.rtc.ticks == 0 &&
      u.chip.dev.rb A.rtcStat 15) = true ∧
    alarmed.chip.dev.armed 0 = true ∧ alarmed.chip.dev.alarmMatch 0 2 = true ∧
    (nextB (exec (.rtcTick true true) alarmed) fun u => u.chip.dev.rb A.rtcStat 1 && u.chip.dev.rtc.last0 == some 2 && !u.chip.dev.armed 0 &&
      u.chip.dev.rtc.ticks == 512 && u.chip.dev.rb A.rtcTamper 8) = true ∧
    plainB up.chip 0 A.rtcCtrl 4 .plain 1 = true ∧ (nextB (exec (.halt .hs) up) fun u => u.chip.dev.rb A.rtcCtrl 0) = true ∧
    plainB haltedRtc.chip 0 A.rtcCtrl 4 .plain 6 = true ∧
    setTime (haltedRtc.chip.dev.reg A.rtcStime) (haltedRtc.chip.dev.reg A.rtcSdate) = some (dayOf 33 1 1 * dayTicks) ∧
    (nextB (exec (.calendarRelease .hs true true) haltedRtc) fun u => u.chip.dev.rtc.ticks == dayOf 33 1 1 * dayTicks + 5 &&
      !u.chip.dev.rb A.rtcCtrl 0 && u.chip.dev.rb A.rtcCtrl 1 && u.chip.dev.rb A.rtcCtrl 2 && u.chip.dev.rb A.rtcStat 0) = true ∧
    (let s := dev haltedRtc fun d => d.setReg A.rtcSdate 0
     errs (exec (.calendarRelease .hs true false) s) s .hs 8 (BitVec.ofNat 24 A.rtcCtrl) && (s.chip.dev.releaseTime 2).isNone) = true ∧
    letB alarmed .hs A.rtcCmd (fun w => setBit w 1 true) = true ∧ letB alarmed .hs A.rtcCmd (fun w => setBit w 2 true) = true ∧
    (nextB (exec (.arm .hs 1) alarmed) fun u => u.chip.dev.armed 0 && u.chip.dev.armed 1) = true ∧
    (nextB (exec (.disarm .hs 0) alarmed) fun u => !u.chip.dev.armed 0 && !u.chip.dev.armed 1) = true ∧
    letB up .hs A.rtcCmd (fun w => setBit w 6 true) = true ∧ up.chip.dev.level 0 = 1 ∧
    (nextB (exec (.clrrec .hs) (setF up A.rtcFswDate 31 30 1)) fun u => u.chip.dev.rf A.rtcFswDate 31 30 == 0) = true ∧
    (let s := dev up fun d => d.putBit A.rtcStat 13 true
     letB s .hs A.rtcCmd (fun w => setBit w 5 true) && nextB (exec (.xtreturn .hs) s) fun u => u.chip.dev.rtc.xtPend) = true ∧
    (let s := dev up fun d => d.putBit A.rtcStat 13 false
     errs (exec (.xtreturn .hs) s) s .hs 8 (BitVec.ofNat 24 A.rtcCmd)) = true ∧
    up.chip.dev.mayReach 0 0x11 = true ∧ up.chip.dev.on 0 = true ∧
    (let s := clk fun r => { r with ticks := 300, shadows := [(0, (1, 2, 3, 4))] }
     (nextB (exec (.subsecRead .hs) s) fun u => decide (u.chip.dev.resp = .data 44)) = true ∧
     (nextB (exec (.yearRead .hs) s) fun u => decide (u.chip.dev.resp = .data 4) && u.chip.dev.rtc.shadows == []) = true) ∧
    (nextB (exec .xt32Fail up) fun u => !u.chip.dev.rb A.rtcStat 13 && u.chip.dev.rb A.rtcStat 14 && u.chip.dev.rb A.rtcStat 6) = true ∧
    (nextB (exec .switchover (setF up A.rtcFswDate 31 30 0)) fun u => u.chip.dev.rtc.vddLow && u.chip.dev.rb A.rtcStat 7 && u.chip.dev.rf A.rtcSwpend 7 0 == 1 &&
      u.chip.dev.rf A.rtcFswDate 31 30 == 1) = true ∧
    (nextB (exec .vbatLoss (clk fun r => { r with vddLow := true, ticks := 77 })) fun u => u.chip.dev.rtc.ticks == 0 &&
      u.chip.dev.rb A.rtcStat 15 && u.chip.dev.rtc.vddLow) = true ∧
    (nextB (exec .switchover (clk fun r => { r with vbatLow := true, ticks := 77 })) fun u => u.chip.dev.rtc.ticks == 0 &&
      u.chip.dev.rb A.rtcStat 15 && u.chip.dev.rtc.vddLow) = true ∧
    (nextB (exec (.periodicEvent 9) (clk fun r => { r with perDue := true })) fun u => !u.chip.dev.rtc.perDue && u.chip.dev.rb A.rtcStat 5) =
      true := by decide +kernel

/-! ## Resets, clocks, power -/

/-- What `restarted` says, as far as it can be computed: the domains, VCODE, the cause, epochs, locks, the supervisor, the engines. -/
def restartedB (s t : State) (cause : Nat) : Bool :=
  let d := s.chip.dev
  let e := t.chip.dev
  (List.range 8).all (fun n => e.on n == decide (n < 2)) && e.rf A.pwrVcore 4 0 == 20 && e.rb A.sysRstcause cause && e.pwr.isNone &&
  (List.range 32).all (fun n => !(e.mb n).full) && (List.range 9).all (fun m => e.epoch m == 0) && e.locks == [] && e.sess == [] &&
  decide (e.sup = Sup.zero) && (List.range 5).all (fun k => decide (e.eng k = Engine.zero)) && !e.chn.up && !e.xtmOk &&
  e.rtc.ticks == d.rtc.ticks && [A.rtcTrim, A.rtcStat, A.rtcCtrl].all (fun a => e.reg a == d.reg a) &&
  t.chip.nvm.openPage.isNone && !t.chip.nvm.scrubbing && t.chip.nvm.remapRun.isNone

/-- A device at work: page 3 open, a lock, a full mailbox, an engine running, a session, the calendar past its epoch. -/
def busyS : State := dev store fun d =>
  ((((d.setMb 4 { d.mb 4 with full := true }).modEng 2 fun x => { x with st := .running, d := [(1, 1)] }).setReg A.rtcTrim 9).setReg A.clkCyccfg 7)
    |> fun d => { d with locks := [(3, 1)], rtc := { d.rtc with ticks := 99 }, sup := { d.sup with held := [cmd 1 1 []] } }

theorem wit_ResetSources : busyS.chip.dev.resetPin = false ∧
    (nextB (exec .por busyS) fun t => restartedB busyS t 0 && t.chip.nvm.mem == busyS.chip.nvm.mem && t.chip.dev.rf A.sysRstcause 5 0 == 1 && !t.chip.dev.held &&
      t.chip.nvm.page 3 == busyS.chip.nvm.page 3) = true ∧
    (nextB (exec .brownOut busyS) fun t => restartedB busyS t 1 && t.chip.nvm.mem == busyS.chip.nvm.mem && t.chip.dev.held && t.chip.dev.reg A.clkCyccfg == resetVal A.clkCyccfg) = true ∧
    (nextB (exec .resetn busyS) fun t => restartedB busyS t 2 && t.chip.nvm.mem == busyS.chip.nvm.mem && t.chip.dev.held) = true ∧
    letB busyS .hs A.sysRstcmd (fun _ => 0x80000000) = true ∧
    (let s := dev busyS fun d => { d with inReset := true }
     s.chip.dev.held ∧ nextOf (exec (.registerWrite .hs 0x20008 0 1) s) = some (s.to { s.chip.dev with resp := .none })) ∧
    (let s := nvm (dev busyS fun d => { d with inReset := true, fuses := { d.fuses with idPin := 5, hselPin := true } }) fun n =>
       { n with openPage := none, sealA := ⟨1, copySum sealImage 1 true, false, true⟩ }
     nextB (exec .brownOutRelease s) fun t => !t.chip.dev.held && t.chip.dev.fuses.id == 5 && t.chip.dev.fuses.hsel && t.chip.dev.sealed &&
       t.chip.dev.rf A.rtcSwpend 7 0 == 0) = true ∧
    (let s := dev busyS fun d => { d with inReset := true, resetPin := true }
     nextOf (exec .brownOutRelease s) = some (s.to { s.chip.dev with inReset := false }) ∧
     nextOf (exec .resetnRelease s) = some (s.to { s.chip.dev with resetPin := false })) ∧
    nextOf (exec .brownOutRelease busyS) = some busyS ∧ nextOf (exec .resetnRelease busyS) = some busyS := by decide +kernel

def bits4 (n : Nat) (w : Word) : Word := setFld (goOp n w) 7 0 0x34
/-- The domains PD2, PD4 and PD5 off. -/
def someOff : State := setF up A.pwrDom 7 0 0xCB

theorem wit_WatchdogAndClockFailure :
    (nextB (exec .watchdogReset busyS) fun t => t.chip.dev.sup.held == [] && t.chip.dev.epoch 2 == 1 &&
      t.chip.dev.sup.notices == [[0x18000000#32, 1]] && t.chip.dev.rb A.sysRstcause 4 && t.chip.dev.reg A.sysWdtcnt == 1 &&
      t.chip.dev.locks == [(3, 1)] && decide (t.chip.dev.mbox = busyS.chip.dev.mbox)) = true ∧
    letB busyS .hs A.sysRstcmd (fun _ => (0x20#8).setWidth 32) = true ∧
    (nextB (exec (.domainReset .hs 0x20) busyS) fun t => t.chip.dev.rb A.sysRstcause 5 && t.chip.dev.on 5 && decide (t.chip.dev.eng 3 = Engine.zero) &&
      t.chip.dev.epoch 3 == 1 && decide (t.chip.dev.plc = busyS.chip.dev.plc)) = true ∧
    (let s := dev up fun d => d.putBit A.plcStat 10 true
     ((s.loads .hs A.sysRstcmd fun _ => 0x40).dev.domRefuses 0x40).or ((s.loads .hs A.sysRstcmd fun _ => 0x40).dev.offRefuses 0x40) = some 6 ∧
     (nextB (exec (.domainReset .hs 0x40) s) fun t => t.chip.dev.rf A.pwrStat 19 16 == 6 && t.chip.dev.rb A.pwrStat 1 &&
       decide (t.chip.dev.plc = s.chip.dev.plc)) = true) ∧
    (nextB (exec (.lowSupply true false) up) fun t => t.chip.dev.rb A.sysSupstat 9 && t.chip.dev.rb A.sysSupstat 0) = true ∧
    (let s := dev up fun d => d.setOut 0 { d.out 0 with active := true, p := 7, h := 8 }
     nextB (exec .xtmFail s) fun t => !t.chip.dev.xtmOk && t.chip.dev.rb A.clkStat 0 && !t.chip.dev.modOn && !(t.chip.dev.out 0).active &&
       (t.chip.dev.out 0).p == 7 && (t.chip.dev.out 0).h == 8) = true ∧ nextOf (exec .xtmokSet up) = some up ∧
    (let s := dev up fun d => d.putBit A.clkStat 8 false
     s.chip.dev.isMaster ∧ (nextB (exec .xtmokSet s) fun t => t.chip.dev.xtmOk && t.chip.dev.modOn &&
       decide (t.chip.dev.fll = { Fll.zero with tick0 := s.chip.dev.now, due := s.chip.dev.now + nominalLen s.chip.dev.nom60, cycLen := s.chip.dev.fll.cycLen, period := nominalLen s.chip.dev.nom60 }) &&
       decide (t.chip.dev.chan 3 = (s.chip.dev.chan 3).restart (s.chip.dev.chCfg 3).settle)) = true) := by decide +kernel

/-- A refusal of a power command. -/
def pwrNo (s : State) (i : Instr) (f : Word → Word) (c : Nat) : Bool :=
  ordB s .hs A.pwrCmd f i fun d => (d.putFld A.pwrStat 19 16 c).raiseSq A.pwrStat 0x2
def pOn (x : Nat) : Word → Word := fun w => setFld (goOp 1 w) 7 0 x
def pOff (x : Nat) : Word → Word := fun w => setFld (goOp 2 w) 7 0 x

theorem wit_PowerCommands :
    pwrNo noPlc (.pwrOn .hs 0x40) (pOn 0x40) 1 = true ∧ pwrNo up (.pwrOff .hs 0x22) (pOff 0x22) 2 = true ∧
    (let s := dev up fun d => { d with pwr := some ⟨[], none⟩ }
     pwrNo s (.pwrOff .hs 0x20) (pOff 0x20) 3 && ordB s .hs A.pwrCmd (fun w => setFld (goOp 3 w) 20 16 9) (.pwrVcore .hs 9) fun d =>
       (d.putFld A.pwrStat 19 16 3).raiseSq A.pwrStat 0x2) = true ∧
    pwrNo (dev up fun d => d.putBit A.clkStat 8 false) (.pwrOn .hs 0x20) (pOn 0x20) 4 = true ∧ pwrNo (unitIn 0 5 3) (.pwrOff .hs 0x04) (pOff 0x04) 5 = true ∧
    pwrNo (dev up fun d => d.putBit A.plcStat 10 true) (.pwrOff .hs 0x40) (pOff 0x40) 6 = true ∧
    ordB someOff .hs A.pwrCmd (pOn 0x34) (.pwrOn .hs 0x34) (fun d => { d.putBit A.pwrStat 8 true with
      pwr := some { steps := [(2, true), (4, true), (5, true)], vcore := none } }) = true ∧
    ordB up .hs A.pwrCmd (pOff 0x34) (.pwrOff .hs 0x34) (fun d => { d.putBit A.pwrStat 8 true with
      pwr := some { steps := [(5, false), (4, false), (2, false)], vcore := none } }) = true ∧
    ordB up .hs A.pwrCmd (pOn 0x34) (.pwrOn .hs 0x34) (fun d =>
      (({ d.putBit A.pwrStat 8 true with pwr := none } : Dev).putBit A.pwrStat 8 false).raiseSq A.pwrStat 0x1) = true ∧
    (nextB (exec (.pwrVcore .hs 25) up) fun t => t.chip.dev.rf A.pwrVcore 4 0 == 25 && t.chip.dev.vBound == up.chip.dev.vBound &&
      !t.chip.dev.rb A.pwrVcore 8) = true ∧
    (nextB (exec (.pwrVcore .hs 9) up) fun t => t.chip.dev.rf A.pwrVcore 4 0 == 9 && t.chip.dev.vBound == 9) = true ∧
    (let s := dev (inSt up 0 .armed) fun d => d.setReg (A.escEkW 0) 0xFFFFFFFF
     pwrNo s (.pwrVcore .hs 9) (fun w => setFld (goOp 3 w) 20 16 9) 7) = true ∧
    (let s := dev up fun d => { d with pwr := some ⟨[(5, false)], none⟩, sup := { d.sup with profStep := some (3, cmd 5 2 [1], 0) } }
     nextB (exec .powerStepDone s) fun t => !t.chip.dev.on 5 && t.chip.dev.on 6 && t.chip.dev.pwr.isNone && t.chip.dev.rb A.pwrStat 0 &&
       t.chip.dev.sup.replies == [(cmd 5 2 [1]).reply 0 [t.chip.dev.pwrDomWord]]) = true ∧
    (let s := dev up fun d => { d with pwr := some ⟨[(5, false), (2, false)], none⟩ }
     nextB (exec .powerStepDone s) fun t => !t.chip.dev.on 5 && decide (t.chip.dev.pwr = some ⟨[(2, false)], none⟩)) = true ∧
    (let s := dev up fun d => { d with pwr := some ⟨[], some 9⟩ }
     nextB (exec .vcoreSettled s) fun t => t.chip.dev.vBound == 9 && t.chip.dev.rb A.pwrVcore 8 && t.chip.dev.rb A.pwrStat 0) = true ∧
    (let h := cmd 5 1 [3, 0xFF, 30]
     let s := holding up h
     holdsB s 0 5 1 h && s.chip.dev.privAt 0 1 0 && nextB (exec (.profsave 0) s) fun t =>
       SMap.find t.chip.nvm.profiles 3 == some (0xFC, 30)) = true ∧
    (let h := cmd 5 1 [3, 0xFF, 31]
     nextOf (exec (.profsave 0) (holding up h)) = some ((holding up h).answered h 2 [])) ∧
    (let h := cmd 5 2 [3]
     let s := nvm (holding up h) fun n => { n with profiles := [(3, (0x34, 25))] }
     holdsB s 0 5 2 h && nextB (exec (.profrun 0) s) fun t => decide (t.chip.dev.pwr = some ⟨[], some 25⟩) &&
       decide (t.chip.dev.sup.profStep = some (1, { h with started := true }, 0x34))) = true ∧
    (let h := cmd 5 2 [1]
     nextOf (exec (.profrun 0) (holding up h)) = some ((holding up h).answered h 4 [0])) ∧
    (let h := cmd 5 3 []
     let s := holding up h
     holdsB s 0 5 3 h = true ∧ nextOf (exec (.pwrinfo 0) s) = some (s.answered h 0
       [s.chip.dev.pwrDomWord, s.chip.dev.reg A.pwrVcore, s.chip.dev.reg A.sysRstcause])) := by decide +kernel

/-! ## The power-line link and the panel -/

/-- The MAC running as station 1 of network 7, with station 2 in the neighbour table. -/
def nbr2 : Nbr := ⟨2, 0, [], [], false, 7, [], 7, false, 0, none, none, none⟩
def mac (f : Plc → Plc) : State := dev up fun d =>
  { ((d.setReg A.plcCfg 0x07001000).setReg A.plcMaccfg 0x00080303) with plc := f { d.plc with started := true, cw := 8, nbrs := [(4, nbr2)] } }
def msg0 : TxMsg := ⟨2, 1, 1, 0, [5, 6, 7], 0, 0, 0, none, 0, 0, 0, some (cmd 3 4 []), [], none, 0⟩
/-- The message as its frame of number 9 was sent to station 2. -/
def sent0 : TxMsg := { msg0 with seq := 9, nblk := 2, take := 3, frames := 1, hop := 2 }
def map1 : ToneMap := ⟨1, List.replicate 6 ⟨1, [3, 2]⟩⟩
def sack (bitmap : BitVec 64) : Sack := ⟨1, 9, bitmap, 9, 3⟩
def noticed (s t : State) (l : List Word) : Bool := t.chip.dev.sup.notices == s.chip.dev.sup.notices ++ [l]

theorem wit_PowerLineLink :
    (mac id).chip.dev.rf A.plcCfg 23 12 = 1 ∧ (mac id).chip.dev.rf A.plcCfg 31 24 = 7 ∧
    (nextB (exec (.dataFrameReceived { frame0 with hdrCrc := frame0.hdrCrc ^^^ 1 }) (mac id)) fun t => t.chip.dev.reg A.plcHdrfail == 1) = true ∧
    (let h : DataHdr := { hdr0 with nid := 7, tmid := 0 }
     let f : DataFrame := { frame0 with hdr := h, hdrCrc := crc16 0xFFFF (beBytes 12 h.word.toNat) }
     f.hdrOk && f.hdr.typ == 0 && f.hdr.nid == 7 && (f.blocks.all FecBlock.good) && hdr0.dst == 1 && hdr0.fdst == 1 && hdr0.src == 2 && (mac id).chip.dev.plc.room 2 && (mac id).chip.dev.plc.holds == [] &&
     (mac id).chip.dev.plc.delivered == [] && ((mac id).chip.dev.plc.nbr 2).isSome && f.lastSeg && f.segIndex == 0 && hdr0.ackreq && hdr0.full) = true ∧
    (let s := mac fun p => { p with sackDue := some ⟨2, 9, 3, 20, 3, 1, true⟩, nbrs := [(4, { nbr2 with rxCur := some map1 })] }
     nextB (exec .sackSend s) fun t => t.chip.dev.plc.sackDue.isNone && t.chip.dev.reg A.plcTxframes == 1 &&
       decide (t.chip.dev.plc.nbr 2 = some { nbr2 with rxPrev := some map1, rxCur := some (s.chip.dev.plc.downgrade map1 3) })) = true ∧
    (nextB (exec .sackSend (mac fun p => { p with sackDue := some ⟨2, 9, 3, 20, 3, 1, true⟩, stopping := some (cmd 3 3 []) })) fun t =>
      t.chip.dev.plc.sackDue.isNone && !t.chip.dev.plc.started && t.chip.dev.sup.replies == [(cmd 3 3 []).reply 0 []]) = true ∧
    (let s := mac fun p => { p with queue := [msg0] }
     (let at_ := fun (m : Contention) (a : Option Nat) (busy : Bool) => nextB (exec (.mediumAccess m) s) fun t =>
       t.chip.dev.plc.access == a && t.chip.dev.rb A.plcStat 8 == busy && t.chip.dev.plc.air.isSome == (!busy && !m.burst)
     at_ ⟨184320, 7, 30, 30, false, false⟩ (some 184320) false && at_ ⟨184319, 7, 30, 30, false, false⟩ none false &&
       at_ ⟨999999, 8, 30, 30, false, false⟩ none false && at_ ⟨184320, 7, 30, 30, true, false⟩ none true &&
       at_ ⟨184320, 7, 94, 30, false, false⟩ none true && at_ ⟨184320, 7, 30, 30, false, true⟩ none false) = true) ∧
    (let s := mac fun p => { p with queue := [{ msg0 with pri := 0 }, msg0], access := some 3 }
     decide (topMsg s.chip.dev.plc.queue = some (msg0, [{ msg0 with pri := 0 }])) && s.chip.dev.plc.access.isSome && s.chip.dev.plc.sent.isNone) = true ∧
    (let s := mac fun p => { p with queue := [msg0], access := some 3, nbrs := [] }
     nextB (exec (.frameTransmit true) s) fun t => t.chip.dev.sup.replies == [(cmd 3 4 []).reply 4 [4]]) = true ∧
    (let s := mac fun p => { p with sent := some (sent0, map1) }
     (nextB (exec (.sackReceived (sack 3)) s) fun t => t.chip.dev.plc.sent.isNone && t.chip.dev.plc.cw == 8 &&
       t.chip.dev.sup.replies == [(cmd 3 4 []).reply 0 [2, 1]]) = true ∧
     (nextB (exec (.sackReceived (sack 1)) s) fun t =>
       decide (t.chip.dev.plc.queue = [{ sent0 with failed := some [1], repeats := 1 }]) &&
       decide ((t.chip.dev.plc.nbr 2).map (·.tx) = some (some (s.chip.dev.plc.downgrade map1 3)))) = true ∧
     (nextB (exec .sackTimeout s) fun t => t.chip.dev.plc.cw == 16 && decide (t.chip.dev.plc.queue = [{ sent0 with repeats := 1 }])) = true ∧
     nextOf (exec (.sackReceived { sack 3 with seq := 8 }) s) = some s) ∧
    (let s := mac fun p => { p with sent := some ({ sent0 with repeats := 3 }, map1) }
     nextB (exec (.sackReceived (sack 1)) s) fun t => t.chip.dev.sup.replies == [(cmd 3 4 []).reply 4 [5]]) = true ∧
    (nextB (exec (.toneMapMessage (.fromNeighbour 2 map1)) (mac id)) fun t => decide (t.chip.dev.plc.nbr 2 = some { nbr2 with tx := some map1 })) = true ∧
    nextOf (exec (.toneMapMessage (.measured 2 map1)) (mac id)) = some (mac id) ∧ (mac id).chip.dev.plc.allows map1 = true ∧
    (let n := { nbr2 with lockHdr := true }
     let s := setF (mac fun p => { p with nbrs := [(4, n)] }) A.clkCycstat 3 3 1
     s.chip.dev.locked && nextB (exec (.toneMapMessage (.measured 2 map1)) s) fun t =>
      decide (t.chip.dev.plc.nbr 2 = some { n with rxCur := some { map1 with tmid := nextTmid 0 } }) &&
      (t.chip.dev.plc.queue.map (·.mgmt)) == [some (some { map1 with tmid := nextTmid 0 })]) = true ∧
    (nextB (exec (.neighbourTimeout 4) (mac id)) fun t => t.chip.dev.plc.nbrs == [] && noticed (mac id) t [0x38100000, 2]) = true ∧
    nextOf (exec (.neighbourTimeout 5) (mac id)) = some (mac id) ∧
    (nextB (exec .receiveInputSaturated (mac id)) fun t => t.chip.dev.rb A.plcStat 1) = true := by decide +kernel

/-- The answer of a command that the supervisor holds, with its reply. -/
def repliesB (i : Instr) (s : State) (cls op : Nat) (h : HeldCmd) (status : Nat) (data : List Word) : Bool :=
  holdsB (holding s h) 0 cls op h && nextOf (exec i (holding s h)) == some ((holding s h).answered h status data)
/-- The same for a command with effects beyond its reply. -/
def heldB (i : Instr) (s : State) (cls op : Nat) (h : HeldCmd) (p : State → Bool) : Bool :=
  holdsB (holding s h) 0 cls op h && nextB (exec i (holding s h)) p
def macOff : State := setF up A.pwrDom 6 6 0
def idle3 : State := mac fun p => { p with started := false }

theorem wit_LinkCommands :
    (let l : List (Nat × Instr) := [(1, .plcConfig 0), (2, .macStart 0), (3, .macStop 0), (4, .send 0), (5, .nbrinfo 0), (6, .tmreq 0), (7, .rxdone 0)]
     l.all fun e => repliesB e.2 noPlc 3 e.1 (cmd 3 e.1 []) 7 [] && repliesB e.2 macOff 3 e.1 (cmd 3 e.1 []) 4 [1] &&
       (e.1 == 1 || e.1 == 2 || e.1 == 5 || e.1 == 7 || repliesB e.2 up 3 e.1 (cmd 3 e.1 []) 4 [2])) = true ∧
    up.chip.dev.reachAt 0 1 0x12 = true ∧ up.chip.dev.privAt 0 1 0x12 = true ∧
    repliesB (.plcConfig 0) (setF up (A.secPMAPn 4) 23 16 0) 3 1 (cmd 3 1 [0x10000]) 6 [] = true ∧
    repliesB (.plcConfig 0) up 3 1 (cmd 3 1 [0x0FFF0000]) 2 [] = true ∧ repliesB (.plcConfig 0) (mac id) 3 1 (cmd 3 1 [0x10000]) 4 [3] = true ∧
    heldB (.plcConfig 0) up 3 1 (cmd 3 1 [0x00050001, 9, 12]) (fun t => t.chip.dev.rf A.plcCfg 31 24 == 9 && t.chip.dev.rf A.plcCfg 23 12 == 5 &&
      t.chip.dev.rb A.plcCfg 0 && t.chip.dev.rf A.plcTxcfg 4 0 == 12) = true ∧
    repliesB (.macStart 0) (mac id) 3 2 (cmd 3 2 []) 4 [3] = true ∧
    heldB (.macStart 0) idle3 3 2 (cmd 3 2 []) (fun t => t.chip.dev.plc.started && t.chip.dev.txen && t.chip.dev.rb A.plcStat 10 &&
      t.chip.dev.plc.cw == 8) = true ∧
    heldB (.macStop 0) (mac fun p => { p with sent := some (sent0, map1) }) 3 3 (cmd 3 3 []) (fun t => t.chip.dev.plc.started &&
      t.chip.dev.plc.stopping == some { cmd 3 3 [] with started := true }) = true ∧
    heldB (.macStop 0) (mac fun p => { p with queue := [msg0] }) 3 3 (cmd 3 3 []) (fun t => !t.chip.dev.plc.started && t.chip.dev.plc.queue == [] &&
      t.chip.dev.sup.replies == [(cmd 3 4 []).reply 4 [2], (cmd 3 3 []).reply 0 []]) = true ∧
    repliesB (.send 0) (mac id) 3 4 (cmd 3 4 [2, 16383, 2]) 2 [] = true ∧
    repliesB (.send 0) (mac fun p => { p with nbrs := [] }) 3 4 (cmd 3 4 [2, 0, 1]) 4 [4] = true ∧
    heldB (.send 0) (mac fun p => { p with txRam := [(16382, 7), (16383, 8)] }) 3 4 (cmd 3 4 [0x3002, 16382, 2]) (fun t =>
      (t.chip.dev.plc.queue.map fun m => (m.fdst, m.pri, m.src, m.bytes)) == [(2, 3, 1, [7, 8])]) = true ∧
    repliesB (.nbrinfo 0) (mac id) 3 5 (cmd 3 5 [5]) 0 [0, 0, 0] = true ∧
    repliesB (.nbrinfo 0) (mac fun p => { p with nbrs := [(4, { nbr2 with lqs := [20, 21], tx := some map1 })] }) 3 5 (cmd 3 5 [4]) 0
      [wd (2 ^ 31 + 2 * 2 ^ 16 + 7 * 2 ^ 13 + 20), 0, 1] = true ∧
    repliesB (.tmreq 0) (mac id) 3 6 (cmd 3 6 [3]) 4 [4] = true ∧
    heldB (.tmreq 0) (mac id) 3 6 (cmd 3 6 [2]) (fun t => (t.chip.dev.plc.queue.map (·.fdst)) == [2]) = true ∧
    repliesB (.rxdone 0) (mac id) 3 7 (cmd 3 7 [64]) 4 [6] = true ∧
    heldB (.rxdone 0) (mac fun p => { p with rxMsgs := [(64, 9), (0, 5)] }) 3 7 (cmd 3 7 [64]) (fun t => t.chip.dev.plc.rxMsgs == [(0, 5)]) = true ∧
    repliesB (.macinfo 0) noPlc 3 8 (cmd 3 8 []) 7 [] = true ∧ repliesB (.macinfo 0) macOff 3 8 (cmd 3 8 []) 0 [0, 0, 0] = true := by decide +kernel

/-- A panel with a usable waveform for a full and a differential update, CLEAR and the dial, at a temperature in band 2. -/
def pnl (f : Pnl → Pnl) : State := dev up fun d =>
  { ((d.setReg A.pnlStat 0x00020000).setReg A.pnlCfg 0x000A0000) with pnl := f { d.pnl with
      wave := [(0x2400, 0x02010001), (0x2404, 0x00008002), (0x2408, 0x00010000), (0x2480, 0x02010001), (0x2484, 0x00008002), (0x2488, 0x00010000),
        (0x2500, 0x02010001), (0x2504, 0x00000002), (0x2508, 0x00010000), (0x2580, 0x02010001), (0x2584, 0x00008002), (0x2588, 0x00010000),
        (0x3008, 0x80400000)] } }
def upd (diff : Nat) : HeldCmd := cmd 4 1 ([wd diff, 0xFF] ++ List.replicate 9 0)
def img (w : Word) : List Word := w :: List.replicate 9 0

theorem wit_PanelUpdates :
    (pnl id).chip.dev.fuses.imgWords = 10 ∧ (pnl id).chip.dev.noTemp = false ∧ (pnl id).chip.dev.bandNow = 2 ∧
    (pnl id).chip.dev.pnl.usable 2 0 = true ∧ (pnl id).chip.dev.pnl.usable 2 1 = true ∧ (pnl id).chip.dev.pnl.usable 2 3 = true ∧
    heldB (.updateFull 0 1000) (pnl id) 4 1 (upd 0) (fun t => (t.chip.nvm.journalNow.map fun j => (j.pending, j.slot, j.band, j.target)) ==
      some (true, 0, 2, img 0xFF) && (t.chip.nvm.journalNow.map (·.mask)) == some (List.replicate 10 0xFFFFFFFF) && t.chip.dev.rb A.pnlStat 12 &&
      (t.chip.dev.pnl.run.map fun r => (r.target, r.slot, r.band, r.live)) == some (some (img 0xFF), 0, 2, true)) = true ∧
    heldB (.updateDiff 0 1000) (pnl fun p => { p with image := some (img 0xF0F) }) 4 1 (upd 1) (fun t =>
      (t.chip.nvm.journalNow.map (·.mask)) == some (img 0xFF0) && (t.chip.dev.pnl.run.map (·.slot)) == some 1) = true ∧
    (let s := dev (pnl id) fun d => d.putBit A.pnlCfg 1 true
     heldB (.updateFull 0 1001) s 4 1 (upd 0) fun t => t.chip.dev.rb A.pnlStat 3 && t.chip.dev.rb A.pnlStat 14 && t.chip.dev.pnl.run.isNone &&
       t.chip.dev.sup.replies == [(upd 0).reply 4 [7]]) = true ∧
    (let s := nvm (pnl id) fun n => { n with journal := [⟨1, true, 1, 2, img 5, img 6⟩] }
     s.chip.nvm.journalPending && repliesB (.updateFull 0 0) s 4 1 (upd 0) 4 [2] && heldB (.recover 0 0) s 4 2 (cmd 4 2 []) fun t =>
       (t.chip.dev.pnl.run.map fun r => (r.target, r.slot, r.mask, r.second)) == some (none, 3, img 6, some (1, img 5))) = true ∧
    repliesB (.updateFull 0 0) (dev (pnl id) fun d => d.putBit A.pnlStat 15 true) 4 1 (upd 0) 4 [5] = true ∧
    repliesB (.updateFull 0 0) up 4 1 (upd 0) 4 [5] = up.chip.dev.noTemp ∧
    repliesB (.updateFull 0 0) (pnl fun p => { p with wave := [] }) 4 1 (upd 0) 4 [4] = true ∧
    (nextOf (exec (.updateFull 0 0) (holding (pnl fun p => { p with dialRun := some (2, []) }) (upd 0))) =
      some (holding (pnl fun p => { p with dialRun := some (2, []) }) (upd 0))) ∧
    repliesB (.recover 0 0) (pnl id) 4 2 (cmd 4 2 []) 4 [3] = true ∧
    (let r : PnlRun := ⟨upd 1, some (img 3), img 2, 1, 2, none, 9, 0, true⟩
     let s := nvm (pnl fun p => { p with run := some r, image := some (img 1), shown := true, dialImg := some (img 1) }) fun n => { n with journal := [⟨1, true, 1, 2, img 3, img 2⟩] }
     nextB (exec .waveformDone s) fun t => t.chip.dev.pnl.run.isNone && t.chip.dev.pnl.image == some (img 3) && !t.chip.nvm.journalPending &&
       t.chip.dev.reg A.pnlUpdcnt == 1 && t.chip.dev.sup.replies == [(upd 1).reply 0 [9, t.chip.dev.reg A.pnlAgemult]] &&
       SMap.get 0 t.chip.nvm.stress 1 == 2 && SMap.get 0 t.chip.nvm.stress 0 == 0) = true ∧
    (let r : PnlRun := ⟨cmd 4 2 [], none, img 2, 3, 2, some (1, img 3), 9, 0, true⟩
     nextB (exec .waveformDone (pnl fun p => { p with run := some r })) fun t => (t.chip.dev.pnl.run.map fun x => (x.target, x.slot, x.second)) ==
       some (some (img 3), 1, none)) = true := by decide +kernel

theorem wit_PanelCommandsAndDial :
    (let s := dev up fun d => { d with fuses := { d.fuses with build := .s } }
     repliesB (.jinfo 0) s 4 4 (cmd 4 4 []) 7 [] && repliesB (.updateDiff 0 1) s 4 1 (upd 1) 7 [] &&
       repliesB (.bezel 0 1) (setF up A.pwrDom 7 7 0) 4 9 (cmd 4 9 []) 4 [1]) = true ∧
    (let s := nvm (pnl id) fun n => { n with journal := [⟨1, true, 1, 2, img 5, img 6⟩] }
     heldB (.jdiscard 0) s 4 3 (cmd 4 3 []) (fun t => !t.chip.nvm.journalPending) &&
       repliesB (.jinfo 0) s 4 4 (cmd 4 4 []) 0 (wd s.chip.nvm.journalWord :: img 5)) = true ∧
    repliesB (.wfsave 0) sealedUp 4 5 (cmd 4 5 []) 5 [] = true ∧
    heldB (.wfsave 0) (pnl id) 4 5 (cmd 4 5 []) (fun t => t.chip.nvm.waves == some (pnl id).chip.dev.pnl.wave) = true ∧
    repliesB (.wfload 0) up 4 6 (cmd 4 6 []) 4 [4] = true ∧
    (let s := nvm up fun n => { n with waves := some [(0x2000, 5)] }
     heldB (.wfload 0) s 4 6 (cmd 4 6 []) (fun t => t.chip.dev.pnl.wave == [(0x2000, 5)]) &&
       repliesB (.wfload 0) (dev s fun d => d.putBit A.pnlStat 13 true) 4 6 (cmd 4 6 []) 3 []) = true ∧
    repliesB (.stress 0) up 4 7 (cmd 4 7 [320]) 2 [] = true ∧ repliesB (.stress 0) up 4 7 (cmd 4 7 [319]) 0 [0, 0, 0] = true ∧
    heldB (.stresssync 0) (pnl fun p => { p with dial := [(3, 7)] }) 4 8 (cmd 4 8 []) (fun t => t.chip.dev.pnl.dial == [] &&
      SMap.get 0 t.chip.nvm.stress 3 == 7) = true ∧
    heldB (.bezel 0 1001) (pnl id) 4 9 (cmd 4 9 []) (fun t => t.chip.dev.rb A.pnlStat 14 && t.chip.dev.rb A.pnlStat 3 &&
      t.chip.dev.sup.replies == [(cmd 4 9 []).reply 0 [1]]) = true ∧
    (nextB (exec .journalCopy (nvm (pnl id) fun n => { n with journal := [⟨1, true, 1, 2, img 5, img 6⟩] })) fun t => t.chip.dev.reg A.pnlJournal != 0) = true ∧
    (let f := fun (w : Word) => setBit w 0 true
     let s := dev (pnl id) fun d => ((d.putBit A.pnlCfg 0 true).setReg A.pnlDialimg0 0x1234)
     let r : PnlRun := ⟨upd 1, some (img 3), img 2, 1, 2, none, 9, 0, true⟩
     letB s .hs A.pnlDialcmd f && (s.loaded .hs A.pnlDialcmd f).dialRefuses.isNone && (nextB (exec (.dialUpdate .hs) s) fun t =>
       t.chip.dev.pnl.dialRun == some (2, [0x1234, 0]) && t.chip.dev.rb A.pnlStat 13 && t.chip.dev.pnl.v1 == 0x80 && t.chip.dev.pnl.v2 == 0x40) &&
     (nextB (exec (.dialUpdate .hs) (pnl id)) fun t => t.chip.dev.rf A.pnlStat 23 20 == 9 && t.chip.dev.rb A.pnlStat 2) &&
     (nextB (exec (.dialUpdate .hs) (dev s fun d => d.modPnl fun p => { p with run := some r })) fun t => t.chip.dev.pnl.dialHeld &&
       t.chip.dev.rb A.pnlStat 13)) = true ∧
    (nextB (exec .dialDone (pnl fun p => { p with dialRun := some (2, [3, 0]), dialImg := some [1, 0] })) fun t => t.chip.dev.reg A.pnlDialcnt == 1 &&
      t.chip.dev.pnl.dialImg == some [3, 0] && SMap.get 0 t.chip.dev.pnl.dial 1 == 2 && SMap.get 0 t.chip.dev.pnl.dial 0 == 1) = true ∧
    ordB up .hs A.pnlBezcmd (fun w => setBit w 0 true) (.bezelCheck .hs) (fun d => d.modPnl fun p => { p with bezPend := true }) = true ∧
    (nextB (exec (.bezelCheckDone 1001) (pnl fun p => { p with bezPend := true })) fun t => t.chip.dev.rb A.pnlStat 14 && t.chip.dev.rb A.pnlStat 3) = true ∧
    (let r : PnlRun := ⟨upd 1, some (img 3), img 2, 1, 2, none, 9, 0, true⟩
     nextB (exec .pumpFault (pnl fun p => { p with run := some r })) fun t => t.chip.dev.pnl.run.isNone && t.chip.dev.rb A.pnlStat 4 &&
       t.chip.dev.rb A.pnlStat 5 && t.chip.dev.sup.replies == [(upd 1).reply 4 [8]]) = true := by decide +kernel

/-! ## The ring, sessions, keys and the seal -/

/-- A member of ID 3 on an enabled ring, and the master. -/
def ring (id : Nat) (f : Chn → Chn) : State := dev up fun d =>
  { d.setReg A.chnCfg 1 with fuses := { d.fuses with id := BitVec.ofNat 3 id }, chn := f { d.chn with lnkOk := true } }
/-- A round with a slot j in it. -/
def roundWith (j : Nat) (s : RingSlot) : Round := roundSealed true { round0 with slots := round0.slots.set j s }
/-- A word for word 2 of mailbox 6 of device 3, and the GO of mailbox 6, from device 5. -/
def word6 : RingSlot := let s : RingSlot := ⟨0xCAFE, 2, 6, 3, 5, false, false, true, true, 0, 0⟩; { s with scrc := slotCrc s }
def go6 : RingSlot := let s : RingSlot := ⟨0, 0, 6, 3, 5, false, true, true, true, 0, 0⟩; { s with scrc := slotCrc s }
def lane9 (next : Nat) : Lane := ⟨9, 5, 6, 1, true, next, true, 0⟩

theorem wit_ChainLink :
    nextOf (exec (.syncReceived 8) (ring 0 id)) = some (ring 0 id) ∧
    (nextB (exec (.syncReceived 3) (ring 3 id)) fun t => t.chip.dev.reg A.chnSyncglitch == 1) = true ∧
    (nextB (exec (.syncReceived 12) (ring 3 id)) fun t => t.chip.dev.chn.synced && t.chip.dev.modOn && t.chip.dev.rb A.chnStat 2) = true ∧
    (let s := dev (ring 3 fun c => { c with up := true }) fun d => (d.setMb 7 { d.mb 7 with full := true }).putFld (A.mbxMnCfg 7) 3 0 8
     nextB (exec .lnkLoss s) fun t => !t.chip.dev.chn.lnkOk && !t.chip.dev.chn.up && !t.chip.dev.modOn && t.chip.dev.rb A.chnStat 3 &&
       t.chip.dev.rb A.chnStat 1 && (t.chip.dev.mb 7).stale && (t.chip.dev.chan 4).flags.off) = true ∧
    nextOf (exec .lnkReturn (ring 0 id)) = some (ring 0 id) ∧
    (nextB (exec .lnkReturn (ring 3 fun c => { c with lnkOk := false })) fun t => t.chip.dev.chn.lnkOk) = true ∧
    (ring 3 id).chip.dev.lnkPresent = true ∧ (ring 3 id).chip.dev.rb A.chnCfg 0 = true ∧
    (nextB (exec (.roundPass round0) (ring 3 fun c => { c with good := 3 })) fun t => t.chip.dev.chn.up && t.chip.dev.epoch 8 == 1 &&
      t.chip.dev.reg A.chnRound == 1 && t.chip.dev.rb A.chnStat 0) = true ∧
    (nextB (exec (.roundPass { round0 with crc := 0 }) (ring 3 fun c => { c with up := true, bad := 1 })) fun t => !t.chip.dev.chn.up &&
      t.chip.dev.reg A.chnBadrnd == 1 && t.chip.dev.rb A.chnStat 1) = true ∧
    nextOf (exec (.roundPass round0) (setF up A.chnCfg 0 0 0)) = some (setF up A.chnCfg 0 0 0) := by decide +kernel

theorem wit_ChainAggregation :
    (let s := ring 0 fun c => { c with up := true, rnum := 255, gotOk := true, okHist := 5, backlog := #v[-16385, 2 ^ 80, 16383, 0] }
     nextB (exec .roundStart s) fun t => match t.chip.dev.chn.lastRound with
       | some r => r.rnum == 0 && r.okmap == 11 && (r.cells.map (·.collect)) == [-1, 2 ^ 60, 0, 0] &&
           t.chip.dev.chn.backlog == #v[-1, 2 ^ 80 - 2 ^ 74, 16383, 0] && t.chip.dev.chn.flight.length == 2
       | none => false) = true ∧
    (let s := ring 3 fun c => { c with up := true, backlog := #v[16384, 0, 0, 0] }
     let r := roundSealed true { round0 with cells := [⟨7, 100⟩, ⟨0, 0⟩, ⟨0, 0⟩, ⟨0, 0⟩] }
     nextB (exec (.roundPass r) s) fun t => (t.chip.dev.chn.lastRound.map fun x => (x.cells.getD 0 ⟨0, 0⟩).collect) == some 8 &&
       t.chip.dev.chn.total.getD 0 0 == 100 && t.chip.dev.chn.backlog == #v[0, 0, 0, 0]) = true ∧
    (let s := ring 3 fun c => { c with flight := [⟨2, 250, 3, 99⟩] }
     (nextB (exec (.roundPass (roundSealed true { round0 with rnum := 255, okmap := 0xEF })) s) fun t => t.chip.dev.chn.backlog == #v[0, 0, 99, 0]) = true ∧
     (nextB (exec (.roundPass (roundSealed true { round0 with rnum := 255, okmap := 0x10 })) s) fun t => t.chip.dev.chn.backlog == #v[0, 0, 0, 0] &&
       t.chip.dev.chn.flight == []) = true) ∧
    (let s := dev (ring 3 fun c => { c with up := true }) fun d =>
       { d.setOut 1 { d.out 1 with aggRef := some 90, p := 5 } with act := [(A.bimCFnCfg 1, 0x20)] }
     s.chip.dev.cfSrc 1 && nextB (exec (.roundPass (roundSealed true { round0 with cells := List.replicate 4 ⟨0, 100⟩ })) s) fun t =>
       (t.chip.dev.out 1).p == 5 + 10 * 2 ^ 14 && (t.chip.dev.out 1).aggRef == some 100) = true ∧
    (nextB (exec (.roundPass (roundSealed true { round0 with cells := List.replicate 4 ⟨-3, 0⟩ })) (ring 0 fun c => { c with total := #v[1, 9, 0, 0] })) fun t =>
      t.chip.dev.chn.total == #v[0xFFFFFFFFFFFFFFFE, 6, 0xFFFFFFFFFFFFFFFD, 0xFFFFFFFFFFFFFFFD] && t.chip.dev.chn.gotOk) = true := by decide +kernel

theorem wit_ChainMessages :
    (let r := roundSealed true { round0 with status := round0.status.set 3 ⟨true, false, false, 0⟩ }
     nextB (exec (.roundPass r) (ring 3 id)) fun t => t.chip.dev.chn.dupId && t.chip.dev.chn.lastRound == some r) = true ∧
    (ring 3 id).chip.dev.chainMayWrite = true ∧ (ring 3 id).chip.dev.takesSlot word6 = true ∧ (ring 3 id).chip.dev.mbRefuses 6 = none ∧
    (ring 3 id).chip.dev.takesSlot noSlot = false ∧
    (nextB (exec (.roundPass (roundWith 5 word6)) (ring 3 id)) fun t => t.chip.dev.reg (mbDataAt 6 2) == 0xCAFE &&
      (t.chip.dev.chn.lastRound.map fun x => x.slots.getD 5 noSlot) == some { word6 with result := 1 }) = true ∧
    (nextB (exec (.roundPass (roundWith 5 go6)) (ring 3 id)) fun t => (t.chip.dev.mb 6).full && (t.chip.dev.mb 6).mseq == 1 &&
      SMap.find t.chip.dev.chn.togglesRx (32 * 5 + 6) == some true) = true ∧
    (nextB (exec (.roundPass (roundWith 5 go6)) (ring 3 fun c => { c with togglesRx := [(166, true)] })) fun t => !(t.chip.dev.mb 6).full &&
      (t.chip.dev.chn.lastRound.map fun x => (x.slots.getD 5 noSlot).result) == some 1) = true ∧
    (let s := dev (ring 3 id) fun d => d.setMb 6 { d.mb 6 with full := true }
     nextB (exec (.roundPass (roundWith 5 go6)) s) fun t => (t.chip.dev.chn.lastRound.map fun x => (x.slots.getD 5 noSlot).result) == some 2) = true ∧
    (let s := fun n => dev (ring 3 fun c => { c with up := true, lane0 := some (lane9 n) }) fun d =>
       (d.setMb 9 { d.mb 9 with full := true, high := 1 }).setReg (mbDataAt 9 0) 77
     let back := fun (n x : Nat) => roundWith 3 { (s n).chip.dev.laneSlot (lane9 n) with result := x }
     (nextB (exec (.roundPass (back 0 1)) (s 0)) fun t => t.chip.dev.chn.lane0 == some (lane9 1)) &&
     (nextB (exec (.roundPass (back 1 1)) (s 1)) fun t => !(t.chip.dev.mb 9).full && t.chip.dev.chn.lane0.isNone) &&
     (nextB (exec (.roundPass (back 0 2)) (s 0)) fun t => t.chip.dev.chn.lane0 == some (lane9 0)) &&
     (nextB (exec (.roundPass (back 0 0)) (s 0)) fun t => t.chip.dev.chn.lane0 == some { lane9 0 with waited := 1 }) &&
     (nextB (exec (.roundPass (back 0 4)) (s 0)) fun t => t.chip.dev.reg A.chnMsgfail == 0x80090004#32 && !(t.chip.dev.mb 9).full) &&
     (nextB (exec (.roundPass (back 0 0)) (dev (s 0) fun d => d.modChn fun c => { c with lane0 := some { lane9 0 with waited := 63 } })) fun t =>
       t.chip.dev.reg A.chnMsgfail == 0x80090006#32 && t.chip.dev.rb A.chnStat 4)) = true := by decide +kernel

/-- A host at L3 with a key in slot 0 and the time t. -/
def keyed (f : Dev → Dev) : State := dev State.reset fun d => f { d with fuses := { d.fuses with key0 := 7, key1 := 8 } }
def opening (s : State) (m : Master) (level slot t cause : Nat) : Bool :=
  letB (s.at t) m A.secSesscmd (fun _ => setFld (setFld 0x10000000#32 25 24 level) 19 16 slot) &&
  nextB (exec (.openSession m (Fin.ofNat 4 level) (Fin.ofNat 16 slot) 5 t) s) fun x =>
    if cause = 0 then x.chip.dev.sessState m.id == 1 && x.chip.dev.ireg m.id (A.secCHALn 0) == 5 && (x.chip.dev.session m.id).chalT == t
    else fld (x.chip.dev.ireg m.id A.secSesstat) 19 16 == cause && bit (x.chip.dev.ireg m.id A.secSesstat) 1
/-- A master's session in a state: 1 challenge, 2 open. -/
def inSess (m st : Nat) (x : Session) : State := keyed fun d => { d.putIfld m A.secSesstat 23 20 st with sess := [(m, x)] }

theorem wit_SessionsOpen : opening (keyed id) .hs 1 0 9 0 = true ∧ opening (keyed id) .sv 1 0 9 8 = true ∧ opening (keyed id) .hs 0 0 9 2 = true ∧
    opening (keyed id) .hs 1 4 9 2 = true ∧ opening (keyed id) .hi 2 4 9 3 = true ∧ opening (keyed id) .hi 2 15 9 3 = true ∧
    opening (inSess 1 2 Session.zero) .hi 2 0 9 4 = true ∧
    opening (nvm (keyed id) fun n => { n with locked := [1] }) .hi 2 1 9 7 = true := by decide +kernel

/-- HS asked for L1 with slot 0 at time 0; its challenge is 1, and its response the right one. -/
def asked : State := inSess 0 1 { Session.zero with reqLevel := 1, reqSlot := 0 }
def answerOf (s : State) : List Byte := hmac (leBytes 32 7) (wordBytes ((List.range 8).map fun n => s.chip.dev.ireg 0 (A.secCHALn n)) ++
  leBytes 4 s.chip.dev.fuses.sysId ++ [0, 0, 1, 0])
def proved (f : List Byte → List Byte) : State := dev asked fun d =>
  (List.range 8).foldl (fun d n => d.setIreg 0 (A.secRESPn n) (wd (leNat (((f (answerOf asked)).drop (4 * n)).take 4)))) d
def proveB (s : State) (t : Nat) (p : State → Bool) : Bool :=
  letB (s.at t) .hs A.secSesscmd (fun _ => setFld (setFld 0x20000000#32 25 24 1) 19 16 0) && nextB (exec (.prove .hs 1 0 t) s) p
def proveFails (x : State) (cause : Nat) : Bool := x.chip.dev.sessState 0 == 0 && fld (x.chip.dev.ireg 0 A.secSesstat) 19 16 == cause &&
  bit (x.chip.dev.ireg 0 A.secSesstat) 1 && x.chip.dev.ireg 0 (A.secCHALn 0) == 0
/-- Whether the newest entry of the log has a value of RC1, and kind, master, level and ARG. -/
def newest (x : State) (v : Nat) (l : List Byte) : Bool := x.chip.nvm.rc 1 == v && match x.chip.nvm.log.getLast? with
  | some b => b.take 8 == leBytes 8 v && (b.drop 8).take 4 == l && b.drop 28 == leBytes 4 (crc32c (b.take 28)).toNat
  | none => false

theorem wit_SessionsProof :
    proveB (proved id) 163840000 (fun x => x.chip.dev.sessState 0 == 2 && x.chip.dev.level 0 == 1 && x.chip.dev.level 1 == 3 &&
      decide (x.chip.dev.session 0 = { Session.zero with level := 1, slot := 0 }) && newest x 1 [1, 0, 1, 0]) = true ∧
    proveB (proved id) 163840001 (fun x => proveFails x 5) = true ∧
    proveB (proved fun l => l.map (· ^^^ 1)) 9 (fun x => proveFails x 6 && SMap.get 0 x.chip.nvm.lockFails 0 == 1 && x.chip.nvm.log == []) = true ∧
    proveB (nvm (proved fun l => l.map (· ^^^ 1)) fun n => { n with lockFails := [(0, 7)] }) 9 (fun x => proveFails x 6 && x.chip.nvm.locked == [0] &&
      newest x 1 [7, 0, 0, 0]) = true ∧
    proveB (keyed id) 9 (fun x => fld (x.chip.dev.ireg 0 A.secSesstat) 19 16 == 4) = true := by decide +kernel

/-- HS at L1 by slot 0, with changes of two kinds. -/
def open0 : State := dev (inSess 0 2 { Session.zero with level := 1, slot := 0, mask := 5 }) fun d =>
  (d.putFld A.secLevel 1 0 1).putFld A.pwrDom 7 0 0xFF
theorem wit_SessionsEnd :
    letB open0 .hs A.secSesscmd (fun _ => 0x30000000) = true ∧
    (nextB (exec (.closeSession .hs) open0) fun x => x.chip.dev.sessState 0 == 0 && x.chip.dev.level 0 == 3 &&
      bit (x.chip.dev.ireg 0 A.secSesstat) 2 && newest x 1 [2, 0, 1, 5]) = true ∧
    (nextB (exec (.sessionTimeout .hs) open0) fun x => x.chip.dev.level 0 == 3 && newest x 1 [3, 0, 1, 21]) = true ∧
    (nextB (exec (.closeSession .hs) asked) fun x => x.chip.dev.sessState 0 == 0 && x.chip.nvm.log == []) = true ∧
    nextOf (exec (.sessionTimeout .hs) asked) = some asked ∧ letB asked .hs A.secSesscmd (fun _ => 0x30000000) = true ∧
    (nextB (exec (.lockoutExpire 3) (nvm up fun n => { n with locked := [1, 3] })) fun x => x.chip.nvm.locked == [1]) = true := by decide +kernel

theorem wit_SealKeysAndMap :
    letB up .hs A.secSealcmd (fun _ => 1) = true ∧ letB open0 .hs A.secSealcmd (fun _ => 2) = true ∧
    (nextB (exec (.sealSet .hs) open0) fun x => x.chip.dev.sealed && x.chip.nvm.rc 0 == 1 && newest x 1 [4, 0, 1, 0] &&
      (x.chip.nvm.sealCopy.map (·.val)) == some true && (x.chip.dev.session 0).mask == 0xD) = true ∧
    (let s := setF open0 A.secSealstat 0 0 1
     nextB (exec (.sealOpen .hs) s) fun x => !x.chip.dev.sealed && x.chip.nvm.rc 0 == 1 && newest x 1 [5, 0, 1, 0]) = true ∧
    (nextB (exec (.sealOpen .hs) sealedUp) fun x => x.chip.dev.sealed && fld (x.chip.dev.ireg 0 A.secSesstat) 19 16 == 9) = true ∧
    (nextB (exec (.sealOpen .hs) open0) fun x => !x.chip.dev.sealed && x.chip.nvm.rc 0 == 0) = true ∧
    letB open0 .hs A.secKeycmd (fun _ => setFld 0x80000000#32 19 16 7) = true ∧ letB open0 .hs A.secKeycmd (fun _ => setFld 0x80000000#32 19 16 8) = true ∧
    (let s := dev open0 fun d => d.setIreg 0 (A.secRESPn 7) 0xABCD
     nextB (exec (.keycmd .hs 7) s) fun x => (SMap.get 0 x.chip.nvm.keys 7).extractLsb' 224 32 == 0xABCD#32 && x.chip.dev.ireg 0 (A.secRESPn 7) == 0 &&
       x.chip.nvm.rc 0 == 1 && newest x 1 [6, 0, 1, 7] && (x.chip.dev.session 0).mask == 5) = true ∧
    (nextB (exec (.keycmd .hs 8) open0) fun x => fld (x.chip.dev.ireg 0 A.secSesstat) 19 16 == 3) = true ∧
    plainB open0.chip 0 (A.secPMAPn 0) 4 .plain 0x7B551377 = true ∧
    (nextB (exec (.pmapWrite .hs 0 0 0x7B551377) open0) fun x => x.chip.dev.pmap 0 == 0x7B557777#32 && x.chip.nvm.rc 0 == 1 &&
      (x.chip.nvm.pmapCopy.map (·.val)) == some ((List.range 6).map x.chip.dev.pmap) &&
      (x.chip.dev.session 0).mask == 7) = true ∧
    (nextB (exec (.pmapWrite .hs 5 2 0x55) open0) fun x => x.chip.dev.pmap 5 == (open0.chip.dev.pmap 5 &&& 0xFF00) ||| 0x55) = true := by decide +kernel

/-! ## The worked examples of the spec -/

/-- The admission bounds of 05: 1560 paces at FAST and 0.90 V, 1272 at 0.85 V, 1835 at 0.95 V. -/
theorem test_admission : admitA 3 (boundB 10) = 1560 ∧ admitA 3 (boundB 5) = 1272 ∧ admitA 3 (boundB 15) = 1835 := by decide +kernel
/-- The request of 10: command byte 0x42, the address, LEN 2 and its CRC 0x073F. -/
theorem test_request_crc : crc16 0xFFFF [0x42, 0x0C, 0x01, 0x80, 0x02] = 0x073F ∧ crcOk [0x42, 0x0C, 0x01, 0x80, 0x02, 0x07, 0x3F] = true ∧
    (let r := portReq [0x42, 0x0C, 0x01, 0x80, 0x02, 0x07, 0x3F]
     r.op = 1 ∧ r.dev = 2 ∧ r.addr = 0x0C0180 ∧ r.len = 2 ∧ r.bad = false) := by decide +kernel
/-- CNV_CH8_STAT of 10: a stale SEQ clears nothing, the present one both bits. -/
theorem test_sequenced_clear : (let s := dev up fun d => d.setReg (A.cnvCHkStat 8) 0x38000005
    leaves (exec (.sqClear .hs (BitVec.ofNat 24 (A.cnvCHkStat 8)) 0x37 5) s) (A.cnvCHkStat 8) 0x38000005 = true ∧
    leaves (exec (.sqClear .hs (BitVec.ofNat 24 (A.cnvCHkStat 8)) 0x38 5) s) (A.cnvCHkStat 8) 0x38000000 = true) := by decide +kernel
/-- The constant 0.8125 of 06: MOVI d5, #0 and MOVHI d5, #0x3400, #2 (0x0CA00000, 0x10A23400). -/
theorem test_constant : (nextB (exec (.movhi 0 false) (eng .sample 0x10A23400)) fun t => SMap.get 0 (t.chip.dev.eng 0).d 5 == 0x340000000000#48) =
    true ∧ decodeOp 0x10A23400 = some .movhi := by decide +kernel
/-- MOVI d5, #-1 sets every bit (06). -/
theorem test_movi : (nextB (exec (.movi 0 false) (eng .sample 0x0CA0FFFF)) fun t => SMap.get 0 (t.chip.dev.eng 0).d 5 == 0xFFFFFFFFFFFF#48) = true := by
  decide +kernel
/-- VARIANT 5 is a T device with the link, of grade B (00). -/
theorem test_variant : ({ Fuses.factory with build := .t, plc := true, gradeB := true } : Fuses).variant = 5 := by decide +kernel
/-- Device 2 of the example of 17 at round 102: the amount of round 101 comes back, and 4.00 quanta go out. -/
theorem test_ring_okmap : (let q := fun (x : Nat) => (x : Int) * 2 ^ 46
    let s := ring 2 fun c => { c with up := true, rnum := 101, backlog := #v[q 2, 0, 0, 0], flight := [⟨0, 101, 0, q 2⟩] }
    nextB (exec (.roundPass (roundSealed true { round0 with rnum := 102, okmap := 2 })) s) fun t =>
      (t.chip.dev.chn.lastRound.map fun x => (x.cells.getD 0 ⟨0, 0⟩).collect) == some (4 * 2 ^ 32)) = true := by decide +kernel

/-- MUL to AMOV are words of the list. -/
theorem wit_MultiplyAndAccumulate : ∀ o ∈ [Op.mul, .mac, .msu, .sqa, .aclr, .aadd, .amov], ∃ w h, (eng .sample w).fetches 0 o w h := by
  intro o ho
  have h : ∀ o ∈ [Op.mul, .mac, .msu, .sqa, .aclr, .aadd, .amov], ∃ p ∈ words, p.1 = o := by decide +kernel
  obtain ⟨p, hp, rfl⟩ := h o ho
  exact ⟨p.2, hnd .sample, wit_words p hp⟩
theorem wit_InstructionEncodings : ((opRowsArith ++ opRowsOther).any fun r => r.holds 0x04221800#32) = true := by decide +kernel

/-! ## Every command completes -/

/-- A clock, a lock and a frame under way, a frame sent, queues with an entry: the states in which each event occurs. -/
theorem wit_EventsTakeEffect :
    (let d := (dev up fun d => { d with modOn := true, syncDue := 1, cycHigh := true }).chip.dev
     d.held = false ∧ d.modOn = true ∧ 0 < d.syncDue ∧ d.xtmOk = true ∧ d.cycHigh = true ∧ d.chanOn 17 = true ∧ d.on 4 = true ∧ d.on 5 = true ∧
     d.on 6 = true ∧ d.on 7 = true ∧ d.fuses.engine 4 = true ∧ d.isMaster = true) ∧
    (let d := (setF (dev up fun d => { d with fll := { d.fll with lastX := some 1 } }) A.clkCycstat 3 3 1).chip.dev
     d.fll.lastX = some 1 ∧ d.locked = true) ∧
    (pulsing fun o => { o with p := 2 ^ 80, idle := 32 }).chip.dev.pulseDue 0 = true ∧
    (let d := (pulsing fun o => { o with active := true, left := 0 }).chip.dev
     (d.out 0).active = true ∧ (d.out 0).left = 0) ∧
    (setF up A.cnvClamp 2 2 1).chip.dev.rb A.cnvClamp 2 = true ∧ (setF up A.cnvRefstat 4 4 1).chip.dev.rb A.cnvRefstat 4 = true ∧
    ((posting 2 3 true).chip.dev.eng 0).postq ≠ [] ∧
    (let d := (e4 fun r => { r with snapWait := true }).chip.dev
     d.er.snapWait = true ∧ (d.eng d.ownEng).copyPoint = true) ∧
    (let d := (inSt (e4 fun r => { r with handWait := true, passing := some (4, 0) }) 4 .running).chip.dev
     d.er.handWait = true ∧ (d.eng 4).copyPoint = true ∧ d.er.passing = some (4, 0)) ∧
    ((inSt (e4 fun r => { r with passing := some (4, 0) }) 0 .released).chip.dev.eng (up.chip.dev.holder 0).val).released = true ∧
    (posted 0x10100000).chip.dev.sup.held.length < 4 ∧ ((posted 0x10100000).chip.dev.mb 0).full = true ∧
    (auxS id).chip.dev.ab (auxTrg 1) 31 = true ∧ (auxS id).chip.dev.auxTimerDue ≤ 16384000 ∧
    (match (auxRun 1 2).chip.dev.aux.running with | some r => (auxRun 1 2).chip.dev.auxOver r 328334 | none => false) = true ∧
    (dev up fun d => d.putBit A.clkStat 8 false).chip.dev.xtmOk = false ∧ (mac id).chip.dev.macRuns = true ∧
    (mac fun p => { p with sackDue := some ⟨2, 9, 3, 20, 3, 1, true⟩ }).chip.dev.plc.sackDue.isSome = true ∧
    (mac fun p => { p with sent := some (sent0, map1), access := some 5 }).chip.dev.plc.access = some 5 ∧
    (ring 3 id).chip.dev.isMaster = false ∧ (ring 3 id).chip.dev.chn.lnkOk = true ∧ (ring 0 id).chip.dev.ringOn = true ∧
    (inSess 0 2 Session.zero).chip.dev.sessState 0 = 2 ∧
    fetchesB (eng .sample 0x04221800) 0 .add 0x04221800 (hnd .sample) = true ∧
    (let x := (eng .sample 0x04221800).chip.dev.eng 0
     Op.add.fault x ((eng .sample 0x04221800).chip.dev.opEnv 0 false) 0x04221800 (hnd .sample) = none) := by decide +kernel

/-- A command register of every order, and a command of every class, that the fabric and the supervisor let in. -/
theorem wit_CommandsTakeEffect :
    ([A.hrmCmd, A.evtCmd, A.fltSync, A.cnvRetcmd, A.cnvCHkCmd 17, A.cnvRefcmd, A.cnvRLxCmd 0, A.cnvRLxCmd 1, A.cnvPtrlCmd, A.cnvCalcmd,
      A.escEkCmd 4, A.escRlfCmd, A.bimGgSrccmd 3, A.regCfgcmd, A.pwrCmd, A.pnlDialcmd, A.pnlBezcmd, A.nvmCmd, A.sysRstcmd, A.mbxEpochcmd,
      A.secSealcmd, A.secKeycmd, A.secSesscmd, A.auxCmd, A.auxCalcmd, A.regUpdate].all fun a => letB up .hs a id && letB up .sv a id) = true ∧
    letB up .sv A.nvmRccmd (f16 0) = true ∧ letB up .hs A.rtcCmd (fun w => setBit w 6 true) = true ∧
    aliasAt 0x070104 0x4000 = some 0x074104 ∧ Master.sv.isEngine = false ∧
    ([(1, 1), (1, 2), (1, 3), (2, 0x20), (3, 1), (3, 8), (4, 1), (4, 9), (5, 3)].all fun e =>
      holdsB (holding up (cmd e.1 e.2 [])) 0 e.1 e.2 (cmd e.1 e.2 [])) = true := by decide +kernel

/-! ## Clauses of statements above, met -/

/-- A write of 64 bits by the supervisor, and an engine's attempt. -/
theorem wit_wideWrite : (nextB (exec (.registerWrite .sv (BitVec.ofNat 24 (A.escEkW 1)) 3 0x0000000512345678) up) fun t =>
      t.chip.dev.reg (A.escEkW 1) == 0x12345678#32 && t.chip.dev.reg (A.escEkW 1 + 4) == 5#32) = true ∧
    (Instr.registerWrite .sv 0 3 0).wf = true ∧ (Instr.registerWrite .hs 0 3 0).wf = false ∧ (Instr.registerWrite (.eng 0) 0 0 0).wf = false ∧
    nextOf (exec (.registerWrite (.eng 0) (BitVec.ofNat 24 (A.escEkW 1)) 0 7) up) = some up := by decide +kernel

/-- A write cut after its CRC leaves no token, and a stalled access of HI ends in an error frame of cause 15 (R360, R363, R371). -/
theorem wit_cutFrames :
    (nextB (exec (.spiCsEarly wrReq) up) fun t => t.chip.dev.reg (A.escEkW 1) == 0x1234#32 && t.chip.dev.miso == List.replicate 9 0xFF) = true ∧
    (nextB (exec (.hostAccessTimeout .hi 0x150000) up) fun t => decide (t.chip.dev.resp = .err 15) &&
      t.chip.dev.ireg 1 A.regErrinfo == 0xF0150000#32 && (t.chip.dev.i2cResp.map (·.take 2)) == some [0x5A, 15]) = true ∧
    (nextB (exec (.i2cRequest ⟨wrReq, true⟩) up) fun t => t.chip.dev.i2cResp.isNone && t.chip.dev.reg (A.escEkW 1) == 0x1234#32) = true := by
  decide +kernel

/-- The alarm fired in this tick is undone by a DISARM, and an ARM in the matching tick fires (R466). -/
theorem wit_sameTick :
    (match nextOf (exec (.rtcTick false true) alarmed) with
     | some t => t.chip.dev.rtc.newSec && (t.chip.dev.firedNow 0).isSome && t.chip.dev.rb A.rtcStat 1 &&
         nextB (exec (.disarm .hs 0) t) (fun u => !u.chip.dev.armed 0 && !u.chip.dev.rb A.rtcStat 1 && u.chip.dev.rtc.last 0 == none)
     | none => false) = true ∧
    (match nextOf (exec (.rtcTick false true) (setF alarmed A.rtcStat 10 10 0)) with
     | some t => !t.chip.dev.rb A.rtcStat 1 && t.chip.dev.alarmMatch 0 2 &&
         nextB (exec (.arm .hs 0) t) (fun u => u.chip.dev.rb A.rtcStat 1 && u.chip.dev.rtc.last 0 == some 2)
     | none => false) = true := by decide +kernel

/-- A message leaves for the one neighbour. -/
theorem wit_sendable :
    (let d := (mac fun p => { p with queue := [msg0], access := some 3, maskRun := List.replicate 8 0xFFFFFFFF }).chip.dev
     d.plc.nbrs ≠ [] ∧ (∀ e ∈ d.plc.nbrs, e.2.addr ≠ 0xFFF ∧ 0 < d.plc.fits (d.mapFor e.2.addr) (d.hopPhase e.2.addr 3) d.cycleNow)) := by
  decide +kernel

/-- The level of the panel's pins: COM0 of a waveform of one ROW phase addressing common 0 (R528, R534), and VSS without one or with PD7 off. -/
def row0 : State := pnl fun p => { p with
  run := some ⟨upd 1, some (img 3), img 2, 0, 2, none, 9, 0, true⟩, wave := [(0x2400, 0x02010001), (0x2404, 0x29D08002), (0x2408, 0x00010000)] }
theorem wit_pinLevel : (pnl id).chip.dev.pinLevel false 0 0 = 0 ∧ (setF row0 A.pwrDom 7 7 0).chip.dev.pinLevel true 1 0 = 0 ∧
    ((row0.chip.dev.panelWave.bind fun x => stepAt x.1 0).map (·.2)) = some (some 0) ∧
    row0.chip.dev.pinLevel false 0 0 = fld 0x29D08002 31 29 ∧ row0.chip.dev.pinLevel true 1 0 = fld 0x29D08002 25 23 ∧
    row0.chip.dev.pinLevel true 0 0 = fld 0x29D08002 19 17 := by decide +kernel

/-- IRQ0 asserted, released in open drain, released in push-pull (R487). -/
theorem wit_irqLevel : up.chip.dev.irqLevel 0 = none ∧ (setF up A.sysIrqcfg 0 0 1).chip.dev.irqLevel 0 = some true ∧
    irqLine [none, some false] = false ∧ irqLine [none, none] = true := by decide +kernel

/-- An engine that carries its group from a frame on, before its release, holds no role yet (R217, R281). -/
theorem test_carrier :
    (let s := inSt (e4 fun r => { r with passing := some (4, 7), shadow := none }) 4 .running
     s.chip.dev.carrier 0 7 = 4 ∧ s.chip.dev.carrier 0 6 = 0 ∧ s.chip.dev.rolesOf 4 = []) := by decide +kernel

/-- Every word of RS(132,128) has the roots 1, 2, 4 and 8 (R414): 128 bytes and their check bytes. -/
def gfEval (l : List Nat) (x : Nat) : Nat := l.foldl (fun a b => Nat.xor (gfMul a x) b) 0
theorem test_reedSolomon : (let l := (List.range 128).map fun i => (i * 37 + 11) % 256
    ([1, 2, 4, 8].map (gfEval (l ++ rsCheck l))) = [0, 0, 0, 0]) ∧ pageCheck (List.replicate 256 0) = 0 ∧ gfMul 0x80 2 = 0x1D := by decide +kernel

/-- The RWRITE of 12 cut while the pulse of CW3 runs: what the array may hold then is one of the images in flight, one of which has
CW0 to CW2 of page 0x102 new and CW3 on old (R419, R420). -/
def area3 : State := nvm up fun n => ({ n with areas := [(3, (0x100, 4))] } : Nvm).putBytes (0x100 * 256 + 7 * 64) (slotBytes 0x41C7 3 [9])
def rw3 : HeldCmd := recd 2 (wd (3 + 48 * 256) :: List.replicate 12 0xFFFFFFFF)
theorem test_cutRecord : (nextB (exec (.rwrite 0) (holding area3 rw3)) fun t =>
    t.chip.dev.sup.replies == [rw3.reply 0 [0x41C8, 0x410200]] &&
    t.chip.nvm.flight.any fun x =>
      let at_ := fun (a : Nat) => SMap.get 0 x.mem a
      (SMap.get { isOpen := false, closes := 0, check := 0 } x.pages 0x102).isOpen && at_ 0x10200 == 0xC8 && at_ 0x10217 == 0xFF && at_ 0x10218 == 0) = true := by
  decide +kernel

end Sys2Proof.Tests
end

section
/-! The addresses of the mailbox block (11), and what the fabric answers to an access there. -/
namespace Sys2Proof.Machine

/-! ## Register addresses of the mailbox block -/

/-- The address of a register of the MBX block, normal view (R336). -/
structure MbxAddr (a : Nat) : Prop where
  block : a / 0x10000 = 0xF
  normal : a % 0x10000 < 0x1000
  aligned : a % 4 = 0

variable {a : Nat}

theorem MbxAddr.lt (h : MbxAddr a) : a < 0x150000 := by have := h.block; omega

theorem MbxAddr.not_inWindow (h : MbxAddr a) : inWindow a = false := by
  have := h.block
  simp only [inWindow, Bool.and_eq_false_iff, decide_eq_false_iff_not]
  omega

theorem MbxAddr.lockAt_none (h : MbxAddr a) : lockAt a = none := by
  have hb := h.block
  refine if_neg ?_
  simp only [Bool.and_eq_true, decide_eq_true_eq]
  unfold A.regLOCKn
  omega

theorem mbxAddr_mbxCtrl {n : Nat} (hn : n < 32) : MbxAddr (A.mbxMnCtrl n) := by
  constructor <;> unfold A.mbxMnCtrl <;> omega

theorem mbxAddr_mbxCfg {n : Nat} (hn : n < 32) : MbxAddr (A.mbxMnCfg n) := by
  constructor <;> unfold A.mbxMnCfg <;> omega

theorem mbxAddr_mbxData {n w : Nat} (hn : n < 32) (hw : w < 16) : MbxAddr (mbDataAt n w) := by
  constructor <;> unfold mbDataAt A.mbxMnDATAw <;> omega

theorem mbxAddr_mbxEpochcmd : MbxAddr A.mbxEpochcmd := by constructor <;> decide

theorem fixedCfg_mbxCtrl (n : Nat) : fixedCfg (A.mbxMnCtrl n) = false := by
  simp only [fixedCfg, A.mbxMnCtrl, A.mbxMnCfg, Bool.or_eq_false_iff, beq_eq_false_iff_ne]
  omega

theorem fixedCfg_mbxData (n w : Nat) : fixedCfg (mbDataAt n w) = false := by
  simp only [fixedCfg, mbDataAt, A.mbxMnDATAw, A.mbxMnCfg, Bool.or_eq_false_iff, beq_eq_false_iff_ne]
  omega

/-- The configurations that ignore writes are those of mailboxes 0-2 (R387). -/
theorem fixedCfg_mbxCfg (n : Nat) : fixedCfg (A.mbxMnCfg n) = decide (n < 3) := by
  rw [Bool.eq_iff_iff]
  simp only [fixedCfg, A.mbxMnCfg, Bool.or_eq_true, beq_iff_eq, decide_eq_true_eq]
  omega

theorem mbxCtrl_offset {n : Nat} (hn : n < 32) :
    ∃ o, A.mbxMnCtrl n % 0x10000 = o ∧ 0x100 ≤ o ∧ o < 0x300 ∧ o % 16 = 4 ∧ (o - 0x100) / 16 = n :=
  ⟨0x104 + 16 * n, by unfold A.mbxMnCtrl; omega, by omega, by omega, by omega, by omega⟩

theorem mbxCfg_offset {n : Nat} (hn : n < 32) : ∃ o, A.mbxMnCfg n % 0x10000 = o ∧ 0x100 ≤ o ∧ o < 0x300 ∧ o % 16 = 0 :=
  ⟨0x100 + 16 * n, by unfold A.mbxMnCfg; omega, by omega, by omega, by omega⟩

theorem mbxData_offset {n w : Nat} (hn : n < 32) (hw : w < 16) :
    ∃ o, mbDataAt n w % 0x10000 = o ∧ 0x400 ≤ o ∧ (o - 0x400) / 0x40 = n ∧ (o - 0x400) % 0x40 / 4 = w ∧ o % 4 = 0 ∧ o < 0xC00 :=
  ⟨0x400 + 4 * (16 * n + w), by unfold mbDataAt A.mbxMnDATAw; omega, by omega, by omega, by omega, by omega, by omega⟩

/-! ## Register entries -/

/-- The entries of MBX_EPOCHCMD, MBX_Mn_CFG, MBX_Mn_CTRL and MBX_Mn_DATAw in `rowsMbx`. -/
def mbxEpochcmdRow : RegRow := ⟨0x10, 0x4, 1, .cm, true, false, false, 0x0, 0x0, 0x0, 0x0, 0x1, 0x0⟩
def mbxCfgRow : RegRow := ⟨0x100, 0x10, 32, .rw, false, true, false, 0x7FF010F, 0x0, 0x0, 0x0, 0x0, 0x100⟩
def mbxCtrlRow : RegRow := ⟨0x104, 0x10, 32, .cm, false, true, false, 0x0, 0x0, 0x0, 0x0, 0xC0000000, 0x0⟩
def mbxDataRow : RegRow := ⟨0x400, 0x4, 512, .rw, false, true, false, 0xFFFFFFFF, 0x0, 0x0, 0x0, 0x0, 0x0⟩

theorem rowAt_mbxEpochcmd : rowAt A.mbxEpochcmd = some mbxEpochcmdRow := by decide

theorem rowAt_mbxCfg {n : Nat} (hn : n < 32) : rowAt (A.mbxMnCfg n) = some mbxCfgRow := by
  obtain ⟨o, ho, h100, h300, h0⟩ := mbxCfg_offset hn
  have e40 : ¬ (o - 0x40) / 4 < 9 := by omega
  have e100 : (o - 0x100) % 16 = 0 ∧ (o - 0x100) / 16 < 32 := by omega
  simp [rowAt, (mbxAddr_mbxCfg hn).block, ho, blockRows, rowsMbx, RegRow.holds, mbxCfgRow, e40, e100, h100]
  omega

theorem rowAt_mbxCtrl {n : Nat} (hn : n < 32) : rowAt (A.mbxMnCtrl n) = some mbxCtrlRow := by
  obtain ⟨o, ho, h100, h300, h4, hq⟩ := mbxCtrl_offset hn
  have e40 : ¬ (o - 0x40) / 4 < 9 := by omega
  have e100 : ¬ (o - 0x100) % 16 = 0 := by omega
  have e104 : 0x104 ≤ o ∧ (o - 0x104) % 16 = 0 ∧ (o - 0x104) / 16 < 32 := by omega
  simp [rowAt, (mbxAddr_mbxCtrl hn).block, ho, blockRows, rowsMbx, RegRow.holds, mbxCtrlRow, e40, e100, e104]
  omega

theorem rowAt_mbxData {n w : Nat} (hn : n < 32) (hw : w < 16) : rowAt (mbDataAt n w) = some mbxDataRow := by
  obtain ⟨o, ho, h400, -, -, h4, hC00⟩ := mbxData_offset hn hw
  obtain ⟨e40, e100, e104, e108, e400⟩ : ¬ (o - 0x40) / 4 < 9 ∧ ¬ (o - 0x100) / 16 < 32 ∧ ¬ (o - 0x104) / 16 < 32 ∧
      ¬ (o - 0x108) / 16 < 32 ∧ (o - 0x400) % 4 = 0 ∧ (o - 0x400) / 4 < 512 := by
    refine ⟨?_, ?_, ?_, ?_, ?_, ?_⟩ <;> omega
  simp [rowAt, (mbxAddr_mbxData hn hw).block, ho, blockRows, rowsMbx, RegRow.holds, mbxDataRow, e40, e100, e104, e108, e400, h400]
  omega

/-- A register that an access reaches is the one whose entry is at the address (R337). -/
theorem Dev.rowAt_of_target {d : Dev} {r : RegRow} (h : d.target a = .ok r) : rowAt a = some r := by
  unfold Dev.target at h
  split at h
  · cases h
  · split at h
    · cases h
    · cases hr : rowAt a with
      | none => simp [hr] at h
      | some r' =>
        simp only [hr] at h
        split at h
        · cases h
        · cases h; rfl

theorem Dev.target_mbxCfg {d : Dev} {r : RegRow} {n : Nat} (hn : n < 32) (h : d.target (A.mbxMnCfg n) = .ok r) : r = mbxCfgRow :=
  Option.some.inj ((Dev.rowAt_of_target h).symm.trans (rowAt_mbxCfg hn))

theorem Dev.target_mbxCtrl {d : Dev} {r : RegRow} {n : Nat} (hn : n < 32) (h : d.target (A.mbxMnCtrl n) = .ok r) : r = mbxCtrlRow :=
  Option.some.inj ((Dev.rowAt_of_target h).symm.trans (rowAt_mbxCtrl hn))

theorem Dev.target_mbxData {d : Dev} {r : RegRow} {n w : Nat} (hn : n < 32) (hw : w < 16) (h : d.target (mbDataAt n w) = .ok r) :
    r = mbxDataRow :=
  Option.some.inj ((Dev.rowAt_of_target h).symm.trans (rowAt_mbxData hn hw))

/-! ## Refusals of a register's own entry (R386, R390) -/

theorem Dev.ownRefuses_mbxCtrl_go (d : Dev) (old : Word) {n : Nat} (hn : n < 32) :
    d.ownRefuses (A.mbxMnCtrl n) old 0x80000000#32 = d.mbRefuses n := by
  obtain ⟨o, ho, h100, h300, h4, hq⟩ := mbxCtrl_offset hn
  have hg : fld 0x80000000#32 31 30 = 2 := by decide
  have hgo : bit 0x80000000#32 31 = true := by decide
  simp [Dev.ownRefuses, Dev.valueBad, Dev.mbxRefuses, (mbxAddr_mbxCtrl hn).block, ho, hg, hgo, h100, h300, h4, hq]

theorem Dev.ownRefuses_mbxData (d : Dev) (old v : Word) {n w : Nat} (hn : n < 32) (hw : w < 16) :
    d.ownRefuses (mbDataAt n w) old v = d.mbRefuses n := by
  obtain ⟨o, ho, h400, hq, -, -, -⟩ := mbxData_offset hn hw
  have h300 : ¬ o < 0x300 := by omega
  simp [Dev.ownRefuses, Dev.valueBad, Dev.mbxRefuses, (mbxAddr_mbxData hn hw).block, ho, h300, h400, hq]

theorem Dev.mbRefuses_full {d : Dev} {n : Nat} (h : (d.mb n).full = true) : d.mbRefuses n = some 12 := by
  simp [Dev.mbRefuses, h]

theorem Dev.mbRefuses_rxOff {d : Dev} {n : Nat} (hf : (d.mb n).full = false) (h : d.rxOff (d.mbRx n) = true) :
    d.mbRefuses n = some 13 := by
  simp [Dev.mbRefuses, hf, h]

/-- GO and REL read as 0 (R389, R395). -/
theorem Dev.mbCtrl_and_cm (d : Dev) (n : Nat) : d.mbCtrl n &&& wd mbxCtrlRow.cm = 0#32 := by
  have hlt : (d.mb n).mseq.toNat * 2 ^ 16 + 8 * (d.mb n).mixed.toNat + 4 * (d.mb n).stale.toNat + (d.mb n).full.toNat < 2 ^ 30 := by
    have := (d.mb n).mseq.isLt
    have := Bool.toNat_le (d.mb n).mixed
    have := Bool.toNat_le (d.mb n).stale
    have := Bool.toNat_le (d.mb n).full
    omega
  apply BitVec.eq_of_getLsbD_eq
  intro i hi
  have hcm : mbxCtrlRow.cm = 3 * 2 ^ 30 := rfl
  simp only [Dev.mbCtrl, wd, hcm, BitVec.getLsbD_and, BitVec.getLsbD_ofNat, Nat.testBit_mul_two_pow]
  by_cases h30 : 30 ≤ i
  · rw [Nat.testBit_lt_two_pow (Nat.lt_of_lt_of_le hlt (Nat.pow_le_pow_right (by omega) h30))]
    simp
  · simp [h30]

/-- Nothing that MBX_Mn_CTRL starts is still in progress at a later write. -/
theorem Chip.value_mbxCtrl_idle (c : Chip) (m : Nat) {n : Nat} (hn : n < 32) (w : Word) :
    c.value mbxCtrlRow m (A.mbxMnCtrl n) false &&& w &&& wd mbxCtrlRow.cm = 0#32 := by
  obtain ⟨o, ho, h100, h300, h4, hq⟩ := mbxCtrl_offset hn
  have hC : o ≠ 0x0C := by omega
  have hv : c.value mbxCtrlRow m (A.mbxMnCtrl n) false = c.dev.mbCtrl n := by
    simp [Chip.value, Chip.computed, Dev.mbxView, (mbxAddr_mbxCtrl hn).block, ho, h100, h300, h4, hq, hC]
  rw [hv, BitVec.and_assoc, BitVec.and_comm w, ← BitVec.and_assoc, Dev.mbCtrl_and_cm, BitVec.zero_and]

/-! ## Writes of mailbox registers through the fabric -/

/-- A 32-bit write of a register of the block that is there. -/
theorem Chip.write_mbx {c : Chip} {m : Nat} {r : RegRow} (ha : MbxAddr a) (ht : c.dev.target a = .ok r) (data : Nat) (errs : CwErrs) :
    c.write m a 4 data errs = c.regWrite m r a a 4 .plain data errs := by
  obtain ⟨hb, hn, h4⟩ := id ha
  have hbase : a / 0x10000 * 0x10000 + a % 0x1000 / 4 * 4 = a := by omega
  have hreg : regionOf (a % 0x10000) = .normal := by
    have : a % 0x10000 / 0x1000 = 0 := by omega
    simp [regionOf, this]
  have h2 : ¬ 0x400000 ≤ a := by omega
  have h3 : ¬ 0x150000 ≤ a := by omega
  simp only [Chip.write, h2, h3, h4, ha.not_inWindow, hreg, hbase, ht, decide_false, Bool.false_and, Bool.false_eq_true, if_false,
    ne_eq, not_true_eq_false]

/-- A plain write of 32 bits meets no check of type, width or alias but that of a read-only register (R340, R350, R351). -/
theorem typeRefuses_word {r : RegRow} (h : r.typ ≠ .ro) (lock : Bool) : typeRefuses r lock .plain 4 = none := by
  simp [typeRefuses, h]

/-- A 32-bit write that the guards, the seal and the check of its type let through: the register's own entry refuses it, or it is
accepted. -/
theorem Chip.write_mbx_own {c : Chip} {m : Nat} {r : RegRow} (ha : MbxAddr a) (hf : fixedCfg a = false) (ht : c.dev.target a = .ok r)
    (had : c.dev.admits m a r.gp = true) (hgs : (r.gs && c.dev.sealed) = false) (hro : r.typ ≠ .ro) (w : Word)
    (hcm : r.typ = .cm → c.value r m a false &&& w &&& wd r.cm = 0#32) (errs : CwErrs) :
    c.write m a 4 w.toNat errs =
      (c.dev.ownRefuses a (c.dev.stored r m a)
        (if r.typ = .cm then w else c.dev.written r m a .plain 0xFFFFFFFF w.toNat)).elim
        (.done, c.accept m r a .plain 0xFFFFFFFF w.toNat errs) fun cause => c.fail m cause a := by
  have hw : wd w.toNat = w := by simp [wd]
  have hbusy : ((c.value r m a false &&& w &&& wd r.cm) != 0#32 && r.typ == .cm) = false := by
    by_cases h : r.typ = .cm
    · simp [hcm h]
    · simp [h]
  rw [Chip.write_mbx ha ht]
  simp only [Chip.regWrite, had, hgs, ha.aligned, ha.lockAt_none, typeRefuses_word hro, hf, hbusy, hw, Nat.mul_zero, Nat.pow_zero,
    Nat.mul_one, Nat.reduceMul, Nat.reducePow, Nat.reduceSub, Nat.mod_eq_of_lt w.isLt, Bool.not_true, Bool.false_eq_true, if_false]
  cases c.dev.ownRefuses a (c.dev.stored r m a) (if r.typ = .cm then w else c.dev.written r m a .plain 0xFFFFFFFF w.toNat) <;> rfl

/-- A field that is the whole word. -/
theorem setFld_whole (w : Word) (v : Nat) : setFld w 31 0 v = wd v := by
  apply BitVec.eq_of_getLsbD_eq
  intro i hi
  rw [getLsbD_setFld _ _ _ (by omega), if_pos (by omega), wd, BitVec.getLsbD_ofNat, decide_eq_true hi, Bool.true_and, Nat.sub_zero]

theorem fld_whole (w : Word) : fld w 31 0 = w.toNat := by simp [fld, Nat.mod_eq_of_lt w.isLt]

@[simp] theorem Dev.reg_setIreg (d : Dev) (m a x : Nat) (w : Word) : (d.setIreg m a w).reg x = d.reg x := rfl

/-- A count that is the whole register (R342). -/
theorem Dev.count_whole (d : Dev) (a n : Nat) : d.count a 31 0 n = d.setReg a (wd (min (2 ^ 32 - 1) ((d.reg a).toNat + n))) := by
  have hsat (v : Nat) : satNat 32 v = min (2 ^ 32 - 1) v := Nat.min_comm _ _
  have h : 31 + 1 - 0 = 32 := rfl
  rw [Dev.count, Dev.putFld, setFld_whole, Dev.rf, fld_whole, h, hsat]

/-- What an error response leaves: the cause and the address recorded, the count one further unless it is full (R342, R355). -/
theorem Dev.errTo_eq (d : Dev) (m cause a : Nat) :
    d.errTo m cause a = (d.setIreg m A.regErrinfo (wd (cause * 2 ^ 28 + a % 2 ^ 24))).setReg A.regErrcnt
      (wd (min (2 ^ 32 - 1) ((d.reg A.regErrcnt).toNat + 1))) := by
  rw [Dev.errTo, Dev.count_whole, Dev.reg_setIreg]

theorem State.errored_eq_errTo (s : State) (m : Master) (cause a : Nat) :
    s.errored m cause (BitVec.ofNat 24 a) = s.to { s.chip.dev.errTo m.id cause a with resp := .err cause } := by
  have h := Dev.errTo_eq s.chip.dev m.id cause a
  rw [← BitVec.toNat_ofNat] at h
  rw [h, State.errored]

theorem Chip.answered_onDev (c : Chip) (r : Resp) (f : Dev → Dev) :
    Chip.answered (r, c.onDev f) = { c with dev := { f c.dev with resp := r } } := rfl

/-- An access that fails leaves the state of `errored` (R355). -/
theorem State.landed_fail (s : State) (m : Master) (cause a : Nat) :
    s.landed (Chip.answered (s.chip.fail m.id cause a)) = s.errored m cause (BitVec.ofNat 24 a) := by
  rw [Chip.fail, Chip.answered_onDev, State.landed_dev, State.errored_eq_errTo]

/-- A 32-bit write that the register's own entry refuses leaves an error response. -/
theorem State.wrote_mbx_refused {s : State} {m : Master} {r : RegRow} {cause : Nat} (ha : MbxAddr a) (hf : fixedCfg a = false)
    (hup : s.chip.dev.held = false) (hm : m.isEngine = false) (ht : s.chip.dev.target a = .ok r)
    (had : s.chip.dev.admits m.id a r.gp = true) (hgs : r.gs = false) (hro : r.typ ≠ .ro) (w : Word)
    (hcm : r.typ = .cm → s.chip.value r m.id a false &&& w &&& wd r.cm = 0#32)
    (ho : s.chip.dev.ownRefuses a (s.chip.dev.stored r m.id a)
      (if r.typ = .cm then w else s.chip.dev.written r m.id a .plain 0xFFFFFFFF w.toNat) = some cause) :
    s.wrote m a w = .next (s.errored m cause (BitVec.ofNat 24 a)) := by
  rw [State.wrote, State.access_of_up hup hm, Chip.write_mbx_own ha hf ht had (by simp [hgs]) hro w hcm, ho]
  exact congrArg _ (State.landed_fail s m cause a)

/-- A refused GO (R390). -/
theorem exec_mbxPost_refused {s : State} {m : Master} {n : Fin 32} {r : RegRow} {cause : Nat} (hup : s.chip.dev.held = false)
    (hm : m.isEngine = false) (ht : s.chip.dev.target (A.mbxMnCtrl n.val) = .ok r)
    (had : s.chip.dev.admits m.id (A.mbxMnCtrl n.val) r.gp = true) (hc : s.chip.dev.mbRefuses n.val = some cause) :
    exec (.mbxPost m n) s = .next (s.errored m cause (BitVec.ofNat 24 (A.mbxMnCtrl n.val))) := by
  obtain rfl := Dev.target_mbxCtrl n.isLt ht
  exact State.wrote_mbx_refused (mbxAddr_mbxCtrl n.isLt) (fixedCfg_mbxCtrl n.val) hup hm ht had rfl (by decide) _
    (fun _ => Chip.value_mbxCtrl_idle _ _ n.isLt _) ((Dev.ownRefuses_mbxCtrl_go _ _ n.isLt).trans hc)

/-- A refused data write (R390). -/
theorem exec_mbxDataWrite_refused {s : State} {m : Master} {n : Fin 32} {w : Fin 16} {r : RegRow} {cause : Nat}
    (hup : s.chip.dev.held = false) (hm : m.isEngine = false) (ht : s.chip.dev.target (mbDataAt n.val w.val) = .ok r)
    (had : s.chip.dev.admits m.id (mbDataAt n.val w.val) r.gp = true) (hc : s.chip.dev.mbRefuses n.val = some cause) (data : Word) :
    exec (.mbxDataWrite m n w 0 data) s = .next (s.errored m cause (BitVec.ofNat 24 (mbDataAt n.val w.val))) := by
  obtain rfl := Dev.target_mbxData n.isLt w.isLt ht
  exact State.wrote_mbx_refused (mbxAddr_mbxData n.isLt w.isLt) (fixedCfg_mbxData n.val w.val) hup hm ht had rfl (by decide) data
    (fun h => nomatch h) ((Dev.ownRefuses_mbxData _ _ _ n.isLt w.isLt).trans hc)

/-- The configurations of mailboxes 0-2 ignore a write (R387). -/
theorem Chip.write_fixedCfg {c : Chip} {m : Nat} {r : RegRow} (ha : MbxAddr a) (hf : fixedCfg a = true) (ht : c.dev.target a = .ok r)
    (had : c.dev.admits m a r.gp = true) (hgs : (r.gs && c.dev.sealed) = false) (hro : r.typ ≠ .ro) (data : Nat) (errs : CwErrs) :
    c.write m a 4 data errs = (.done, c) := by
  rw [Chip.write_mbx ha ht]
  simp [Chip.regWrite, had, hgs, ha.lockAt_none, typeRefuses_word hro, hf]

end Sys2Proof.Machine
end

section
/-! What the operations of the mailbox block do to a mailbox, and the writes that bring them about (R386-R395). -/
namespace Sys2Proof.Machine

/-! ## Reading a device after an update -/

@[simp] theorem State.to_dev (s : State) (d : Dev) : (s.to d).chip.dev = d := rfl
@[simp] theorem State.to_nvm (s : State) (d : Dev) : (s.to d).chip.nvm = s.chip.nvm := rfl

@[simp] theorem Dev.mb_resp (d : Dev) (r : Resp) (n : Nat) : ({ d with resp := r } : Dev).mb n = d.mb n := rfl
@[simp] theorem Dev.reg_resp (d : Dev) (r : Resp) (a : Nat) : ({ d with resp := r } : Dev).reg a = d.reg a := rfl
@[simp] theorem Dev.epoch_resp (d : Dev) (r : Resp) (m : Nat) : ({ d with resp := r } : Dev).epoch m = d.epoch m := rfl

@[simp] theorem Dev.mb_setReg (d : Dev) (a : Nat) (w : Word) (n : Nat) : (d.setReg a w).mb n = d.mb n := rfl
@[simp] theorem Dev.mb_raiseIf (d : Dev) (c : Bool) (a bits n : Nat) : (d.raiseIf c a bits).mb n = d.mb n := by cases c <;> rfl

@[simp] theorem Dev.epoch_setIreg (d : Dev) (m a : Nat) (w : Word) (k : Nat) : (d.setIreg m a w).epoch k = d.epoch k := rfl
@[simp] theorem Dev.epoch_setMb (d : Dev) (n : Nat) (x : Mbox) (m : Nat) : (d.setMb n x).epoch m = d.epoch m := rfl

theorem Dev.reg_raiseIf_ne (d : Dev) (c : Bool) {a x : Nat} (h : x ≠ a) (bits : Nat) : (d.raiseIf c a bits).reg x = d.reg x := by
  cases c
  · rfl
  · exact Dev.reg_raiseSq_ne d h bits

theorem Dev.mb_setMb_self (d : Dev) {n : Nat} (hn : n < 32) (x : Mbox) : (d.setMb n x).mb n = x := by simp [Dev.mb_setMb, hn]

theorem Dev.mb_setMb_ne (d : Dev) {n k : Nat} (h : k ≠ n) (x : Mbox) : (d.setMb n x).mb k = d.mb k := by
  rw [Dev.mb_setMb, if_neg fun hk => h hk.1.symm]

/-- Loading a register with what it holds. -/
theorem Dev.reg_setReg_reg (d : Dev) (a x : Nat) : (d.setReg a (d.reg a)).reg x = d.reg x := by
  by_cases h : x = a
  · subst h; exact Dev.reg_setReg_self d x _
  · exact Dev.reg_setReg_ne d h _

/-! ## GO (R389, R391) -/

theorem Dev.mb_mbGo_self (d : Dev) (m : Nat) {n : Nat} (hn : n < 32) : (d.mbGo m n).mb n =
    { d.mb n with full := true, mixed := (d.mb n).writers.any (· != m), stale := false, mseq := (d.mb n).mseq + 1 } := by
  simp only [Dev.mbGo, Dev.mb_raiseIf, Dev.mb_setReg, Dev.mb_setMb_self d hn]

theorem Dev.mb_mbGo_ne (d : Dev) (m : Nat) {n k : Nat} (h : k ≠ n) : (d.mbGo m n).mb k = d.mb k := by
  simp only [Dev.mbGo, Dev.mb_raiseIf, Dev.mb_setReg, Dev.mb_setMb_ne d h]

theorem Dev.stamp_mbGo (d : Dev) (m n : Nat) :
    (d.mbGo m n).reg (A.mbxMnStamp n) = wd (d.epoch m * 2 ^ 16 + m * 2 ^ 8 + (d.mb n).high) := by
  have h : A.mbxMnStamp n ≠ A.mbxStat := by unfold A.mbxMnStamp A.mbxStat; omega
  simp only [Dev.mbGo, Dev.reg_raiseIf_ne _ _ h, Dev.reg_setReg_self, Dev.epoch_setMb]

/-! ## A data write (R390, R391) -/

@[simp] theorem Dev.reg_mbWrote (d : Dev) (m n w a : Nat) : (d.mbWrote m n w).reg a = d.reg a := rfl

theorem Dev.mb_mbWrote_self (d : Dev) (m : Nat) {n : Nat} (hn : n < 32) (w : Nat) : (d.mbWrote m n w).mb n =
    { d.mb n with writers := if (d.mb n).writers.contains m then (d.mb n).writers else (d.mb n).writers ++ [m]
                  high := max (d.mb n).high (w + 1) } :=
  Dev.mb_setMb_self d hn _

/-- A writer is noted, once (R391). -/
theorem Dev.mem_writers_mbWrote (d : Dev) (m : Nat) {n : Nat} (hn : n < 32) (w : Nat) : m ∈ ((d.mbWrote m n w).mb n).writers := by
  rw [Dev.mb_mbWrote_self d m hn]
  by_cases h : m ∈ (d.mb n).writers <;> simp [h]

/-! ## Release (R395) -/

theorem Dev.mb_mbFree_self (d : Dev) {n : Nat} (hn : n < 32) :
    (d.mbFree n).mb n = { d.mb n with full := false, mixed := false, stale := false, writers := [], high := 0 } :=
  Dev.mb_setMb_self d hn _

theorem Dev.mb_mbFree_ne (d : Dev) {n k : Nat} (h : k ≠ n) : (d.mbFree n).mb k = d.mb k := Dev.mb_setMb_ne d h _

@[simp] theorem Dev.reg_mbFree (d : Dev) (n a : Nat) : (d.mbFree n).reg a = d.reg a := rfl

theorem Dev.mbRelease_current {d : Dev} {m n : Nat} {q : BitVec 8} (hr : d.isReceiver m n = true) (hf : (d.mb n).full = true)
    (hq : (d.mb n).mseq = q) : d.mbRelease m n q = d.mbFree n := by
  simp [Dev.mbRelease, hr, hf, hq]

theorem Dev.mbRelease_other {d : Dev} {m n : Nat} {q : BitVec 8} (hr : d.isReceiver m n = true)
    (h : (d.mb n).full = false ∨ (d.mb n).mseq ≠ q) : d.mbRelease m n q = d := by
  rcases h with h | h <;> simp [Dev.mbRelease, hr, h]

theorem Dev.mbRelease_denied {d : Dev} {m n : Nat} (hr : d.isReceiver m n = false) (q : BitVec 8) :
    d.mbRelease m n q = d.raiseSq A.mbxStat 0x4 := by
  simp [Dev.mbRelease, hr]

/-! ## What a write of each register brings with it -/

theorem Chip.effect_mbxCtrl_go (c : Chip) (m : Nat) {n : Nat} (hn : n < 32) (old : Word) (errs : CwErrs) :
    c.effect m (A.mbxMnCtrl n) old 0x80000000#32 errs = c.onDev fun d => d.mbGo m n := by
  obtain ⟨o, ho, h100, h300, h4, hq⟩ := mbxCtrl_offset hn
  have hC : o ≠ 0x10 := by omega
  have hgo : bit 0x80000000#32 31 = true := by decide
  simp [Chip.effect, Chip.mbxEffect, (mbxAddr_mbxCtrl hn).block, ho, hC, h100, h300, h4, hq, hgo]

/-- The word of a release: REL and the MSEQ read (R395). -/
theorem relWord_fields (q : BitVec 8) : bit (setFld 0x40000000#32 23 16 q.toNat) 31 = false ∧
    bit (setFld 0x40000000#32 23 16 q.toNat) 30 = true ∧ BitVec.ofNat 8 (fld (setFld 0x40000000#32 23 16 q.toNat) 23 16) = q := by
  refine ⟨?_, ?_, ?_⟩
  · rw [bit_setFld _ _ _ (by omega), if_neg (by omega)]; decide
  · rw [bit_setFld _ _ _ (by omega), if_neg (by omega)]; decide
  · rw [fld_setFld_self _ _ (by omega), Nat.mod_eq_of_lt q.isLt, BitVec.ofNat_toNat, BitVec.setWidth_eq]

theorem Chip.effect_mbxCtrl_rel (c : Chip) (m : Nat) {n : Nat} (hn : n < 32) (q : BitVec 8) (old : Word) (errs : CwErrs) :
    c.effect m (A.mbxMnCtrl n) old (setFld 0x40000000#32 23 16 q.toNat) errs = c.onDev fun d => d.mbRelease m n q := by
  obtain ⟨o, ho, h100, h300, h4, hq⟩ := mbxCtrl_offset hn
  obtain ⟨h31, h30, hmseq⟩ := relWord_fields q
  have hC : o ≠ 0x10 := by omega
  simp [Chip.effect, Chip.mbxEffect, (mbxAddr_mbxCtrl hn).block, ho, hC, h100, h300, h4, hq, h31, h30, hmseq]

theorem Chip.effect_mbxData (c : Chip) (m : Nat) {n w : Nat} (hn : n < 32) (hw : w < 16) (old v : Word) (errs : CwErrs) :
    c.effect m (mbDataAt n w) old v errs = c.onDev fun d => d.mbWrote m n w := by
  obtain ⟨o, ho, h400, hn', hw', -, -⟩ := mbxData_offset hn hw
  have hC : o ≠ 0x10 := by omega
  have h300 : ¬ o < 0x300 := by omega
  simp [Chip.effect, Chip.mbxEffect, (mbxAddr_mbxData hn hw).block, ho, hC, h300, h400, hn', hw']

/-- A configuration is only loaded. -/
theorem Chip.effect_mbxCfg (c : Chip) (m : Nat) {n : Nat} (hn : n < 32) (old v : Word) (errs : CwErrs) :
    c.effect m (A.mbxMnCfg n) old v errs = c := by
  obtain ⟨o, ho, h100, h300, h0⟩ := mbxCfg_offset hn
  have hC : o ≠ 0x10 := by omega
  have h400 : ¬ 0x400 ≤ o := by omega
  simp [Chip.effect, Chip.mbxEffect, (mbxAddr_mbxCfg hn).block, ho, hC, h0, h400]

theorem Chip.effect_mbxEpochcmd_new (c : Chip) (m : Nat) (old : Word) (errs : CwErrs) :
    c.effect m A.mbxEpochcmd old 1 errs = c.epochNew m := by
  have h : bit 1#32 0 = true := by decide
  simp [Chip.effect, Chip.mbxEffect, A.mbxEpochcmd, h]

/-! ## Accepted writes of a command register -/

/-- A load of no bit, and of every bit. -/
theorem load_no_bit (cur w : Word) : (cur &&& ~~~(wd 0)) ||| (w &&& wd 0) = cur := by
  rw [show wd 0 = 0#32 from rfl, BitVec.not_zero, BitVec.and_allOnes, BitVec.and_zero, BitVec.or_zero]

theorem load_every_bit (cur w : Word) : (cur &&& ~~~(wd 0xFFFFFFFF)) ||| (w &&& wd 0xFFFFFFFF) = w := by
  rw [show wd 0xFFFFFFFF = BitVec.allOnes 32 by decide, BitVec.not_allOnes, BitVec.and_zero, BitVec.and_allOnes, BitVec.zero_or]

/-- A load gives the bits it loads. -/
theorem load_and_mask (cur w k : Word) : ((cur &&& ~~~k) ||| (w &&& k)) &&& k = w &&& k := by
  apply BitVec.eq_of_getLsbD_eq
  intro i hi
  cases h : k[i] <;> simp [hi, h]

/-- No field of MBX_Mn_CTRL is stored: GO and REL load nothing. -/
theorem Chip.loaded_mbxCtrl (c : Chip) (m : Nat) {n : Nat} (hn : n < 32) (w : Word) :
    c.loaded m (A.mbxMnCtrl n) w = c.onDev fun d => d.setReg (A.mbxMnCtrl n) (d.reg (A.mbxMnCtrl n)) := by
  simp only [Chip.loaded, rowAt_mbxCtrl hn]
  exact congrArg (fun v => c.onDev fun d => d.setReg (A.mbxMnCtrl n) v) (load_no_bit (c.dev.reg (A.mbxMnCtrl n)) w)

theorem Chip.loaded_mbxEpochcmd (c : Chip) (m : Nat) (w : Word) :
    c.loaded m A.mbxEpochcmd w = c.onDev fun d => d.setIreg m A.mbxEpochcmd (d.ireg m A.mbxEpochcmd) := by
  simp only [Chip.loaded, rowAt_mbxEpochcmd]
  exact congrArg (fun v => c.onDev fun d => d.setIreg m A.mbxEpochcmd v) (load_no_bit (c.dev.ireg m A.mbxEpochcmd) w)

/-- A command that changes the device alone. -/
theorem State.done_onDev (s : State) (f : Dev → Dev) : s.done (s.chip.onDev f) = s.to { f s.chip.dev with resp := .done } :=
  State.landed_dev s _

/-- An accepted write of MBX_Mn_CTRL does to the device what its word says. -/
theorem State.wrote_mbxCtrl {s : State} {m : Master} {n : Nat} {w : Word} (hn : n < 32) (hl : s.chip.lets m.id (A.mbxMnCtrl n) w)
    {f : Dev → Dev} (hf : ∀ (c : Chip) (old : Word), c.effect m.id (A.mbxMnCtrl n) old w [] = c.onDev f) :
    s.wrote m (A.mbxMnCtrl n) w = .next (s.to { f (s.chip.loaded m.id (A.mbxMnCtrl n) w).dev with resp := .done }) := by
  have ha := mbxAddr_mbxCtrl hn
  obtain ⟨old, h⟩ := State.wrote_of_lets hl ha.lt ha.not_inWindow ha.normal ha.aligned ha.lockAt_none (fixedCfg_mbxCtrl n)
  rw [h, hf, Chip.loaded_mbxCtrl _ _ hn]
  exact congrArg _ (State.done_onDev s fun d => f (d.setReg (A.mbxMnCtrl n) (d.reg (A.mbxMnCtrl n))))

/-- GO is let in. -/
theorem exec_mbxPost_accepted {s : State} {m : Master} {n : Fin 32} (hl : s.chip.lets m.id (A.mbxMnCtrl n.val) 0x80000000) :
    exec (.mbxPost m n) s =
      .next (s.to { (s.chip.loaded m.id (A.mbxMnCtrl n.val) 0x80000000).dev.mbGo m.id n.val with resp := .done }) :=
  State.wrote_mbxCtrl n.isLt hl fun c old => Chip.effect_mbxCtrl_go c m.id n.isLt old []

/-- REL is let in. -/
theorem exec_mbxRelease_accepted {s : State} {m : Master} {n : Fin 32} {q : BitVec 8}
    (hl : s.chip.lets m.id (A.mbxMnCtrl n.val) (setFld 0x40000000#32 23 16 q.toNat)) :
    exec (.mbxRelease m n q) s = .next (s.to { (s.chip.loaded m.id (A.mbxMnCtrl n.val)
      (setFld 0x40000000#32 23 16 q.toNat)).dev.mbRelease m.id n.val q with resp := .done }) :=
  State.wrote_mbxCtrl n.isLt hl fun c old => Chip.effect_mbxCtrl_rel c m.id n.isLt q old []

/-! ## Accepted writes of data and configuration -/

theorem Dev.hidden_mbx (d : Dev) {a : Nat} (ha : MbxAddr a) : d.hidden a = 0 := by
  have hb := ha.block
  have h1 : a ≠ A.evtDcen := by rintro rfl; revert hb; decide
  have h2 : a ≠ A.cnvPtrlList := by rintro rfl; revert hb; decide
  have h3 : a ≠ A.pnlDialimg0 := by rintro rfl; revert hb; decide
  have h4 : a ≠ A.pnlDialimg1 := by rintro rfl; revert hb; decide
  have h5 : a ≠ A.sysIrqroute1 := by rintro rfl; revert hb; decide
  simp [Dev.hidden, h1, h2, h3, h4, h5, hb]

/-- A plain write of all four bytes (R351). -/
theorem mergeWrite_word (cur w : Word) (mask : Nat) :
    mergeWrite .plain cur mask 0xFFFFFFFF w.toNat = (cur &&& ~~~(wd mask)) ||| (w &&& wd mask) := by
  have hall : wd 0xFFFFFFFF = BitVec.allOnes 32 := by decide
  have hw : wd (w.toNat % 2 ^ 32) = w := by rw [Nat.mod_eq_of_lt w.isLt, wd, BitVec.ofNat_toNat, BitVec.setWidth_eq]
  simp only [mergeWrite, hall, hw, BitVec.not_allOnes, BitVec.and_zero, BitVec.and_allOnes, BitVec.zero_or]

/-- What a plain register of the block holds after a write of 32 bits: the word in the bits software writes. -/
theorem Dev.written_mbx (d : Dev) {r : RegRow} {a : Nat} (ha : MbxAddr a) (ht : r.typ = .rw) (hp : r.perM = false) (hb : r.bw = 0)
    (hr : r.rw < 2 ^ 32) (m : Nat) (w : Word) :
    d.written r m a .plain 0xFFFFFFFF w.toNat = (d.reg a &&& ~~~(wd r.rw)) ||| (w &&& wd r.rw) := by
  have hmask : r.rw &&& 0xFFFFFFFF = r.rw := by
    rw [show 0xFFFFFFFF = 2 ^ 32 - 1 from rfl, Nat.and_two_pow_sub_one_eq_mod, Nat.mod_eq_of_lt hr]
  simp only [Dev.written, ht, Dev.stored, hp, Dev.hidden_mbx d ha, hb, Nat.or_zero, Nat.sub_zero, hmask, mergeWrite_word,
    Bool.false_eq_true, if_false]

theorem Chip.target_of_acceptsPlain {c : Chip} {m base addr bytes data : Nat} {k : WKind} {r : RegRow}
    (h : c.acceptsPlain m base addr bytes k data r) : c.dev.target base = .ok r := by
  obtain ⟨-, -, ht, -⟩ := h
  exact ht

/-- An accepted write of a plain register of the block: the word loaded, and what it brings with it. -/
theorem State.wrote_mbx_plain {s : State} {m : Master} {r : RegRow} {a : Nat} {w : Word} (ha : MbxAddr a)
    (hl : s.chip.acceptsPlain m.id a a 4 .plain w.toNat r) (ht : r.typ = .rw) (hp : r.perM = false) (hb : r.bw = 0)
    (hr : r.rw < 2 ^ 32) (hgs : r.gs = false) {f : Dev → Dev}
    (hf : ∀ (c : Chip) (old v : Word), c.effect m.id a old v [] = c.onDev f) :
    s.wrote m a w =
      .next (s.to { f (s.chip.dev.setReg a ((s.chip.dev.reg a &&& ~~~(wd r.rw)) ||| (w &&& wd r.rw))) with resp := .done }) := by
  obtain ⟨hup, hm, htg, -, had, hseal, hfix, -, -, ho⟩ := hl
  have ho' : s.chip.dev.ownRefuses a (s.chip.dev.stored r m.id a) (s.chip.dev.written r m.id a .plain 0xFFFFFFFF w.toNat) = none := by
    simpa [ha.aligned, Nat.mod_eq_of_lt w.isLt] using ho
  have hwr := Chip.write_mbx_own ha hfix htg had hseal (by simp [ht]) w (by simp [ht]) []
  rw [if_neg (by simp [ht]), ho'] at hwr
  have hacc : s.chip.accept m.id r a .plain 0xFFFFFFFF w.toNat [] =
      s.chip.onDev fun d => f (d.setReg a ((s.chip.dev.reg a &&& ~~~(wd r.rw)) ||| (w &&& wd r.rw))) := by
    simp [Chip.accept, hf, Dev.written_mbx _ ha ht hp hb hr, Chip.sCount, hgs, ht, Dev.store, hp, Chip.onDev]
  rw [State.wrote, State.access_of_up hup (Master.isEngine_false hm), hwr]
  simp only [Option.elim_none, hacc]
  exact congrArg _ (State.landed_dev s _)

/-- A data write is let in. -/
theorem exec_mbxDataWrite_accepted {s : State} {m : Master} {n : Fin 32} {w : Fin 16} {data : Word} {r : RegRow}
    (hl : s.chip.acceptsPlain m.id (mbDataAt n.val w.val) (mbDataAt n.val w.val) 4 .plain data.toNat r) :
    exec (.mbxDataWrite m n w 0 data) s =
      .next (s.to { (s.chip.dev.setReg (mbDataAt n.val w.val) data).mbWrote m.id n.val w.val with resp := .done }) := by
  obtain rfl := Dev.target_mbxData n.isLt w.isLt (Chip.target_of_acceptsPlain hl)
  have h := State.wrote_mbx_plain (mbxAddr_mbxData n.isLt w.isLt) hl rfl rfl rfl (by decide) rfl
    fun c old v => Chip.effect_mbxData c m.id n.isLt w.isLt old v []
  rwa [show mbxDataRow.rw = 0xFFFFFFFF from rfl, load_every_bit] at h

/-- A write of a configuration is let in. -/
theorem exec_mbxCfgWrite_accepted {s : State} {m : Master} {n : Fin 32} {data : Word} {r : RegRow}
    (hl : s.chip.acceptsPlain m.id (A.mbxMnCfg n.val) (A.mbxMnCfg n.val) 4 .plain data.toNat r) :
    exec (.mbxCfgWrite m n data) s = .next (s.to { s.chip.dev.setReg (A.mbxMnCfg n.val)
      ((s.chip.dev.reg (A.mbxMnCfg n.val) &&& ~~~(wd r.rw)) ||| (data &&& wd r.rw)) with resp := .done }) := by
  obtain rfl := Dev.target_mbxCfg n.isLt (Chip.target_of_acceptsPlain hl)
  exact State.wrote_mbx_plain (f := id) (mbxAddr_mbxCfg n.isLt) hl rfl rfl rfl (by decide) rfl
    fun c old v => Chip.effect_mbxCfg c m.id n.isLt old v []

/-! ## A new epoch of a host master (R392; that it frees locks and shadows is log entry 35) -/

/-- An entry that is read is listed. -/
theorem SMap.mem_of_find {α : Type} {m : SMap α} {k : Nat} {v : α} (h : SMap.find m k = some v) : (k, v) ∈ m := by
  induction m with
  | nil => cases h
  | cons e r ih =>
    obtain ⟨k', v'⟩ := e
    simp only [SMap.find] at h
    split at h
    · next hk => subst hk; cases h; exact List.mem_cons_self ..
    · exact List.mem_cons_of_mem _ (ih h)

theorem Dev.locks_epochUp_masterReset (d : Dev) (m n : Nat) : SMap.find ((d.masterReset m).epochUp m).locks n ≠ some m := by
  intro h
  simpa using (List.mem_filter.1 (SMap.mem_of_find h)).2

theorem Dev.shadow_epochUp_masterReset (d : Dev) (m : Nat) : SMap.find ((d.masterReset m).epochUp m).shadow m = none :=
  SMap.find_erase_self m d.shadow

@[simp] theorem Dev.epoch_masterReset (d : Dev) (m k : Nat) : (d.masterReset m).epoch k = d.epoch k := rfl

theorem Dev.epoch_epochUp (d : Dev) (m : Nat) : (d.epochUp m).epoch m = (d.epoch m + 1) % 2 ^ 16 :=
  Dev.rf_putFld_self d _ _ (by omega)

/-- Without an open session a new epoch writes nothing to the store (R577). -/
theorem Chip.epochNew_no_session {c : Chip} {m : Nat} (h : c.dev.sessState m = 0) :
    c.epochNew m = c.onDev fun d => (d.masterReset m).epochUp m := by
  simp [Chip.epochNew, Chip.endIfOpen, h]

theorem Dev.sessState_setIreg_epochcmd (d : Dev) (m : Nat) (w : Word) :
    (d.setIreg m A.mbxEpochcmd w).sessState m = d.sessState m := by
  have h : instKey m A.secSesstat ≠ instKey m A.mbxEpochcmd := fun h => absurd (instKey_inj (by decide) (by decide) h).2 (by decide)
  rw [Dev.sessState, Dev.ireg_setIreg_ne d h, Dev.sessState]

/-- NEW of a master without an open session. -/
theorem exec_epochNew_accepted {s : State} {m : Master} (hl : s.chip.lets m.id A.mbxEpochcmd 1) (hs : s.chip.dev.sessState m.id = 0) :
    exec (.epochNew m) s = .next (s.to { ((s.chip.dev.setIreg m.id A.mbxEpochcmd
      (s.chip.dev.ireg m.id A.mbxEpochcmd)).masterReset m.id).epochUp m.id with resp := .done }) := by
  have ha := mbxAddr_mbxEpochcmd
  obtain ⟨old, h⟩ := State.wrote_of_lets hl ha.lt ha.not_inWindow ha.normal ha.aligned ha.lockAt_none (by decide)
  have he : (s.chip.loaded m.id A.mbxEpochcmd 1).dev.sessState m.id = 0 := by
    rw [Chip.loaded_mbxEpochcmd, Chip.onDev_dev, Dev.sessState_setIreg_epochcmd, hs]
  refine h.trans ?_
  rw [Chip.effect_mbxEpochcmd_new, Chip.epochNew_no_session he, Chip.loaded_mbxEpochcmd]
  exact congrArg _ (State.done_onDev s fun d => ((d.setIreg m.id A.mbxEpochcmd (d.ireg m.id A.mbxEpochcmd)).masterReset m.id).epochUp m.id)

/-! ## The statement, clause by clause -/

theorem Chip.mb_loaded_mbxCtrl (c : Chip) (m : Nat) {n : Nat} (hn : n < 32) (w : Word) (k : Nat) :
    (c.loaded m (A.mbxMnCtrl n) w).dev.mb k = c.dev.mb k := by
  rw [Chip.loaded_mbxCtrl _ _ hn, Chip.onDev_dev, Dev.mb_setReg]

theorem Chip.epoch_loaded_mbxCtrl (c : Chip) (m : Nat) {n : Nat} (hn : n < 32) (w : Word) (k : Nat) :
    (c.loaded m (A.mbxMnCtrl n) w).dev.epoch k = c.dev.epoch k := by
  rw [Chip.loaded_mbxCtrl _ _ hn, Chip.onDev_dev, Dev.epoch, Dev.rf, Dev.reg_setReg_reg, Dev.epoch, Dev.rf]

/-- GO fills an empty mailbox and stamps its sender (R389, R391, R392). -/
theorem mbxPost_fills {s : State} {m : Master} {n : Fin 32} (hl : s.chip.lets m.id (A.mbxMnCtrl n.val) 0x80000000) :
    let x := s.chip.dev.mb n.val
    ∃ t, exec (.mbxPost m n) s = .next t ∧ t.chip.dev.resp = .done ∧
      (t.chip.dev.mb n.val).full = true ∧ (t.chip.dev.mb n.val).mseq = x.mseq + 1 ∧ (t.chip.dev.mb n.val).stale = false ∧
      ((t.chip.dev.mb n.val).mixed = true ↔ ∃ k ∈ x.writers, k ≠ m.id) ∧
      t.chip.dev.reg (A.mbxMnStamp n.val) = wd (s.chip.dev.epoch m.id * 2 ^ 16 + m.id * 2 ^ 8 + x.high) ∧
      (∀ k, k ≠ n.val → t.chip.dev.mb k = s.chip.dev.mb k) ∧ t.chip.nvm = s.chip.nvm := by
  have hmb := Chip.mb_loaded_mbxCtrl s.chip m.id n.isLt 0x80000000
  have hx := Dev.mb_mbGo_self (s.chip.loaded m.id (A.mbxMnCtrl n.val) 0x80000000).dev m.id n.isLt
  rw [hmb] at hx
  refine ⟨_, exec_mbxPost_accepted hl, rfl, ?_⟩
  simp only [State.to_dev, State.to_nvm, Dev.mb_resp, Dev.reg_resp, hx, Dev.stamp_mbGo, hmb, Chip.epoch_loaded_mbxCtrl _ _ n.isLt,
    true_and, and_true]
  exact ⟨by simp, fun k hk => (Dev.mb_mbGo_ne _ _ hk).trans (hmb k)⟩

/-- A data write loads its register and notes the writer (R390, R391). -/
theorem mbxDataWrite_loads {s : State} {m : Master} {n : Fin 32} {w : Fin 16} {data : Word} {r : RegRow}
    (hl : s.chip.acceptsPlain m.id (mbDataAt n.val w.val) (mbDataAt n.val w.val) 4 .plain data.toNat r) :
    let x := s.chip.dev.mb n.val
    ∃ t, exec (.mbxDataWrite m n w 0 data) s = .next t ∧ t.chip.dev.reg (mbDataAt n.val w.val) = data ∧
      m.id ∈ (t.chip.dev.mb n.val).writers ∧ (t.chip.dev.mb n.val).high = max x.high (w.val + 1) ∧
      (t.chip.dev.mb n.val).full = x.full ∧ t.chip.nvm = s.chip.nvm := by
  have hmem := Dev.mem_writers_mbWrote (s.chip.dev.setReg (mbDataAt n.val w.val) data) m.id n.isLt w.val
  have hx := Dev.mb_mbWrote_self (s.chip.dev.setReg (mbDataAt n.val w.val) data) m.id n.isLt w.val
  rw [Dev.mb_setReg] at hx
  refine ⟨_, exec_mbxDataWrite_accepted hl, ?_⟩
  simp only [State.to_dev, State.to_nvm, Dev.mb_resp, Dev.reg_resp, Dev.reg_mbWrote, Dev.reg_setReg_self]
  exact ⟨trivial, hmem, by rw [hx], by rw [hx], trivial⟩

/-- REL by the receiver with the MSEQ of the message (R395). -/
theorem mbxRelease_frees {s : State} {m : Master} {n : Fin 32} {q : BitVec 8}
    (hl : s.chip.lets m.id (A.mbxMnCtrl n.val) (setFld 0x40000000#32 23 16 q.toNat)) :
    let d := (s.chip.loaded m.id (A.mbxMnCtrl n.val) (setFld 0x40000000#32 23 16 q.toNat)).dev
    let x := d.mb n.val
    d.isReceiver m.id n.val = true → x.full = true → x.mseq = q → ∃ t, exec (.mbxRelease m n q) s = .next t ∧
      t.chip.dev.mb n.val = { x with full := false, mixed := false, stale := false, writers := [], high := 0 } ∧
      (∀ b, t.chip.dev.reg b = d.reg b) ∧ (∀ k, k ≠ n.val → t.chip.dev.mb k = d.mb k) ∧ t.chip.nvm = s.chip.nvm := by
  intro d x hr hf hq
  refine ⟨_, exec_mbxRelease_accepted hl, ?_⟩
  rw [Dev.mbRelease_current hr hf hq]
  exact ⟨Dev.mb_mbFree_self d n.isLt, fun b => Dev.reg_mbFree d n.val b, fun k hk => Dev.mb_mbFree_ne d hk, rfl⟩

/-- REL by the receiver of an empty mailbox or with another MSEQ (R395). -/
theorem mbxRelease_keeps {s : State} {m : Master} {n : Fin 32} {q : BitVec 8}
    (hl : s.chip.lets m.id (A.mbxMnCtrl n.val) (setFld 0x40000000#32 23 16 q.toNat)) :
    let d := (s.chip.loaded m.id (A.mbxMnCtrl n.val) (setFld 0x40000000#32 23 16 q.toNat)).dev
    let x := d.mb n.val
    d.isReceiver m.id n.val = true → (x.full = false ∨ x.mseq ≠ q) → ∃ t, exec (.mbxRelease m n q) s = .next t ∧
      t.chip.dev.mbox = d.mbox ∧ t.chip.dev.resp = .done := by
  intro d x hr h
  refine ⟨_, exec_mbxRelease_accepted hl, ?_⟩
  rw [Dev.mbRelease_other hr h]
  exact ⟨rfl, rfl⟩

/-- REL by a master that is not the receiver (R395). -/
theorem mbxRelease_badrel {s : State} {m : Master} {n : Fin 32} {q : BitVec 8}
    (hl : s.chip.lets m.id (A.mbxMnCtrl n.val) (setFld 0x40000000#32 23 16 q.toNat)) :
    let d := (s.chip.loaded m.id (A.mbxMnCtrl n.val) (setFld 0x40000000#32 23 16 q.toNat)).dev
    d.isReceiver m.id n.val = false → ∃ t, exec (.mbxRelease m n q) s = .next t ∧ t.chip.dev.mbox = d.mbox ∧
      t.chip.dev.rb A.mbxStat 2 = true := by
  intro d hr
  have hbit : (d.raiseSq A.mbxStat 0x4).rb A.mbxStat 2 = true := by
    rw [Dev.rb_raiseSq _ _ _ _ (by omega), show Nat.testBit 0x4 2 = true by decide, Bool.or_true]
  refine ⟨_, exec_mbxRelease_accepted hl, ?_⟩
  rw [Dev.mbRelease_denied hr]
  exact ⟨rfl, hbit⟩

/-- A write of the configuration of a mailbox from 3 on (R386). -/
theorem mbxCfgWrite_loads {s : State} {m : Master} {n : Fin 32} {data : Word} {r : RegRow}
    (hl : s.chip.acceptsPlain m.id (A.mbxMnCfg n.val) (A.mbxMnCfg n.val) 4 .plain data.toNat r) :
    ∃ t, exec (.mbxCfgWrite m n data) s = .next t ∧ t.chip.dev.reg (A.mbxMnCfg n.val) &&& wd r.rw = data &&& wd r.rw ∧
      t.chip.dev.mbox = s.chip.dev.mbox ∧ t.chip.nvm = s.chip.nvm := by
  refine ⟨_, exec_mbxCfgWrite_accepted hl, ?_, rfl, rfl⟩
  rw [State.to_dev, Dev.reg_resp, Dev.reg_setReg_self, load_and_mask]

/-- A write of the configuration of mailboxes 0-2 (R387). -/
theorem exec_mbxCfgWrite_fixed {s : State} {m : Master} {n : Fin 32} {r : RegRow} (h3 : n.val < 3) (hup : s.chip.dev.held = false)
    (hm : m.isEngine = false) (ht : s.chip.dev.target (A.mbxMnCfg n.val) = .ok r)
    (hgs : (r.gs && s.chip.dev.sealed) = false) (had : s.chip.dev.admits m.id (A.mbxMnCfg n.val) r.gp = true) (data : Word) :
    exec (.mbxCfgWrite m n data) s = .next (s.to { s.chip.dev with resp := .done }) := by
  obtain rfl := Dev.target_mbxCfg n.isLt ht
  have hf : fixedCfg (A.mbxMnCfg n.val) = true := by rw [fixedCfg_mbxCfg, decide_eq_true h3]
  change s.wrote m (A.mbxMnCfg n.val) data = _
  rw [State.wrote, State.access_of_up hup hm, Chip.write_fixedCfg (mbxAddr_mbxCfg n.isLt) hf ht had hgs (by decide)]
  exact congrArg _ (State.landed_dev s _)

/-- NEW of a host master without an open session (R392, R379). -/
theorem epochNew_advances {s : State} {m : Master} (hl : s.chip.lets m.id A.mbxEpochcmd 1) (hs : s.chip.dev.sessState m.id = 0) :
    ∃ t, exec (.epochNew m) s = .next t ∧ t.chip.dev.epoch m.id = (s.chip.dev.epoch m.id + 1) % 2 ^ 16 ∧
      (∀ n, SMap.find t.chip.dev.locks n ≠ some m.id) ∧ SMap.find t.chip.dev.shadow m.id = none ∧ t.chip.nvm = s.chip.nvm := by
  refine ⟨_, exec_epochNew_accepted hl hs, ?_⟩
  simp only [State.to_dev, State.to_nvm, Dev.epoch_resp, Dev.epoch_epochUp, Dev.epoch_masterReset, Dev.epoch_setIreg, true_and, and_true]
  exact ⟨Dev.locks_epochUp_masterReset _ _, Dev.shadow_epochUp_masterReset _ _⟩

/-- Settles O38: each clause is the write of its register as the fabric lets it in or refuses it, and what the write then does to the
mailbox; `mbRefuses` gives FULL before RXOFF. -/
theorem mailboxes : Obligations.Mailboxes := by
  unfold Obligations.Mailboxes
  refine ⟨fun s m n => ⟨fun hl _ => mbxPost_fills hl, fun w data r hl => mbxDataWrite_loads hl, ?refusedGo, ?refusedData⟩,
    fun s m n q => fun hl => ⟨mbxRelease_frees hl, mbxRelease_keeps hl, mbxRelease_badrel hl⟩,
    fun s m => ⟨fun n data r _ hl _ => mbxCfgWrite_loads hl, ?fixed, fun _ hl hs => epochNew_advances hl hs⟩⟩
  case refusedGo =>
    intro r hup hm ht had
    exact ⟨fun hf => exec_mbxPost_refused hup hm ht had (Dev.mbRefuses_full hf),
      fun hf hoff => exec_mbxPost_refused hup hm ht had (Dev.mbRefuses_rxOff hf hoff)⟩
  case refusedData =>
    intro w data r b hup hm ht had
    exact ⟨fun hf => exec_mbxDataWrite_refused hup hm ht had (Dev.mbRefuses_full hf) data,
      fun hf hoff => exec_mbxDataWrite_refused hup hm ht had (Dev.mbRefuses_rxOff hf hoff) data⟩
  case fixed =>
    intro n data r a hup hm ht _ hgs had
    have hn : (Fin.ofNat 32 n.val).val = n.val := Nat.mod_eq_of_lt (by omega)
    exact exec_mbxCfgWrite_fixed (by rw [hn]; exact n.isLt) hup hm (by rw [hn]; exact ht) hgs (by rw [hn]; exact had) data

end Sys2Proof.Machine
end

section
/-! What each operation on a power domain leaves as it is, and what a domain holds after a reset (R481). -/
namespace Sys2Proof.Machine

/-! ## The range of addresses an operation acts in -/

/-- Whether an address lies outside a range. -/
def Outside (lo hi a : Nat) : Prop := a < lo ∨ hi ≤ a

/-- `e` is `d` but for what stands in a range of addresses: registers and, by the address of their block, the engines, the mailboxes
and the power-line MAC. Fuses, power command and supervisor stand in no range. -/
structure Dev.SameOutside (lo hi : Nat) (d e : Dev) : Prop where
  fuses : e.fuses = d.fuses
  pwr : e.pwr = d.pwr
  sup : e.sup = d.sup
  reg : ∀ a, Outside lo hi a → e.reg a = d.reg a
  engines : Outside lo hi 0x070000 → e.engines = d.engines
  mbox : Outside lo hi 0x0F0000 → e.mbox = d.mbox
  plc : Outside lo hi 0x120000 → e.plc = d.plc

namespace Dev.SameOutside
variable {lo hi : Nat} {d e f : Dev}

theorem refl : SameOutside lo hi d d := ⟨rfl, rfl, rfl, fun _ _ => rfl, fun _ => rfl, fun _ => rfl, fun _ => rfl⟩

theorem trans (h : SameOutside lo hi d e) (h' : SameOutside lo hi e f) : SameOutside lo hi d f where
  fuses := h'.fuses.trans h.fuses
  pwr := h'.pwr.trans h.pwr
  sup := h'.sup.trans h.sup
  reg a ha := (h'.reg a ha).trans (h.reg a ha)
  engines ha := (h'.engines ha).trans (h.engines ha)
  mbox ha := (h'.mbox ha).trans (h.mbox ha)
  plc ha := (h'.plc ha).trans (h.plc ha)

theorem widen {lo' hi' : Nat} (h : SameOutside lo' hi' d e) (hlo : lo ≤ lo') (hhi : hi' ≤ hi) : SameOutside lo hi d e := by
  have hout : ∀ a, Outside lo hi a → Outside lo' hi' a := fun a ha => ha.imp (Nat.lt_of_lt_of_le · hlo) (Nat.le_trans hhi)
  exact { h with
    reg := fun a ha => h.reg a (hout a ha), engines := fun ha => h.engines (hout _ ha)
    mbox := fun ha => h.mbox (hout _ ha), plc := fun ha => h.plc (hout _ ha) }

theorem setReg {a : Nat} (h : lo ≤ a ∧ a < hi) (w : Word) : SameOutside lo hi d (d.setReg a w) where
  fuses := rfl
  pwr := rfl
  sup := rfl
  reg x hx := Dev.reg_setReg_ne d (by unfold Outside at hx; omega) w
  engines _ := rfl
  mbox _ := rfl
  plc _ := rfl

theorem putBit {a : Nat} (h : lo ≤ a ∧ a < hi) (i : Nat) (b : Bool) : SameOutside lo hi d (d.putBit a i b) := setReg h _

theorem raiseSq {a : Nat} (h : lo ≤ a ∧ a < hi) (bits : Nat) : SameOutside lo hi d (d.raiseSq a bits) := setReg h _

theorem raiseIf {a : Nat} (h : lo ≤ a ∧ a < hi) (c : Bool) (bits : Nat) : SameOutside lo hi d (d.raiseIf c a bits) := by
  cases c
  · exact refl
  · exact raiseSq h bits

theorem setActive (a : Nat) (w : Word) : SameOutside lo hi d (d.setActive a w) :=
  ⟨rfl, rfl, rfl, fun _ _ => rfl, fun _ => rfl, fun _ => rfl, fun _ => rfl⟩

theorem setChan (k : Nat) (x : Chan) : SameOutside lo hi d (d.setChan k x) :=
  ⟨rfl, rfl, rfl, fun _ _ => rfl, fun _ => rfl, fun _ => rfl, fun _ => rfl⟩

theorem foldl {α : Type} {g : Dev → α → Dev} {l : List α} (h : ∀ a ∈ l, ∀ d, SameOutside lo hi d (g d a)) :
    ∀ d, SameOutside lo hi d (l.foldl g d) := by
  induction l with
  | nil => exact fun _ => refl
  | cons a l ih =>
    exact fun d => (h a (List.mem_cons_self ..) d).trans (ih (fun b hb => h b (List.mem_cons_of_mem a hb)) _)

end Dev.SameOutside

theorem SMap.get_dropRange {α : Type} (x : α) (m : SMap α) {lo hi a : Nat} (h : Outside lo hi a) :
    SMap.get x (SMap.dropRange lo hi m) a = SMap.get x m a := by
  rw [SMap.get_eq_find, SMap.get_eq_find]
  refine congrArg (Option.getD · x) ?_
  induction m with
  | nil => rfl
  | cons e m ih =>
    obtain ⟨k, v⟩ := e
    unfold Outside at h
    by_cases ha : a = k
    · subst ha; simp [SMap.dropRange, SMap.find, h]
    · by_cases hk : k < lo ∨ hi ≤ k <;> simpa [SMap.dropRange, SMap.find, hk, ha] using ih

/-! ## Each domain stays within its blocks (R33, R34) -/

namespace Dev
variable {lo hi : Nat} (d : Dev)

theorem resetRange_within {a b : Nat} (h : lo ≤ a ∧ b ≤ hi) : SameOutside lo hi d (d.resetRange a b) where
  fuses := rfl
  pwr := rfl
  sup := rfl
  reg x hx := SMap.get_dropRange _ _ (by unfold Outside at *; omega)
  engines _ := rfl
  mbox _ := rfl
  plc _ := rfl

theorem clearBlocks_within {a b : Nat} (h : lo ≤ a ∧ b ≤ hi) : SameOutside lo hi d (d.clearBlocks a b) :=
  { resetRange_within d h with }

theorem mem_bankChans {n k : Nat} (h : k ∈ d.bankChans n) : k < 18 := List.mem_range.1 (List.mem_filter.1 h).1

theorem bankDown_within (n : Nat) : SameOutside 0x40000 0x60000 d (d.bankDown n) := by
  refine SameOutside.foldl (fun k hk e => ?_) d
  have hk := d.mem_bankChans hk
  have hc : 0x40000 ≤ A.cnvCHkCfg k ∧ A.cnvCHkCfg k + 0x80 ≤ 0x60000 := by unfold A.cnvCHkCfg; omega
  have hf : 0x40000 ≤ A.fltCHkCfg k ∧ A.fltCHkCfg k + 0x80 ≤ 0x60000 := by unfold A.fltCHkCfg; omega
  exact ((((SameOutside.setChan k offChan).trans (resetRange_within _ hc)).trans (resetRange_within _ hf)).trans
    (clearBlocks_within _ hc)).trans (clearBlocks_within _ hf)

theorem powerChan_within {k : Nat} (hk : k < 18) : SameOutside 0x40000 0x60000 d (d.powerChan k) := by
  have hc : 0x40000 ≤ A.cnvCHkCfg k ∧ A.cnvCHkCfg k + 0x80 ≤ 0x60000 := by unfold A.cnvCHkCfg; omega
  have hf : 0x40000 ≤ A.fltCHkCfg k ∧ A.fltCHkCfg k + 0x80 ≤ 0x60000 := by unfold A.fltCHkCfg; omega
  have both (e : Dev) {a : Nat} (h : 0x40000 ≤ a ∧ a < 0x60000) (w : Word) :
      SameOutside 0x40000 0x60000 e ((e.setReg a w).setActive a w) := (SameOutside.setReg h w).trans (.setActive a w)
  refine ((resetRange_within d hc).trans (resetRange_within _ hf)).trans ?_
  refine SameOutside.trans ?_ ((SameOutside.setChan k _).trans (SameOutside.setChan k _))
  split
  · exact both _ (by omega) _
  · exact (both _ (by omega) _).trans (both _ (by omega) _)

theorem linkOff_within : SameOutside 0x40000 0x60000 d d.linkOff := by
  unfold Dev.linkOff
  split
  · exact .refl
  · refine SameOutside.foldl (fun k hk e => ?_) d
    have hk := List.mem_range.1 hk
    split
    · exact (SameOutside.setChan k _).trans (.setReg (by unfold A.fltCHkSample; omega) _)
    · exact .refl

theorem bankUp_within (n : Nat) : SameOutside 0x40000 0x60000 d (d.bankUp n) :=
  (SameOutside.foldl (fun _ hk e => powerChan_within e (d.mem_bankChans hk)) d).trans (linkOff_within _)

theorem escDown_within : SameOutside 0x70000 0xF0000 d d.escDown := by
  have h := (clearBlocks_within (lo := 0x70000) (hi := 0xF0000) (a := 0x70000) (b := 0x80000) d (by omega)).trans
    (clearBlocks_within (a := 0xC0000) (b := 0xF0000) _ (by omega))
  exact { h with engines := fun h => absurd h (by unfold Outside; omega) }

theorem setSt_within {k : Nat} (hk : k < 5) (s : EState) : SameOutside 0x70000 0x80000 d (d.setSt k s) where
  fuses := rfl
  pwr := rfl
  sup := rfl
  reg x hx := Dev.reg_putFld_ne _ (by unfold A.escEkStat; unfold Outside at hx; omega) _ _ _
  engines h := absurd h (by unfold Outside; omega)
  mbox _ := rfl
  plc _ := rfl

theorem plcDown_within : SameOutside 0x120000 0x130000 d d.plcDown :=
  { clearBlocks_within (lo := 0x120000) (hi := 0x130000) (a := 0x120000) (b := 0x130000) d (by omega) with
    plc := fun h => absurd h (by unfold Outside; omega) }

theorem pnlDown_within : SameOutside 0x130000 0x140000 d d.pnlDown :=
  { clearBlocks_within (lo := 0x130000) (hi := 0x140000) (a := 0x130000) (b := 0x140000) d (by omega) with }

/-! ## PD5 ESC as it starts (R209, R392) -/

/-- An engine present starts: IDLE, its epoch advanced. -/
def engStart (d : Dev) (k : Nat) : Dev := (d.setSt k .idle).epochUp (3 + k)

theorem engStart_within {k : Nat} (hk : k < 5) : SameOutside 0x70000 0x100000 d (d.engStart k) :=
  ((setSt_within d hk _).widen (by omega) (by omega)).trans (SameOutside.setReg (by unfold A.mbxEPOCHi; omega) _)

/-- The harmonic configurations of build S, which PD5 ESC takes up with the group's channels (R299). -/
def hrmStart (d : Dev) : Dev :=
  if d.fuses.build == .s then
    (List.range d.fuses.groups).foldl (fun (d : Dev) (g : Nat) =>
      let w := setFld (d.reg (A.hrmGgCfg g)) 1 0 3
      (d.setReg (A.hrmGgCfg g) w).setActive (A.hrmGgCfg g) w) d
  else d

theorem escUp_eq : d.escUp = (((List.range 5).filter d.fuses.engine).foldl engStart d).hrmStart := rfl

theorem hrmStart_within : SameOutside 0xD0000 0xE0000 d d.hrmStart := by
  unfold Dev.hrmStart
  split
  · refine SameOutside.foldl (fun g hg e => (SameOutside.setReg ?_ _).trans (.setActive _ _)) d
    have hg := List.mem_range.1 hg
    have : d.fuses.groups ≤ 4 := by unfold Fuses.groups; split <;> omega
    unfold A.hrmGgCfg
    omega
  · exact .refl

theorem escUp_within : SameOutside 0x70000 0x100000 d d.escUp :=
  (SameOutside.foldl (fun _ hk e => engStart_within e (List.mem_range.1 (List.mem_filter.1 hk).1)) d).trans
    ((hrmStart_within _).widen (by omega) (by omega))

theorem epoch_of_within {d e : Dev} (h : SameOutside lo hi d e) (m : Nat) (hm : Outside lo hi (A.mbxEPOCHi m)) : e.epoch m = d.epoch m :=
  congrArg (fld · 15 0) (h.reg _ hm)

theorem epoch_setSt (k : Nat) (s : EState) (hk : k < 5) (m : Nat) : (d.setSt k s).epoch m = d.epoch m :=
  epoch_of_within (setSt_within d hk s) m (by unfold Outside A.mbxEPOCHi; omega)

theorem epoch_engStart {k : Nat} (hk : k < 5) (m : Nat) :
    (d.engStart k).epoch m = if m = 3 + k then (d.epoch m + 1) % 2 ^ 16 else d.epoch m := by
  split
  · next h => rw [h, engStart, Dev.epoch_epochUp, epoch_setSt d k _ hk]
  · next h =>
    have hne : A.mbxEPOCHi m ≠ A.mbxEPOCHi (3 + k) := by unfold A.mbxEPOCHi; omega
    exact (congrArg (fld · 15 0) (Dev.reg_countMod_ne _ hne _ _ _)).trans (epoch_setSt d k _ hk m)

/-- The epochs of the engines that start, and of no other master, advance (R392). -/
theorem epoch_foldl_engStart (l : List Nat) (hl : ∀ k ∈ l, k < 5) (hn : l.Nodup) (j : Nat) :
    ∀ d : Dev, (l.foldl engStart d).epoch (3 + j) = if j ∈ l then (d.epoch (3 + j) + 1) % 2 ^ 16 else d.epoch (3 + j) := by
  induction l with
  | nil => exact fun _ => rfl
  | cons k l ih =>
    intro d
    obtain ⟨hk, hn⟩ := List.nodup_cons.1 hn
    rw [List.foldl_cons, ih (fun i hi => hl i (List.mem_cons_of_mem k hi)) hn, epoch_engStart d (hl k (List.mem_cons_self ..))]
    by_cases h : j = k
    · subst h; simp [hk]
    · simp [h]

theorem epoch_escUp {k : Nat} (hk : k < 5) (hp : d.fuses.engine k = true) :
    d.escUp.epoch (3 + k) = (d.epoch (3 + k) + 1) % 2 ^ 16 := by
  rw [escUp_eq, epoch_of_within (hrmStart_within _) _ (by unfold Outside A.mbxEPOCHi; omega), epoch_foldl_engStart _
    (fun i hi => List.mem_range.1 (List.mem_filter.1 hi).1) (List.nodup_range.filter _), if_pos (List.mem_filter.2 ⟨List.mem_range.2 hk, hp⟩)]

theorem eng_escDown (k : Nat) : d.escDown.eng k = Engine.zero := by
  by_cases h : k < 5 <;> simp [Dev.eng, Dev.escDown, Vector.getD, h]

/-- An engine at its power-up values starts with them. -/
theorem eng_engStart (h : ∀ j, d.eng j = Engine.zero) (k j : Nat) : (d.engStart k).eng j = Engine.zero := by
  change (d.modEng k fun e => { e with st := .idle }).eng j = _
  rw [Dev.modEng, Dev.eng_setEng, h k, h j]
  exact ite_self _

theorem eng_escUp (h : ∀ j, d.eng j = Engine.zero) (k : Nat) : d.escUp.eng k = Engine.zero := by
  have hfold : ∀ (l : List Nat) (d : Dev), (∀ j, d.eng j = Engine.zero) → ∀ j, (l.foldl engStart d).eng j = Engine.zero := by
    intro l
    induction l with
    | nil => exact fun _ h => h
    | cons i l ih => exact fun d h => ih _ (eng_engStart d h i)
  have he := (hrmStart_within (((List.range 5).filter d.fuses.engine).foldl engStart d)).engines (by unfold Outside; omega)
  rw [escUp_eq, Dev.eng, he]
  exact hfold _ d h k

/-! ## Domains by number -/

theorem domDown_within (n : Nat) : SameOutside 0x40000 0x140000 d (d.domDown n) := by
  unfold Dev.domDown
  split
  iterate 3 exact (bankDown_within d _).widen (by omega) (by omega)
  · exact d.escDown_within.widen (by omega) (by omega)
  · exact d.plcDown_within.widen (by omega) (by omega)
  · exact d.pnlDown_within.widen (by omega) (by omega)
  · exact .refl

theorem domUp_within (n : Nat) : SameOutside 0x40000 0x140000 d (d.domUp n) := by
  unfold Dev.domUp
  split
  iterate 3 exact (bankUp_within d _).widen (by omega) (by omega)
  · exact d.escUp_within.widen (by omega) (by omega)
  · exact .refl

/-- A domain loses its state and starts again (R481). -/
def domRestart (d : Dev) (n : Nat) : Dev := (d.domDown n).domUp n

theorem domRestart_banks {n : Nat} (hn : n < 5) : SameOutside 0x40000 0x60000 d (d.domRestart n) := by
  have bank (m : Nat) : SameOutside 0x40000 0x60000 d ((d.bankDown m).bankUp m) := (bankDown_within d m).trans (bankUp_within _ m)
  match n with
  | 0 | 1 => exact .refl
  | 2 => exact bank 2
  | 3 => exact bank 3
  | 4 => exact bank 4
  | _ + 5 => omega

theorem domRestart_esc : SameOutside 0x70000 0x100000 d (d.domRestart 5) :=
  (d.escDown_within.widen (by omega) (by omega)).trans (escUp_within _)

theorem eng_domRestart (k : Nat) : (d.domRestart 5).eng k = Engine.zero := eng_escUp _ (eng_escDown d) k

theorem epoch_domRestart {k : Nat} (hk : k < 5) (hp : d.fuses.engine k = true) :
    (d.domRestart 5).epoch (3 + k) = (d.epoch (3 + k) + 1) % 2 ^ 16 := by
  have h := d.escDown_within
  exact (epoch_escUp d.escDown hk ((congrArg (Fuses.engine · k) h.fuses).trans hp)).trans
    (by rw [epoch_of_within h _ (by unfold Outside A.mbxEPOCHi; omega)])

theorem domRestart_plc : SameOutside 0x120000 0x130000 d (d.domRestart 6) := d.plcDown_within

theorem domRestart_pnl : SameOutside 0x130000 0x140000 d (d.domRestart 7) := d.pnlDown_within

theorem plc_domRestart : (d.domRestart 6).plc = Plc.zero := rfl

/-! ## A reset of several domains (R481) -/

/-- What a reset does to domain n: it starts again where it is named. -/
def restartIf (p : Nat → Bool) (d : Dev) (n : Nat) : Dev := if p n then d.domRestart n else d

/-- A step that may restart a domain keeps what the restart keeps. -/
theorem restartIf_within {p : Nat → Bool} {n : Nat} (h : SameOutside lo hi d (d.domRestart n)) :
    SameOutside lo hi d (d.restartIf p n) := by
  unfold Dev.restartIf
  split
  · exact h
  · exact .refl

/-- The domains named start in ascending order: the banks, then PD5 ESC, PD6 PLC and PD7 PNL. -/
def restartBanks (p : Nat → Bool) (d : Dev) : Dev := [0, 1, 2, 3, 4].foldl (restartIf p) d

/-- Whether a reset of the domains in a mask restarts domain n: it is named and on. -/
def restarts (d : Dev) (dom n : Nat) : Bool := dom.testBit n && d.on n

/-- A refusal of a power command or a domain reset: its cause in PWR_STAT, with REFUSED raised (R471, R481). -/
def pwrRefused (d : Dev) (c : Nat) : Dev := (d.putFld A.pwrStat 19 16 c).raiseSq A.pwrStat 0x2

theorem domainReset_refused {dom c : Nat} (h : (d.domRefuses dom).or (d.offRefuses dom) = some c) :
    d.domainReset dom = d.pwrRefused c := by
  simp only [Dev.domainReset, h]
  rfl

theorem restartBanks_within (p : Nat → Bool) : SameOutside 0x40000 0x60000 d (d.restartBanks p) :=
  SameOutside.foldl (fun n hn e => restartIf_within e (domRestart_banks e (by simp at hn; omega))) d

/-- The device with PD2-PD5 restarted where they are named, and that with all of them. -/
def restartToEsc (d : Dev) (p : Nat → Bool) : Dev := (d.restartBanks p).restartIf p 5
def restartAll (d : Dev) (p : Nat → Bool) : Dev := ((d.restartToEsc p).restartIf p 6).restartIf p 7

theorem domainReset_accepted {dom : Nat} (h : (d.domRefuses dom).or (d.offRefuses dom) = none) :
    d.domainReset dom = (d.restartAll (d.restarts dom)).raiseSq A.sysRstcause 0x20 := by
  simp only [Dev.domainReset, h, List.foldl_filter]
  rfl

theorem restartToEsc_within (p : Nat → Bool) : SameOutside 0x40000 0x100000 d (d.restartToEsc p) :=
  ((restartBanks_within d p).widen (by omega) (by omega)).trans
    ((restartIf_within _ (domRestart_esc _)).widen (by omega) (by omega))

/-- After PD5 ESC only PD6 PLC and PD7 PNL are left. -/
theorem restartAll_after_esc (p : Nat → Bool) : SameOutside 0x120000 0x140000 (d.restartToEsc p) (d.restartAll p) :=
  ((restartIf_within _ (domRestart_plc _)).widen (by omega) (by omega)).trans
    ((restartIf_within _ (domRestart_pnl _)).widen (by omega) (by omega))

theorem restartAll_within (p : Nat → Bool) : SameOutside 0x40000 0x140000 d (d.restartAll p) :=
  ((d.restartToEsc_within p).widen (by omega) (by omega)).trans ((d.restartAll_after_esc p).widen (by omega) (by omega))

theorem eng_restartAll {p : Nat → Bool} (h : p 5 = true) (k : Nat) : (d.restartAll p).eng k = Engine.zero := by
  rw [Dev.eng, (d.restartAll_after_esc p).engines (by unfold Outside; omega), restartToEsc, restartIf, if_pos h]
  exact eng_domRestart _ k

theorem epoch_restartAll {p : Nat → Bool} (h : p 5 = true) {k : Nat} (hk : k < 5) (hp : d.fuses.engine k = true) :
    (d.restartAll p).epoch (3 + k) = (d.epoch (3 + k) + 1) % 2 ^ 16 := by
  have hb := d.restartBanks_within p
  have hout (lo hi : Nat) (h : hi ≤ 0x60000 ∨ 0x120000 ≤ lo) : Outside lo hi (A.mbxEPOCHi (3 + k)) := by
    unfold Outside A.mbxEPOCHi; omega
  rw [epoch_of_within (d.restartAll_after_esc p) _ (hout _ _ (by omega)), restartToEsc, restartIf, if_pos h,
    epoch_domRestart _ hk (by rw [hb.fuses, hp]), epoch_of_within hb _ (hout _ _ (by omega))]

theorem engines_restartAll {p : Nat → Bool} (h : p 5 = false) : (d.restartAll p).engines = d.engines := by
  rw [(d.restartAll_after_esc p).engines (by unfold Outside; omega), restartToEsc, restartIf, if_neg (by simp [h])]
  exact (d.restartBanks_within p).engines (by unfold Outside; omega)

theorem plc_restartAll (p : Nat → Bool) : (d.restartAll p).plc = if p 6 then Plc.zero else d.plc := by
  have hlast := (restartIf_within (p := p) _ (domRestart_pnl ((d.restartToEsc p).restartIf p 6))).plc (by unfold Outside; omega)
  have hfirst := (d.restartToEsc_within p).plc (by unfold Outside; omega)
  rw [restartAll, hlast, restartIf]
  split
  · exact plc_domRestart _
  · exact hfirst

end Dev

/-! ## SYS_RSTCMD.DOM through the fabric -/

/-- The word of a domain reset names the domains above PD1 in its bits [7:2], and is no full reset. -/
theorem rstWord_fields (dom : BitVec 8) : bit (dom.setWidth 32 : Word) 31 = false ∧ fld (dom.setWidth 32 : Word) 7 2 = dom.toNat / 4 := by
  have h := dom.isLt
  constructor
  · simp [bit]
  · simp only [fld, BitVec.toNat_setWidth]; omega

/-- The mask of the domains that a word names, PD0 and PD1 left out. -/
theorem testBit_from_two (x n : Nat) : (x / 4 * 4).testBit n = (decide (2 ≤ n) && x.testBit n) := by
  rw [show x / 4 * 4 = x / 2 ^ 2 * 2 ^ 2 from rfl, Nat.testBit_mul_two_pow, Nat.testBit_div_two_pow]
  by_cases h : 2 ≤ n
  · simp [h, Nat.sub_add_cancel h]
  · simp [h]

theorem Chip.effect_sysRstcmd_dom (c : Chip) (m : Nat) (old : Word) {dom : BitVec 8} (h : 4 ≤ dom.toNat) :
    c.effect m A.sysRstcmd old (dom.setWidth 32) [] = c.onDev (·.domainReset (dom.toNat / 4 * 4)) := by
  obtain ⟨hfull, hdom⟩ := rstWord_fields dom
  change c.resetCommand (dom.setWidth 32) = _
  rw [Chip.resetCommand, hfull, hdom, if_neg (by decide), if_neg (by omega)]

@[simp] theorem State.landed_chip_dev (s : State) (c : Chip) : (s.landed c).chip.dev = c.dev := by
  simp only [State.landed, Chip.flown]
  split <;> rfl

/-- The fabric's answer to an accepted command (R340). -/
def Dev.answeredDone (d : Dev) : Dev := { d with resp := .done }

section
variable (d : Dev)
@[simp] theorem Dev.reg_answeredDone (a : Nat) : d.answeredDone.reg a = d.reg a := rfl
@[simp] theorem Dev.rb_answeredDone (a i : Nat) : d.answeredDone.rb a i = d.rb a i := rfl
@[simp] theorem Dev.rf_answeredDone (a hi lo : Nat) : d.answeredDone.rf a hi lo = d.rf a hi lo := rfl
@[simp] theorem Dev.on_answeredDone (n : Nat) : d.answeredDone.on n = d.on n := rfl
@[simp] theorem Dev.eng_answeredDone (k : Nat) : d.answeredDone.eng k = d.eng k := rfl
@[simp] theorem Dev.epoch_answeredDone (m : Nat) : d.answeredDone.epoch m = d.epoch m := rfl
@[simp] theorem Dev.engines_answeredDone : d.answeredDone.engines = d.engines := rfl
@[simp] theorem Dev.chans_answeredDone : d.answeredDone.chans = d.chans := rfl
@[simp] theorem Dev.plc_answeredDone : d.answeredDone.plc = d.plc := rfl
@[simp] theorem Dev.pnl_answeredDone : d.answeredDone.pnl = d.pnl := rfl
@[simp] theorem Dev.pwr_answeredDone : d.answeredDone.pwr = d.pwr := rfl
@[simp] theorem Dev.vBound_answeredDone : d.answeredDone.vBound = d.vBound := rfl
end

/-- What an accepted command leaves of the device. -/
theorem State.done_dev (s : State) (c : Chip) : (s.done c).chip.dev = c.dev.answeredDone := State.landed_chip_dev ..

/-- An event elsewhere leaves a domain's state, an engine and an epoch. -/
theorem Dev.on_raiseSq (d : Dev) {a : Nat} (h : A.pwrDom ≠ a) (bits n : Nat) : (d.raiseSq a bits).on n = d.on n :=
  congrArg (bit · n) (Dev.reg_raiseSq_ne d h bits)
theorem Dev.epoch_raiseSq (d : Dev) {a : Nat} (h : a < 0x0F0000) (bits m : Nat) : (d.raiseSq a bits).epoch m = d.epoch m :=
  congrArg (fld · 15 0) (Dev.reg_raiseSq_ne d (by unfold A.mbxEPOCHi; omega) bits)
@[simp] theorem Dev.eng_raiseSq (d : Dev) (a bits k : Nat) : (d.raiseSq a bits).eng k = d.eng k := rfl
@[simp] theorem Dev.engines_raiseSq (d : Dev) (a bits : Nat) : (d.raiseSq a bits).engines = d.engines := rfl
@[simp] theorem Dev.plc_raiseSq (d : Dev) (a bits : Nat) : (d.raiseSq a bits).plc = d.plc := rfl

theorem exec_domainReset_accepted {s : State} {m : Master} {dom : BitVec 8} (hl : s.chip.lets m.id A.sysRstcmd (dom.setWidth 32))
    (h : 4 ≤ dom.toNat) : exec (.domainReset m dom) s =
      .next (s.done ((s.chip.loaded m.id A.sysRstcmd (dom.setWidth 32)).onDev (·.domainReset (dom.toNat / 4 * 4)))) := by
  obtain ⟨old, hw⟩ := State.wrote_of_lets hl (by decide) (by decide) (by decide) (by decide) (by decide) (by decide)
  exact hw.trans (by rw [Chip.effect_sysRstcmd_dom _ _ _ h])

theorem Dev.domRefuses_lt (d : Dev) {dom c : Nat} (h : d.domRefuses dom = some c) : c < 16 := by
  unfold Dev.domRefuses at h
  split at h
  · cases h; decide
  · split at h
    · cases h; decide
    · cases h

theorem Dev.offRefuses_lt (d : Dev) {dom c : Nat} (h : d.offRefuses dom = some c) : c < 16 := by
  unfold Dev.offRefuses at h
  split at h
  · cases h; decide
  · split at h
    · cases h; decide
    · cases h

/-- The causes that refuse a domain reset fit the field of PWR_STAT. -/
theorem Dev.resetCause_lt (d : Dev) {dom c : Nat} (h : (d.domRefuses dom).or (d.offRefuses dom) = some c) : c < 16 := by
  cases hdom : d.domRefuses dom with
  | none => exact d.offRefuses_lt (by rwa [hdom, Option.none_or] at h)
  | some k => exact d.domRefuses_lt (by rwa [hdom, Option.some_or, ← hdom] at h)

theorem Dev.cause_pwrRefused (d : Dev) {c : Nat} (h : c < 16) : (d.pwrRefused c).rf A.pwrStat 19 16 = c := by
  have hput : (d.putFld A.pwrStat 19 16 c).rf A.pwrStat 19 16 = c := (Dev.rf_putFld_self d _ _ (by omega)).trans (Nat.mod_eq_of_lt h)
  refine Eq.trans ?_ hput
  apply Nat.eq_of_testBit_eq
  intro i
  simp only [Dev.rf, testBit_fld]
  by_cases hi : i < 19 + 1 - 16
  · have hb := Dev.rb_raiseSq (d.putFld A.pwrStat 19 16 c) A.pwrStat 0x2 (16 + i) (by omega)
    have h2 : Nat.testBit 0x2 (16 + i) = false := Nat.testBit_lt_two_pow (Nat.lt_of_lt_of_le (by omega : 2 < 2 ^ 16)
      (Nat.pow_le_pow_right (by omega) (by omega)))
    rw [h2, Bool.or_false] at hb
    exact congrArg _ hb
  · simp [hi]

theorem Dev.flag_pwrRefused (d : Dev) (c : Nat) : (d.pwrRefused c).rb A.pwrStat 1 = true := by
  rw [Dev.pwrRefused, Dev.rb_raiseSq _ _ _ _ (by omega), show Nat.testBit 0x2 1 = true by decide, Bool.or_true]

/-- A domain reset that R471 refuses changes no domain. -/
theorem domainReset_refused {s : State} {m : Master} {dom : BitVec 8} (hl : s.chip.lets m.id A.sysRstcmd (dom.setWidth 32))
    (h : 4 ≤ dom.toNat) :
    let x := dom.toNat / 4 * 4
    let d := (s.chip.loaded m.id A.sysRstcmd (dom.setWidth 32)).dev
    ∀ c, (d.domRefuses x).or (d.offRefuses x) = some c → ∃ t, exec (.domainReset m dom) s = .next t ∧
      t.chip.dev.rf A.pwrStat 19 16 = c ∧ t.chip.dev.rb A.pwrStat 1 = true ∧ t.chip.dev.engines = d.engines ∧
      t.chip.dev.chans = d.chans ∧ t.chip.dev.plc = d.plc ∧ t.chip.dev.pnl = d.pnl := by
  intro x d c hc
  refine ⟨_, exec_domainReset_accepted hl h, ?_⟩
  rw [State.done_dev, Chip.onDev_dev, Dev.domainReset_refused _ hc]
  simp only [Dev.rf_answeredDone, Dev.rb_answeredDone]
  exact ⟨Dev.cause_pwrRefused _ (Dev.resetCause_lt _ hc), Dev.flag_pwrRefused _ c, rfl, rfl, rfl, rfl⟩

/-- An accepted domain reset: the named domains that are on start again, the others go on. -/
theorem domainReset_restarts {s : State} {m : Master} {dom : BitVec 8} (hl : s.chip.lets m.id A.sysRstcmd (dom.setWidth 32))
    (h : 4 ≤ dom.toNat) :
    let x := dom.toNat / 4 * 4
    let d := (s.chip.loaded m.id A.sysRstcmd (dom.setWidth 32)).dev
    (d.domRefuses x).or (d.offRefuses x) = none → ∃ t, exec (.domainReset m dom) s = .next t ∧
      t.chip.dev.rb A.sysRstcause 5 = true ∧ (∀ n < 8, t.chip.dev.on n = d.on n) ∧
      (dom.getLsbD 5 = true → d.on 5 = true → ∀ k : Fin 5, t.chip.dev.eng k.val = Engine.zero) ∧
      (dom.getLsbD 5 = true → d.on 5 = true → ∀ k : Fin 5, d.fuses.engine k.val = true →
        t.chip.dev.epoch (3 + k.val) = (d.epoch (3 + k.val) + 1) % 2 ^ 16) ∧
      (dom.getLsbD 5 = false → t.chip.dev.engines = d.engines) ∧
      (dom.getLsbD 6 = true → d.on 6 = true → t.chip.dev.plc = Plc.zero) ∧ (dom.getLsbD 6 = false → t.chip.dev.plc = d.plc) := by
  intro x d hc
  have hp (n : Nat) (hn : 2 ≤ n) : d.restarts x n = (dom.getLsbD n && d.on n) := by
    rw [Dev.restarts, testBit_from_two, decide_eq_true hn, Bool.true_and, BitVec.getLsbD]
  have hw := d.restartAll_within (d.restarts x)
  refine ⟨_, exec_domainReset_accepted hl h, ?_⟩
  rw [State.done_dev, Chip.onDev_dev, Dev.domainReset_accepted _ hc]
  simp only [Dev.rb_answeredDone, Dev.on_answeredDone, Dev.eng_answeredDone, Dev.epoch_answeredDone, Dev.engines_answeredDone,
    Dev.plc_answeredDone, Dev.rb_raiseSq _ A.sysRstcause 0x20 5 (by omega), Dev.on_raiseSq _ (show A.pwrDom ≠ A.sysRstcause by decide),
    Dev.eng_raiseSq, Dev.epoch_raiseSq _ (show A.sysRstcause < 0x0F0000 by decide), Dev.engines_raiseSq, Dev.plc_raiseSq,
    Dev.plc_restartAll, hp 6 (by omega)]
  refine ⟨?cause, fun n _ => ?on, fun h5 hon k => ?eng, fun h5 hon k hk => ?epoch, fun h5 => ?engines, fun h6 hon => ?plc, fun h6 => ?plcKept⟩
  case cause => rw [show Nat.testBit 0x20 5 = true by decide, Bool.or_true]
  case on => exact congrArg (bit · n) (hw.reg _ (by unfold Outside; decide))
  case eng => exact d.eng_restartAll (by rw [hp 5 (by omega), h5, hon]; rfl) k
  case epoch => exact d.epoch_restartAll (by rw [hp 5 (by omega), h5, hon]; rfl) k.isLt hk
  case engines => exact d.engines_restartAll (by rw [hp 5 (by omega), h5, Bool.false_and])
  case plc => rw [h6, hon]; rfl
  case plcKept => rw [h6]; rfl

end Sys2Proof.Machine
end

section
/-! The interrupt pins, the watchdog, the supplies and CK2 XTM (R477, R480, R484-R487). -/
namespace Sys2Proof.Machine

/-! ## The IRQ pins (R486, R487) -/

/-- Whether a pending source is routed to a pin. -/
def Dev.asserted (d : Dev) (pin : Nat) : Prop := ∃ k < 19, d.irqSource k = true ∧ (d.irqRoute k).testBit pin = true

theorem Dev.irqPin_iff {d : Dev} (h : d.held = false) (pin : Nat) : d.irqPin pin = true ↔ d.asserted pin := by
  simp [Dev.irqPin, Dev.asserted, h]

theorem Dev.irqLevel_cases (d : Dev) (pin : Nat) :
    (d.held = true → d.irqLevel pin = none) ∧ (d.held = false → d.asserted pin → d.irqLevel pin = some false) ∧
    (d.held = false → ¬d.asserted pin → d.irqLevel pin = if d.rb A.sysIrqcfg pin then some true else none) := by
  refine ⟨fun h => if_pos h, fun h ha => ?_, fun h ha => ?_⟩
  · rw [Dev.irqLevel, h, if_neg (by decide), if_pos ((Dev.irqPin_iff h pin).2 ha)]
  · rw [Dev.irqLevel, h, if_neg (by decide), if_neg fun hp => ha ((Dev.irqPin_iff h pin).1 hp)]

theorem irqLine_low_iff (l : List (Option Bool)) : irqLine l = false ↔ some false ∈ l := by simp [irqLine]

/-! ## The watchdog (R480) -/

/-- The MAC's part of a watchdog reset stays within PLC. -/
theorem Dev.plcWatchdog_within (d : Dev) : Dev.SameOutside 0x120000 0x130000 d d.plcWatchdog := by
  unfold Dev.plcWatchdog
  split
  · have h := (Dev.SameOutside.putBit (lo := 0x120000) (hi := 0x130000) (d := d) (a := A.plcStat) (by decide) 10 false).trans
      (.raiseSq (a := A.plcStat) (by decide) 0x1)
    exact { h with plc := fun h => absurd h (by unfold Outside; omega) }
  · exact .refl

/-- The device once the watchdog's reset has reached the MAC, the panel and the supervisor's state. -/
def Dev.supLost (d : Dev) : Dev := { d.plcWatchdog.pnlWatchdog with sup := Sup.zero }

theorem Dev.reg_supLost (d : Dev) {a : Nat} (h : Outside 0x120000 0x130000 a) : d.supLost.reg a = d.reg a :=
  d.plcWatchdog_within.reg a h

/-- The supervisor starts anew: its epoch and the count of the watchdog's resets. -/
def Dev.supRestarted (d : Dev) : Dev := ((d.supLost.masterReset 2).epochUp 2).count A.sysWdtcnt 31 0 1

theorem Dev.watchdog_eq {d : Dev} (h : d.held = false) :
    d.watchdog = (d.supRestarted.raiseSq A.sysRstcause 0x10).notice 1 0x80 [wd (d.supRestarted.epoch 2)] := by
  rw [Dev.watchdog, h, if_neg (by decide)]
  rfl

theorem Dev.epoch_supRestarted (d : Dev) : d.supRestarted.epoch 2 = (d.epoch 2 + 1) % 2 ^ 16 := by
  have hcount (e : Dev) : (e.count A.sysWdtcnt 31 0 1).epoch 2 = e.epoch 2 :=
    congrArg (fld · 15 0) (Dev.reg_count_ne e (by decide) _ _ _)
  have hlost : d.supLost.epoch 2 = d.epoch 2 := congrArg (fld · 15 0) (d.reg_supLost (by unfold Outside; decide))
  rw [Dev.supRestarted, hcount, Dev.epoch_epochUp, Dev.epoch_masterReset, hlost]

theorem Dev.wdtcnt_supRestarted (d : Dev) :
    d.supRestarted.reg A.sysWdtcnt = wd (min (2 ^ 32 - 1) ((d.reg A.sysWdtcnt).toNat + 1)) := by
  have hup : ((d.supLost.masterReset 2).epochUp 2).reg A.sysWdtcnt = d.reg A.sysWdtcnt :=
    (Dev.reg_countMod_ne _ (by decide) _ _ _).trans (d.reg_supLost (by unfold Outside; decide))
  rw [Dev.supRestarted, Dev.count_whole, Dev.reg_setReg_self, hup]

@[simp] theorem Dev.sup_supRestarted (d : Dev) : d.supRestarted.sup = Sup.zero := rfl
theorem Dev.locks_supRestarted (d : Dev) (n : Nat) : SMap.find d.supRestarted.locks n ≠ some 2 :=
  Dev.locks_epochUp_masterReset d.supLost 2 n
theorem Dev.mbox_supRestarted (d : Dev) : d.supRestarted.mbox = d.mbox := by
  have hmac := d.plcWatchdog_within.mbox (by unfold Outside; omega)
  simpa [Dev.supRestarted, Dev.epochUp, Dev.masterReset, Dev.supLost, Dev.pnlWatchdog] using hmac
theorem Dev.engines_supRestarted (d : Dev) : d.supRestarted.engines = d.engines := by
  have hmac := d.plcWatchdog_within.engines (by unfold Outside; omega)
  simpa [Dev.supRestarted, Dev.epochUp, Dev.masterReset, Dev.supLost, Dev.pnlWatchdog] using hmac

/-! A notice changes the supervisor's lists alone. -/

section
variable (d : Dev) (cls op : Nat) (data : List Word)
@[simp] theorem Dev.reg_notice (a : Nat) : (d.notice cls op data).reg a = d.reg a := rfl
@[simp] theorem Dev.rb_notice (a i : Nat) : (d.notice cls op data).rb a i = d.rb a i := rfl
@[simp] theorem Dev.epoch_notice (m : Nat) : (d.notice cls op data).epoch m = d.epoch m := rfl
@[simp] theorem Dev.locks_notice : (d.notice cls op data).locks = d.locks := rfl
@[simp] theorem Dev.mbox_notice : (d.notice cls op data).mbox = d.mbox := rfl
@[simp] theorem Dev.engines_notice : (d.notice cls op data).engines = d.engines := rfl

/-- The first notice of a supervisor that has started anew (R403). -/
theorem Dev.sup_notice_first {d : Dev} (h : d.sup = Sup.zero) :
    (d.notice cls op data).sup = { Sup.zero with notices := [wd (cls * 2 ^ 28 + op * 2 ^ 20) :: data] } := by
  have hnone : satNat 8 (SMap.get 0 Sup.zero.dropped (cls * 256 + op)) = 0 := Nat.zero_min _
  have hroom : ¬ 16 ≤ Sup.zero.notices.length := by decide
  rw [Dev.notice, Dev.modSup, h]
  dsimp only
  rw [if_neg hroom, hnone, Nat.add_zero]
  rfl
end

theorem exec_watchdogReset {s : State} (h : s.chip.dev.held = false) :
    exec .watchdogReset s = .next (s.to s.chip.dev.watchdog) := State.device_of_up h _

theorem watchdogReset_effect {s : State} (h : s.chip.dev.held = false) : ∃ t, exec .watchdogReset s = .next t ∧
    t.chip.dev.sup.held = [] ∧ t.chip.dev.sup.replies = [] ∧ t.chip.dev.epoch 2 = (s.chip.dev.epoch 2 + 1) % 2 ^ 16 ∧
    t.chip.dev.sup.notices = [[0x18000000#32, wd (t.chip.dev.epoch 2)]] ∧ t.chip.dev.rb A.sysRstcause 4 = true ∧
    t.chip.dev.reg A.sysWdtcnt = wd (min (2 ^ 32 - 1) ((s.chip.dev.reg A.sysWdtcnt).toNat + 1)) ∧
    (∀ n, SMap.find t.chip.dev.locks n ≠ some 2) ∧ t.chip.dev.mbox = s.chip.dev.mbox ∧ t.chip.dev.engines = s.chip.dev.engines ∧
    t.chip.nvm = s.chip.nvm := by
  have hsup := Dev.sup_notice_first 1 0x80 [wd (s.chip.dev.supRestarted.epoch 2)]
    (d := s.chip.dev.supRestarted.raiseSq A.sysRstcause 0x10) rfl
  refine ⟨_, exec_watchdogReset h, ?_⟩
  rw [State.to_dev, State.to_nvm, Dev.watchdog_eq h, hsup]
  simp only [Dev.reg_notice, Dev.rb_notice, Dev.epoch_notice, Dev.locks_notice, Dev.mbox_notice, Dev.engines_notice,
    Dev.epoch_raiseSq _ (show A.sysRstcause < 0x0F0000 by decide), Dev.rb_raiseSq _ A.sysRstcause 0x10 4 (by omega),
    Dev.reg_raiseSq_ne _ (show A.sysWdtcnt ≠ A.sysRstcause by decide), Dev.epoch_supRestarted, Dev.wdtcnt_supRestarted]
  exact ⟨rfl, rfl, trivial, rfl, by rw [show Nat.testBit 0x10 4 = true by decide, Bool.or_true], trivial, Dev.locks_supRestarted _,
    Dev.mbox_supRestarted _, Dev.engines_supRestarted _, trivial⟩

/-! ## Bits of a register -/

theorem Dev.rb_putBit (d : Dev) (a : Nat) {i : Nat} (h : i < 32) (b : Bool) (j : Nat) :
    (d.putBit a i b).rb a j = if i = j then b else d.rb a j := by
  rw [Dev.rb, Dev.putBit, Dev.putFld, Dev.reg_setReg_self, bit_setFld _ _ _ h]
  by_cases hj : i = j
  · subst hj; cases b <;> simp
  · rw [if_neg (by omega), if_neg hj, Dev.rb]

theorem Dev.rb_raiseIf (d : Dev) (c : Bool) (a bits i : Nat) (h : i < 24) :
    (d.raiseIf c a bits).rb a i = (d.rb a i || (c && bits.testBit i)) := by
  cases c
  · simp [Dev.raiseIf]
  · simpa [Dev.raiseIf] using Dev.rb_raiseSq d a bits i h

/-! ## The supplies (R477) -/

theorem lowSupply_effect (s : State) (vdd avdd : Bool) : ∃ t, exec (.lowSupply vdd avdd) s = .next t ∧
    t.chip.dev.rb A.sysSupstat 9 = vdd ∧ t.chip.dev.rb A.sysSupstat 10 = avdd ∧
    t.chip.dev.rb A.sysSupstat 0 = (s.chip.dev.rb A.sysSupstat 0 || (vdd && !s.chip.dev.rb A.sysSupstat 9) ||
      (avdd && !s.chip.dev.rb A.sysSupstat 10)) ∧
    (∀ a, a ≠ A.sysSupstat → t.chip.dev.reg a = s.chip.dev.reg a) ∧ t.chip.nvm = s.chip.nvm := by
  have hbit (d : Dev) (i : Nat) (hi : i < 24) : (d.lowSupply vdd avdd).rb A.sysSupstat i =
      (((d.putBit A.sysSupstat 9 vdd).putBit A.sysSupstat 10 avdd).rb A.sysSupstat i ||
        (((vdd && !d.rb A.sysSupstat 9) || (avdd && !d.rb A.sysSupstat 10)) && Nat.testBit 0x1 i)) := Dev.rb_raiseIf _ _ _ _ _ hi
  refine ⟨s.to (s.chip.dev.lowSupply vdd avdd), rfl, ?_⟩
  rw [State.to_dev, hbit _ _ (by omega), hbit _ _ (by omega), hbit _ _ (by omega)]
  simp only [Dev.rb_putBit _ _ (show 10 < 32 by omega), Dev.rb_putBit _ _ (show 9 < 32 by omega)]
  refine ⟨?_, ?_, ?_, fun a ha => ?_, rfl⟩
  · rw [show Nat.testBit 0x1 9 = false by decide]; simp
  · rw [show Nat.testBit 0x1 10 = false by decide]; simp
  · rw [show Nat.testBit 0x1 0 = true by decide]; simp [Bool.or_assoc]
  · rw [Dev.lowSupply, Dev.reg_raiseIf_ne _ _ ha, Dev.reg_putBit_ne _ ha, Dev.reg_putBit_ne _ ha]

end Sys2Proof.Machine
end

section
/-! CK2 XTM fails and is verified again (R43, R125, R484). -/
namespace Sys2Proof.Machine

/-! ## What a failure leaves as it is -/

/-- `e` is `d` but for the registers at the addresses listed: fuses, engines and pulse outputs are the same. -/
structure Dev.SameClockless (l : List Nat) (d e : Dev) : Prop where
  fuses : e.fuses = d.fuses
  engines : e.engines = d.engines
  outs : e.outs = d.outs
  reg : ∀ a, a ∉ l → e.reg a = d.reg a

namespace Dev.SameClockless
variable {l l' : List Nat} {d e f : Dev}

theorem trans (h : SameClockless l d e) (h' : SameClockless l' e f) : SameClockless (l ++ l') d f where
  fuses := h'.fuses.trans h.fuses
  engines := h'.engines.trans h.engines
  outs := h'.outs.trans h.outs
  reg a ha := (h'.reg a fun hm => ha (List.mem_append_right l hm)).trans (h.reg a fun hm => ha (List.mem_append_left l' hm))

theorem refl : SameClockless l d d := ⟨rfl, rfl, rfl, fun _ _ => rfl⟩

theorem setReg (a : Nat) (w : Word) : SameClockless [a] d (d.setReg a w) :=
  ⟨rfl, rfl, rfl, fun _ hx => Dev.reg_setReg_ne d (List.ne_of_not_mem_cons hx) w⟩

end Dev.SameClockless

namespace Dev
variable (d : Dev)

theorem foldl_answer_shape (l : List HeldCmd) (st : Nat) (data : List Word) :
    ∀ d : Dev, ∃ x, l.foldl (fun (d : Dev) (c : HeldCmd) => d.answer c st data) d = d.modSup fun _ => x := by
  induction l with
  | nil => exact fun d => ⟨d.sup, rfl⟩
  | cons c l ih => exact fun d => ih (d.answer c st data)

/-- The MAC's stop answers commands, changes the MAC and clears RUN (R519). -/
theorem macHalt_shape : ∃ x p, d.macHalt = ({ d with sup := x, plc := p, txen := false } : Dev).putBit A.plcStat 10 false := by
  obtain ⟨x, hx⟩ := foldl_answer_shape ((d.plc.sent.toList.map Prod.fst ++ d.plc.queue).filterMap TxMsg.cmd) 4 [wd 2] d
  unfold Dev.macHalt
  simp only [hx]
  split
  · exact ⟨_, _, rfl⟩
  · exact ⟨_, _, rfl⟩

theorem macHalt_keeps : SameClockless [A.plcStat] d d.macHalt := by
  obtain ⟨x, p, h⟩ := d.macHalt_shape
  rw [h]
  exact { SameClockless.setReg (d := { d with sup := x, plc := p, txen := false }) A.plcStat _ with }

theorem plcXtmFail_keeps : SameClockless [A.plcStat, A.plcStat] d d.plcXtmFail := by
  unfold Dev.plcXtmFail
  split
  · refine SameClockless.trans (l := [A.plcStat]) ?_ (macHalt_keeps _)
    unfold Dev.raiseIf
    split
    · exact .setReg _ _
    · exact .refl
  · exact .refl

theorem calUnlocked_keeps : SameClockless [A.cnvCalinfo] d d.calUnlocked := by
  unfold Dev.calUnlocked Dev.calSpoil
  split
  · next c hc =>
    split
    · split
      · exact .refl
      · exact { SameClockless.setReg (d := { d with cal := some { c with restart := true } }) A.cnvCalinfo _ with }
    · exact .refl
  · exact .refl

/-- A loss of lock clears LOCKED and raises the event; beside, it concerns the loop, the auxiliary converter and the records (R44). -/
theorem fllLose_shape (w : Word) : ∃ x f v, d.fllLose w =
    { (d.calUnlocked.putBit A.clkCycstat 3 false).raiseSq A.clkCycstat 0x2 with aux := x, fll := f, evt := v } := by
  unfold Dev.fllLose Dev.lockRec
  dsimp only
  split
  · exact ⟨_, _, _, rfl⟩
  · exact ⟨_, _, _, rfl⟩

theorem fllLose_keeps (w : Word) : SameClockless [A.cnvCalinfo, A.clkCycstat, A.clkCycstat] d (d.fllLose w) := by
  obtain ⟨x, f, v, h⟩ := d.fllLose_shape w
  rw [h]
  exact { (d.calUnlocked_keeps.trans (.setReg A.clkCycstat _)).trans (.setReg A.clkCycstat _) with }

theorem locked_fllLose (w : Word) : (d.fllLose w).locked = false := by
  obtain ⟨x, f, v, h⟩ := d.fllLose_shape w
  rw [h]
  change ((d.calUnlocked.putBit A.clkCycstat 3 false).raiseSq A.clkCycstat 0x2).rb A.clkCycstat 3 = false
  rw [Dev.rb_raiseSq _ _ _ _ (by omega), Dev.rb_putBit _ _ (by omega), if_pos rfl]
  decide

/-! ## The steps of a failure (R484) -/

/-- XTMOK clears, XTMFAIL is raised, and the MAC stops. -/
def xtmLost (d : Dev) : Dev := ((d.putBit A.clkStat 8 false).raiseSq A.clkStat 0x1).plcXtmFail

/-- Lock is lost where CYC was locked; what the record carries is a free value. -/
def lockDropped (d : Dev) : Dev := if d.locked then d.free.2.fllLose (wd (d.free.1 % 2 ^ 19)) else d

/-- A pulse output that is active goes inactive. -/
def outStop (d : Dev) (n : Nat) : Dev :=
  if (d.out n).active then (d.modOut n fun o => { o with active := false, idle := 0 }).putBit (A.bimCFnStat n) 4 false else d

/-- CLK, MAC and loop after a failure, before the outputs stop. -/
def clocksLost (d : Dev) : Dev := d.xtmLost.lockDropped

theorem xtmFail_eq (h : d.held = false) :
    d.xtmFail = { (List.range d.clocksLost.fuses.cfs).foldl outStop d.clocksLost with modOn := false } := by
  rw [Dev.xtmFail, h, if_neg (by decide)]
  rfl

theorem xtmLost_keeps : SameClockless [A.clkStat, A.clkStat, A.plcStat, A.plcStat] d d.xtmLost :=
  ((SameClockless.setReg A.clkStat _).trans (.setReg A.clkStat _)).trans (plcXtmFail_keeps _)

theorem lockDropped_keeps : SameClockless [A.cnvCalinfo, A.clkCycstat, A.clkCycstat] d d.lockDropped := by
  unfold Dev.lockDropped
  split
  · exact { fllLose_keeps d.free.2 _ with }
  · exact .refl

theorem clocksLost_keeps :
    SameClockless [A.clkStat, A.clkStat, A.plcStat, A.plcStat, A.cnvCalinfo, A.clkCycstat, A.clkCycstat] d d.clocksLost :=
  d.xtmLost_keeps.trans (lockDropped_keeps _)

theorem locked_clocksLost : d.clocksLost.locked = false := by
  unfold Dev.clocksLost Dev.lockDropped
  split
  · exact locked_fllLose _ _
  · next h => exact Bool.eq_false_iff.2 h

theorem rb_clkStat_clocksLost (i : Nat) :
    d.clocksLost.rb A.clkStat i = ((d.putBit A.clkStat 8 false).raiseSq A.clkStat 0x1).rb A.clkStat i :=
  congrArg (bit · i) (((lockDropped_keeps _).reg _ (by decide)).trans ((plcXtmFail_keeps _).reg _ (by decide)))

theorem xtmOk_clocksLost : d.clocksLost.xtmOk = false := by
  rw [Dev.xtmOk, rb_clkStat_clocksLost, Dev.rb_raiseSq _ _ _ _ (by omega), Dev.rb_putBit _ _ (by omega), if_pos rfl]
  decide

theorem failed_clocksLost : d.clocksLost.rb A.clkStat 0 = true := by
  rw [rb_clkStat_clocksLost, Dev.rb_raiseSq _ _ _ _ (by omega), show Nat.testBit 0x1 0 = true by decide, Bool.or_true]

/-! ## The outputs stop -/

theorem reg_outStop (n : Nat) {a : Nat} (h : a < 0x0C0000) : (d.outStop n).reg a = d.reg a := by
  unfold Dev.outStop
  split
  · exact Dev.reg_putBit_ne _ (by unfold A.bimCFnStat; omega) _ _
  · rfl

theorem engines_outStop (n : Nat) : (d.outStop n).engines = d.engines := by
  unfold Dev.outStop
  split <;> rfl

@[simp] theorem out_putBit (a i : Nat) (b : Bool) (k : Nat) : (d.putBit a i b).out k = d.out k := rfl

/-- An output after a step: its own step makes it inactive; P and H stay. -/
theorem out_outStop (n k : Nat) : ((d.outStop n).out k).p = (d.out k).p ∧ ((d.outStop n).out k).h = (d.out k).h ∧
    (n = k ∧ k < 4 ∨ (d.out k).active = false → ((d.outStop n).out k).active = false) := by
  unfold Dev.outStop
  split
  · rw [out_putBit, Dev.modOut, Dev.out_setOut]
    by_cases h : n = k ∧ k < 4
    · rw [if_pos h, h.1]
      exact ⟨rfl, rfl, fun _ => rfl⟩
    · rw [if_neg h]
      exact ⟨rfl, rfl, fun hk => hk.resolve_left h⟩
  · next hn =>
    refine ⟨rfl, rfl, fun hk => hk.elim (fun h => ?_) id⟩
    rw [← h.1]
    exact Bool.eq_false_iff.2 hn

theorem out_foldl_outStop (k : Nat) (l : List Nat) : ∀ d : Dev,
    ((l.foldl outStop d).out k).p = (d.out k).p ∧ ((l.foldl outStop d).out k).h = (d.out k).h ∧
    (k ∈ l ∧ k < 4 ∨ (d.out k).active = false → ((l.foldl outStop d).out k).active = false) := by
  induction l with
  | nil => exact fun d => ⟨rfl, rfl, fun h => h.elim (fun h => absurd h.1 (List.not_mem_nil)) id⟩
  | cons n l ih =>
    intro d
    obtain ⟨hp, hh, hact⟩ := d.out_outStop n k
    obtain ⟨hp', hh', hact'⟩ := ih (d.outStop n)
    refine ⟨hp'.trans hp, hh'.trans hh, fun h => hact' ?_⟩
    rcases h with ⟨hm, hk⟩ | hoff
    · rcases List.mem_cons.1 hm with rfl | hm
      · exact .inr (hact (.inl ⟨rfl, hk⟩))
      · exact .inl ⟨hm, hk⟩
    · exact .inr (hact (.inr hoff))

theorem reg_foldl_outStop {a : Nat} (h : a < 0x0C0000) (l : List Nat) : ∀ d : Dev, (l.foldl outStop d).reg a = d.reg a := by
  induction l with
  | nil => exact fun _ => rfl
  | cons n l ih => exact fun d => (ih _).trans (reg_outStop d n h)

theorem engines_foldl_outStop (l : List Nat) : ∀ d : Dev, (l.foldl outStop d).engines = d.engines := by
  induction l with
  | nil => exact fun _ => rfl
  | cons n l ih => exact fun d => (ih _).trans (engines_outStop d n)

end Dev

theorem xtmFail_effect {s : State} (h : s.chip.dev.held = false) : ∃ t, exec .xtmFail s = .next t ∧ t.chip.dev.xtmOk = false ∧
    t.chip.dev.rb A.clkStat 0 = true ∧ t.chip.dev.modOn = false ∧ t.chip.dev.locked = false ∧
    (∀ n : Fin 4, n.val < s.chip.dev.fuses.cfs → (t.chip.dev.out n.val).active = false ∧
      (t.chip.dev.out n.val).p = (s.chip.dev.out n.val).p ∧ (t.chip.dev.out n.val).h = (s.chip.dev.out n.val).h) ∧
    t.chip.dev.engines = s.chip.dev.engines ∧ t.chip.nvm = s.chip.nvm := by
  have hkeep := s.chip.dev.clocksLost_keeps
  have hreg {a : Nat} (ha : a < 0x0C0000) := Dev.reg_foldl_outStop ha (List.range s.chip.dev.clocksLost.fuses.cfs) s.chip.dev.clocksLost
  refine ⟨s.to s.chip.dev.xtmFail, State.device_of_up h _, ?_⟩
  rw [State.to_dev, State.to_nvm, Dev.xtmFail_eq _ h]
  refine ⟨?ok, ?failed, rfl, ?locked, fun n hn => ?out, ?engines, rfl⟩
  case ok => exact (congrArg (bit · 8) (hreg (by decide))).trans s.chip.dev.xtmOk_clocksLost
  case failed => exact (congrArg (bit · 0) (hreg (by decide))).trans s.chip.dev.failed_clocksLost
  case locked => exact (congrArg (bit · 3) (hreg (by decide))).trans s.chip.dev.locked_clocksLost
  case engines => exact (Dev.engines_foldl_outStop _ _).trans hkeep.engines
  case out =>
    obtain ⟨hp, hh, hact⟩ := Dev.out_foldl_outStop n.val (List.range s.chip.dev.clocksLost.fuses.cfs) s.chip.dev.clocksLost
    have hout : s.chip.dev.clocksLost.out n.val = s.chip.dev.out n.val := congrArg (Vector.getD · n.val PulseOut.zero) hkeep.outs
    rw [hout] at hp hh
    exact ⟨hact (.inl ⟨List.mem_range.2 (by rw [hkeep.fuses]; exact hn), n.isLt⟩), hp, hh⟩

/-! ## XTM is verified again (R43, R125, R128, R484) -/

namespace Dev
variable (d : Dev)

/-- Every channel that is on starts again. -/
def chansRestarted (d : Dev) : Dev := ((List.range 18).filter d.chanOn).foldl restartChan d

/-- The loop running free from now on (R43; its first tick 0 is log entry 39's). -/
def freeRun (d : Dev) : Fll :=
  { Fll.zero with tick0 := d.now, due := d.now + nominalLen d.nom60, cycLen := d.fll.cycLen, period := nominalLen d.nom60 }

theorem chCfg_restartChan (k j : Nat) : (d.restartChan k).chCfg j = d.chCfg j := rfl

theorem chan_restartChan (k j : Nat) :
    (d.restartChan k).chan j = if k = j ∧ j < 18 then (d.chan j).restart (d.chCfg j).settle else d.chan j := by
  rw [Dev.restartChan, Dev.modChan, Dev.chan_setChan]
  split
  · next h => rw [h.1]
  · rfl

theorem chan_foldl_restartChan {j : Nat} (hj : j < 18) (l : List Nat) (hn : l.Nodup) : ∀ d : Dev,
    (l.foldl restartChan d).chan j = if j ∈ l then (d.chan j).restart (d.chCfg j).settle else d.chan j := by
  induction l with
  | nil => exact fun _ => rfl
  | cons k l ih =>
    intro d
    obtain ⟨hk, hn⟩ := List.nodup_cons.1 hn
    rw [List.foldl_cons, ih hn, chan_restartChan, chCfg_restartChan]
    by_cases h : k = j
    · subst h; simp [hk, hj]
    · simp [h, Ne.symm h]

theorem chan_chansRestarted {j : Nat} (hj : j < 18) :
    d.chansRestarted.chan j = if d.chanOn j then (d.chan j).restart (d.chCfg j).settle else d.chan j := by
  rw [chansRestarted, chan_foldl_restartChan hj _ (List.nodup_range.filter _)]
  simp [hj]

/-- Restarting channels changes nothing but the channels. -/
theorem foldl_restartChan_shape (l : List Nat) : ∀ d : Dev, ∃ x, l.foldl restartChan d = { d with chans := x } := by
  induction l with
  | nil => exact fun d => ⟨d.chans, rfl⟩
  | cons k l ih => exact fun d => ih (d.restartChan k)

theorem linkOff_of_master {d : Dev} (h : d.isMaster = true) : d.linkOff = d := by
  rw [Dev.linkOff, h, Bool.or_true, if_pos rfl]

/-- The device with XTMOK set and every channel restarted. -/
def verified (d : Dev) : Dev := (d.putBit A.clkStat 8 true).chansRestarted

theorem verified_shape : ∃ x, d.verified = { d.putBit A.clkStat 8 true with chans := x } := foldl_restartChan_shape _ _

/-- The clocks run again, CYC free: MOD on the master, and on a member with its link (R484, R548). -/
def clocksBack (d : Dev) : Dev :=
  { d.verified with
    modOn := d.verified.isMaster || (d.verified.chn.lnkOk && d.verified.chn.synced), fll := d.verified.freeRun, cycHigh := true
    cutoffPassed := false }

theorem xtmOkSet_eq (hup : d.held = false) (hx : d.xtmOk = false) :
    d.xtmOkSet = (if d.clocksBack.modOn then d.clocksBack.goReleased else d.clocksBack).linkOff := by
  rw [Dev.xtmOkSet, hup, hx, if_neg (by decide)]
  rfl

theorem isMaster_verified : d.verified.isMaster = d.isMaster := by
  obtain ⟨x, h⟩ := d.verified_shape
  rw [h]
  rfl

theorem modOn_clocksBack (hm : d.isMaster = true) : d.clocksBack.modOn = true := by
  change (d.verified.isMaster || _) = true
  rw [isMaster_verified, hm, Bool.true_or]

/-- On the chain's master MOD runs, and a held GO is released (R125). -/
theorem xtmOkSet_of_master (hup : d.held = false) (hx : d.xtmOk = false) (hm : d.isMaster = true) :
    d.xtmOkSet = d.clocksBack.goReleased := by
  rw [xtmOkSet_eq d hup hx, if_pos (d.modOn_clocksBack hm)]
  exact linkOff_of_master (d.isMaster_verified.trans hm)

theorem freeRun_verified : d.verified.freeRun = d.freeRun := by
  obtain ⟨x, h⟩ := d.verified_shape
  rw [h]
  rfl

theorem reg_clocksBack {a : Nat} (h : a ≠ A.clkStat) : d.clocksBack.reg a = d.reg a := by
  change d.verified.reg a = _
  obtain ⟨x, hv⟩ := d.verified_shape
  rw [hv]
  exact Dev.reg_putBit_ne d h 8 true

theorem xtmOk_clocksBack : d.clocksBack.xtmOk = true := by
  change d.verified.xtmOk = _
  obtain ⟨x, hv⟩ := d.verified_shape
  rw [hv]
  exact (Dev.rb_putBit d _ (by omega) true 8).trans (if_pos rfl)

theorem cmPend_clocksBack : d.clocksBack.goReleased.cmPend = d.cmPend.filter (· != A.fltSync) := by
  change d.verified.cmPend.filter _ = _
  obtain ⟨x, hv⟩ := d.verified_shape
  rw [hv]
  rfl

theorem chan_clocksBack {k : Nat} (h : k < 18) :
    d.clocksBack.chan k = if d.chanOn k then (d.chan k).restart (d.chCfg k).settle else d.chan k := by
  have hcfg : (d.putBit A.clkStat 8 true).chCfg k = d.chCfg k := by
    have hreg : (d.putBit A.clkStat 8 true).reg (A.cnvRLxJob (k - 16)) = d.reg (A.cnvRLxJob (k - 16)) :=
      Dev.reg_putBit_ne d (by unfold A.cnvRLxJob A.clkStat; omega) 8 true
    simp only [Dev.chCfg, Dev.rlJob, Dev.rb, hreg]
    rfl
  have hon : (d.putBit A.clkStat 8 true).chanOn k = d.chanOn k :=
    congrArg (fun w => d.fuses.chan k && bit w (bankDom k)) (Dev.reg_putBit_ne d (by decide) 8 true)
  change d.verified.chan k = _
  rw [verified, chan_chansRestarted _ h, hcfg, hon]
  rfl

end Dev

theorem xtmokSet_effect {s : State} (h : s.chip.dev.held = false) :
    (s.chip.dev.xtmOk = true → exec .xtmokSet s = .next s) ∧
    (s.chip.dev.xtmOk = false → s.chip.dev.isMaster = true → ∃ t, exec .xtmokSet s = .next t ∧ t.chip.dev.xtmOk = true ∧
      t.chip.dev.modOn = true ∧ t.chip.dev.cmPend = s.chip.dev.cmPend.filter (· != A.fltSync) ∧
      t.chip.dev.fll = { Fll.zero with
        tick0 := s.chip.dev.now, due := s.chip.dev.now + nominalLen s.chip.dev.nom60, cycLen := s.chip.dev.fll.cycLen,
        period := nominalLen s.chip.dev.nom60 } ∧
      (∀ k : Fin 18, t.chip.dev.chan k.val = if s.chip.dev.chanOn k.val then
        (s.chip.dev.chan k.val).restart (s.chip.dev.chCfg k.val).settle else s.chip.dev.chan k.val) ∧
      (∀ a, a ≠ A.clkStat → t.chip.dev.reg a = s.chip.dev.reg a) ∧ t.chip.nvm = s.chip.nvm) := by
  have hexec : exec .xtmokSet s = .next (s.to s.chip.dev.xtmOkSet) := State.device_of_up h _
  refine ⟨fun hx => ?_, fun hx hm => ⟨_, hexec, ?_⟩⟩
  · rw [hexec, Dev.xtmOkSet, hx, Bool.or_true, if_pos rfl]
    rfl
  · rw [State.to_dev, State.to_nvm, Dev.xtmOkSet_of_master _ h hx hm]
    exact ⟨Dev.xtmOk_clocksBack _, Dev.modOn_clocksBack _ hm, Dev.cmPend_clocksBack _, s.chip.dev.freeRun_verified, fun k => Dev.chan_clocksBack _ k.isLt,
      fun a ha => Dev.reg_clocksBack _ ha, rfl⟩

/-- Settles O48, clause by clause: the pins, the watchdog, a domain reset refused and accepted, the supplies, XTM lost and verified. That
a watchdog reset drops waiting replies and notices is log entry 37. -/
theorem watchdogAndClockFailure : Obligations.WatchdogAndClockFailure := by
  unfold Obligations.WatchdogAndClockFailure
  exact ⟨fun d pin => d.irqLevel_cases pin.val, irqLine_low_iff, fun s h => watchdogReset_effect h,
    fun s m dom hl h => ⟨domainReset_refused hl h, domainReset_restarts hl h⟩, lowSupply_effect, fun s h => xtmFail_effect h,
    fun s h => xtmokSet_effect h⟩

end Sys2Proof.Machine
end

section
/-! The power commands and the steps they take (R471-R473). -/
namespace Sys2Proof.Machine

/-! ## The causes of R471, in their order -/

namespace Dev
variable (d : Dev)

/-- Whether a command names a domain that is not there, and one that is never switched. -/
def namesAbsent (dom : BitVec 8) : Prop := ∃ n < 8, dom.getLsbD n = true ∧ d.fuses.dom n = false
def namesFixed (dom : BitVec 8) : Prop := dom.getLsbD 0 = true ∨ dom.getLsbD 1 = true

/-- ON without CK2 XTM, OFF against a relief unit, OFF of a domain in use. -/
def lacksClock (on : Bool) (dom : BitVec 8) : Prop := on = true ∧ d.xtmOk = false ∧ ∃ n < 7, 2 ≤ n ∧ dom.getLsbD n = true
def meetsRelief (on : Bool) (dom : BitVec 8) : Prop := on = false ∧ d.reliefHolds dom.toNat = true
def meetsUse (on : Bool) (dom : BitVec 8) : Prop :=
  on = false ∧ ((dom.getLsbD 6 = true ∧ (d.rb A.plcStat 10 = true ∨ d.classHeld 3 = true)) ∨ (dom.getLsbD 7 = true ∧ d.classHeld 4 = true))

variable {d} {dom : BitVec 8} {on : Bool}

theorem any_absent_iff : ((List.range 8).any fun n => dom.toNat.testBit n && !d.fuses.dom n) = true ↔ d.namesAbsent dom := by
  simp [namesAbsent, BitVec.getLsbD]

theorem domRefuses_absent (h : d.namesAbsent dom) : d.domRefuses dom.toNat = some 1 := if_pos (any_absent_iff.2 h)

theorem domRefuses_fixed (h : ¬d.namesAbsent dom) (hf : namesFixed dom) : d.domRefuses dom.toNat = some 2 := by
  rw [Dev.domRefuses, if_neg (mt any_absent_iff.1 h), if_pos (by simpa [namesFixed, BitVec.getLsbD] using hf)]

theorem domRefuses_none (h : ¬d.namesAbsent dom) (hf : ¬namesFixed dom) : d.domRefuses dom.toNat = none := by
  rw [Dev.domRefuses, if_neg (mt any_absent_iff.1 h), if_neg (by simpa [namesFixed, BitVec.getLsbD] using hf)]

/-- The causes that depend on whether domains go on or off. -/
def switchRefuses (d : Dev) (on : Bool) (dom : BitVec 8) : Option Nat :=
  if on then (if !d.xtmOk && (List.range 7).any fun n => 2 ≤ n && dom.toNat.testBit n then some 4 else none) else d.offRefuses dom.toNat

theorem pwrRefuses_switch (d : Dev) (on : Bool) (dom : BitVec 8) (v : Nat) : d.pwrRefuses (if on then 1 else 2) v dom.toNat =
    ((d.domRefuses dom.toNat).or (if d.pwr.isSome then some 3 else none)).or (d.switchRefuses on dom) := by
  cases on <;> rfl

theorem clock_cond_iff : (!d.xtmOk && (List.range 7).any fun n => 2 ≤ n && dom.toNat.testBit n) = true ↔ d.lacksClock true dom := by
  simp [lacksClock, BitVec.getLsbD]

theorem switchRefuses_clock (h : d.lacksClock on dom) : d.switchRefuses on dom = some 4 := by
  obtain rfl : on = true := h.1
  exact if_pos (clock_cond_iff.2 h)

theorem switchRefuses_relief (h : d.meetsRelief on dom) : d.switchRefuses on dom = some 5 := by
  obtain ⟨rfl, hr⟩ := h
  exact if_pos hr

theorem use_cond_iff : ((dom.toNat.testBit 6 && (d.rb A.plcStat 10 || d.classHeld 3)) || (dom.toNat.testBit 7 && d.classHeld 4)) = true ↔
    d.meetsUse false dom := by
  simp [meetsUse, BitVec.getLsbD]

theorem switchRefuses_use (hr : ¬d.meetsRelief on dom) (h : d.meetsUse on dom) : d.switchRefuses on dom = some 6 := by
  obtain rfl : on = false := h.1
  exact (if_neg fun hrel => hr ⟨rfl, hrel⟩).trans (if_pos (use_cond_iff.2 h))

theorem switchRefuses_none (hc : ¬d.lacksClock on dom) (hr : ¬d.meetsRelief on dom) (hu : ¬d.meetsUse on dom) :
    d.switchRefuses on dom = none := by
  cases on with
  | true => exact if_neg (mt clock_cond_iff.1 hc)
  | false => exact (if_neg fun hrel => hr ⟨rfl, hrel⟩).trans (if_neg (mt use_cond_iff.1 hu))

theorem pwrRefuses_of_named {c : Nat} (h : d.domRefuses dom.toNat = some c) (v : Nat) :
    d.pwrRefuses (if on then 1 else 2) v dom.toNat = some c := by
  rw [pwrRefuses_switch, h]; rfl

theorem pwrRefuses_of_busy (h : d.domRefuses dom.toNat = none) (hb : d.pwr ≠ none) (v : Nat) :
    d.pwrRefuses (if on then 1 else 2) v dom.toNat = some 3 := by
  rw [pwrRefuses_switch, h, if_pos (Option.isSome_iff_ne_none.2 hb)]; rfl

theorem pwrRefuses_of_idle (h : d.domRefuses dom.toNat = none) (hb : d.pwr = none) (v : Nat) :
    d.pwrRefuses (if on then 1 else 2) v dom.toNat = d.switchRefuses on dom := by
  rw [pwrRefuses_switch, h, hb]; rfl

/-! ## What a command does (R472, R473) -/

theorem pwrTry_refused {op v x c : Nat} (h : d.pwrRefuses op v x = some c) : d.pwrTry op v x = (some c, d.pwrRefused c) := by
  simp only [Dev.pwrTry, h]
  rfl

/-- The domains that a command switches (R472). -/
def pwrChanges (d : Dev) (on : Bool) (dom : BitVec 8) : List (Fin 8) :=
  ([2, 3, 4, 5, 6, 7] : List (Fin 8)).filter fun n => dom.getLsbD n.val && d.on n.val != on

theorem on_busy (d : Dev) (i : Nat) (b : Bool) (n : Nat) : (d.putBit A.pwrStat i b).on n = d.on n :=
  congrArg (bit · n) (Dev.reg_putBit_ne d (by decide) i b)

theorem pwrSteps_busy (d : Dev) (on : Bool) (dom : BitVec 8) : (d.putBit A.pwrStat 8 true).pwrSteps on dom.toNat =
    (if on then d.pwrChanges on dom else (d.pwrChanges on dom).reverse).map fun n => (n, on) := by
  simp only [Dev.pwrSteps, on_busy]
  rfl

theorem pwrTry_switch {v : Nat} (h : d.pwrRefuses (if on then 1 else 2) v dom.toNat = none) :
    d.pwrTry (if on then 1 else 2) v dom.toNat = (none,
      if d.pwrChanges on dom = [] then (d.putBit A.pwrStat 8 true).pwrFinish
      else { d.putBit A.pwrStat 8 true with
        pwr := some { steps := (if on then d.pwrChanges on dom else (d.pwrChanges on dom).reverse).map fun n => (n, on), vcore := none } }) := by
  have hop : ¬(if on then 1 else 2) = 3 := by cases on <;> decide
  have hon : ((if on then 1 else 2) == 1) = on := by cases on <;> rfl
  have hnil : ((if on then d.pwrChanges on dom else (d.pwrChanges on dom).reverse).map fun n => (n, on)).isEmpty = true ↔
      d.pwrChanges on dom = [] := by cases on <;> simp
  simp only [Dev.pwrTry, h, if_neg hop, hon, pwrSteps_busy, hnil]

theorem pwrRefuses_vcore_busy (h : d.pwr ≠ none) (v x : Nat) : d.pwrRefuses 3 v x = some 3 := by
  simp [Dev.pwrRefuses, Option.isSome_iff_ne_none.2 h]

theorem pwrRefuses_vcore_idle (h : d.pwr = none) (v x : Nat) : d.pwrRefuses 3 v x =
    if v < d.rf A.pwrVcore 4 0 && !d.allFit d.framePreset (boundB v) then some 7 else none := by
  simp [Dev.pwrRefuses, h]

/-- The device once VCORE has taken VCODE v over: the supply is to settle (R473). -/
def vcoreTaken (d : Dev) (v : BitVec 5) : Dev :=
  { ((d.putBit A.pwrStat 8 true).putFld A.pwrVcore 4 0 v.toNat).putBit A.pwrVcore 8 false with
    pwr := some { steps := [], vcore := some v }, vBound := if v.toNat < d.rf A.pwrVcore 4 0 then v.toNat else d.vBound }

theorem pwrTry_vcore {v : BitVec 5} {x : Nat} (h : d.pwrRefuses 3 v.toNat x = none) (hv : v.toNat ≠ d.rf A.pwrVcore 4 0) :
    d.pwrTry 3 v.toNat x = (none, d.vcoreTaken v) := by
  have hold : (d.putBit A.pwrStat 8 true).rf A.pwrVcore 4 0 = d.rf A.pwrVcore 4 0 :=
    congrArg (fld · 4 0) (Dev.reg_putBit_ne d (by decide) 8 true)
  have hof : BitVec.ofNat 5 v.toNat = v := by simp
  simp only [Dev.pwrTry, h, hold, if_neg hv, hof]
  rfl

theorem reg_vcoreTaken (d : Dev) (v : BitVec 5) : (d.vcoreTaken v).reg A.pwrVcore =
    setFld (setFld (d.reg A.pwrVcore) 4 0 v.toNat) 8 8 0 := by
  change ((((d.putBit A.pwrStat 8 true).putFld A.pwrVcore 4 0 v.toNat).putBit A.pwrVcore 8 false).reg A.pwrVcore) = _
  rw [Dev.putBit, Dev.putFld, Dev.reg_setReg_self, Dev.putFld, Dev.reg_setReg_self, Dev.reg_putBit_ne _ (by decide)]
  rfl

theorem vcode_vcoreTaken (d : Dev) (v : BitVec 5) : (d.vcoreTaken v).rf A.pwrVcore 4 0 = v.toNat := by
  rw [Dev.rf, reg_vcoreTaken, fld_setFld_disjoint _ _ (by omega) (by omega), fld_setFld_self _ _ (by omega)]
  exact Nat.mod_eq_of_lt v.isLt

theorem settled_vcoreTaken (d : Dev) (v : BitVec 5) : (d.vcoreTaken v).rb A.pwrVcore 8 = false := by
  rw [Dev.rb, reg_vcoreTaken, bit_setFld _ _ _ (by omega), if_pos (by omega)]
  rfl

theorem busy_vcoreTaken (d : Dev) (v : BitVec 5) : (d.vcoreTaken v).rb A.pwrStat 8 = true := by
  change ((((d.putBit A.pwrStat 8 true).putFld A.pwrVcore 4 0 v.toNat).putBit A.pwrVcore 8 false).rb A.pwrStat 8) = _
  rw [Dev.rb, Dev.reg_putBit_ne _ (by decide), Dev.reg_putFld_ne _ (by decide)]
  exact (Dev.rb_putBit d _ (by omega) true 8).trans (if_pos rfl)

end Dev

/-! ## PWR_CMD through the fabric (R470) -/

/-- An accepted write of PWR_CMD with GO carries out its command. -/
theorem exec_pwrCmd {s : State} {m : Master} {f : Word → Word} (hl : s.lets m A.pwrCmd f) (hgo : bit (f (s.chip.dev.plain A.pwrCmd)) 31 = true) :
    s.order m A.pwrCmd f = .next (s.took m A.pwrCmd f fun d => d.pwrCommand (f (s.chip.dev.plain A.pwrCmd))) := by
  obtain ⟨old, hw⟩ := State.order_of_lets hl (by decide) (by decide) (by decide) (by decide) (by decide) (by decide)
  rw [hw]
  refine congrArg (fun c => Host.Outcome.next (s.done c)) ?_
  exact if_pos hgo

/-- Two effects that do the same to the device with the word's fields loaded leave the same state. -/
theorem State.took_congr {s : State} {m : Master} {a : Nat} {f : Word → Word} {g g' : Dev → Dev}
    (h : g (s.loaded m a f) = g' (s.loaded m a f)) : s.took m a f g = s.took m a f g' :=
  congrArg (fun d => s.done { s.loads m a f with dev := d }) h

/-- GO and OP of an order's word, below which a field is set. -/
theorem bit_go (op : Nat) (w : Word) {hi lo : Nat} (v : Nat) (h : hi < 28) : bit (setFld (goOp op w) hi lo v) 31 = true := by
  rw [bit_setFld _ _ _ (by omega), if_neg (by omega), goOp, bit_setFld _ _ _ (by omega), if_neg (by omega), setBit,
    bit_setFld _ _ _ (by omega), if_pos (by omega)]
  rfl

theorem fld_op {op : Nat} (hop : op < 8) (w : Word) {hi lo : Nat} (v : Nat) (h : hi < 28) : fld (setFld (goOp op w) hi lo v) 30 28 = op := by
  rw [fld_setFld_disjoint _ _ (by omega) (by omega), goOp, fld_setFld_self _ _ (by omega)]
  exact Nat.mod_eq_of_lt hop

/-! ## ON and OFF (R472) -/

/-- The word of ON or OFF with the domains it names. -/
def switchWord (on : Bool) (dom : BitVec 8) (w : Word) : Word := setFld (goOp (if on then 1 else 2) w) 7 0 dom.toNat

theorem pwrCommand_switch (d : Dev) (on : Bool) (dom : BitVec 8) (w : Word) : ∃ v,
    d.pwrCommand (switchWord on dom w) = (d.pwrTry (if on then 1 else 2) v dom.toNat).2 := by
  have hop : fld (switchWord on dom w) 30 28 = if on then 1 else 2 := fld_op (by cases on <;> decide) w _ (by omega)
  have hdom : fld (switchWord on dom w) 7 0 = dom.toNat := (fld_setFld_self _ _ (by omega)).trans (Nat.mod_eq_of_lt dom.isLt)
  exact ⟨_, by rw [Dev.pwrCommand, hop, hdom]⟩

section
variable {s : State} {m : Master} {on : Bool} {dom : BitVec 8}

theorem exec_switch (hl : s.lets m A.pwrCmd (switchWord on dom)) : exec (if on then .pwrOn m dom else .pwrOff m dom) s =
    .next (s.took m A.pwrCmd (switchWord on dom) fun d => d.pwrCommand (switchWord on dom (s.chip.dev.plain A.pwrCmd))) := by
  have hexec : exec (if on then .pwrOn m dom else .pwrOff m dom) s = s.order m A.pwrCmd (switchWord on dom) := by cases on <;> rfl
  exact hexec.trans (exec_pwrCmd hl (bit_go _ _ _ (by omega)))

/-- A refused ON or OFF does nothing but say so. -/
theorem exec_switch_refused (hl : s.lets m A.pwrCmd (switchWord on dom)) {c : Nat}
    (hc : ∀ v, (s.loaded m A.pwrCmd (switchWord on dom)).pwrRefuses (if on then 1 else 2) v dom.toNat = some c) :
    exec (if on then .pwrOn m dom else .pwrOff m dom) s = .next (s.took m A.pwrCmd (switchWord on dom) fun d => d.pwrRefused c) := by
  obtain ⟨v, hv⟩ := pwrCommand_switch (s.loaded m A.pwrCmd (switchWord on dom)) on dom (s.chip.dev.plain A.pwrCmd)
  rw [exec_switch hl]
  exact congrArg _ (State.took_congr (hv.trans (by rw [Dev.pwrTry_refused (hc v)])))

/-- An accepted ON or OFF that changes nothing is done at once (log entry 37). -/
theorem exec_switch_done (hl : s.lets m A.pwrCmd (switchWord on dom))
    (hc : ∀ v, (s.loaded m A.pwrCmd (switchWord on dom)).pwrRefuses (if on then 1 else 2) v dom.toNat = none)
    (hn : (s.loaded m A.pwrCmd (switchWord on dom)).pwrChanges on dom = []) :
    exec (if on then .pwrOn m dom else .pwrOff m dom) s =
      .next (s.took m A.pwrCmd (switchWord on dom) fun d => (d.putBit A.pwrStat 8 true).pwrFinish) := by
  obtain ⟨v, hv⟩ := pwrCommand_switch (s.loaded m A.pwrCmd (switchWord on dom)) on dom (s.chip.dev.plain A.pwrCmd)
  rw [exec_switch hl]
  exact congrArg _ (State.took_congr (hv.trans (by rw [Dev.pwrTry_switch (hc v), if_pos hn])))

/-- An accepted ON or OFF that changes domains takes its steps (R472). -/
theorem exec_switch_starts (hl : s.lets m A.pwrCmd (switchWord on dom))
    (hc : ∀ v, (s.loaded m A.pwrCmd (switchWord on dom)).pwrRefuses (if on then 1 else 2) v dom.toNat = none)
    (hn : (s.loaded m A.pwrCmd (switchWord on dom)).pwrChanges on dom ≠ []) :
    let changes := (s.loaded m A.pwrCmd (switchWord on dom)).pwrChanges on dom
    exec (if on then .pwrOn m dom else .pwrOff m dom) s =
      .next (s.took m A.pwrCmd (switchWord on dom) fun d => { d.putBit A.pwrStat 8 true with
        pwr := some { steps := (if on then changes else changes.reverse).map fun n => (n, on), vcore := none } }) := by
  obtain ⟨v, hv⟩ := pwrCommand_switch (s.loaded m A.pwrCmd (switchWord on dom)) on dom (s.chip.dev.plain A.pwrCmd)
  rw [exec_switch hl]
  exact congrArg _ (State.took_congr (hv.trans (by rw [Dev.pwrTry_switch (hc v), if_neg hn])))
end

/-! ## VCORE (R473) -/

/-- The word of VCORE. -/
def vcoreWord (v : BitVec 5) (w : Word) : Word := setFld (goOp 3 w) 20 16 v.toNat

theorem pwrCommand_vcore (d : Dev) (v : BitVec 5) (w : Word) : ∃ x, d.pwrCommand (vcoreWord v w) = (d.pwrTry 3 v.toNat x).2 := by
  have hop : fld (vcoreWord v w) 30 28 = 3 := fld_op (by decide) w _ (by omega)
  have hv : fld (vcoreWord v w) 20 16 = v.toNat := (fld_setFld_self _ _ (by omega)).trans (Nat.mod_eq_of_lt v.isLt)
  exact ⟨_, by rw [Dev.pwrCommand, hop, hv]⟩

section
variable {s : State} {m : Master} {v : BitVec 5}

theorem exec_vcore (hl : s.lets m A.pwrCmd (vcoreWord v)) : exec (.pwrVcore m v) s =
    .next (s.took m A.pwrCmd (vcoreWord v) fun d => d.pwrCommand (vcoreWord v (s.chip.dev.plain A.pwrCmd))) := by
  have hexec : exec (.pwrVcore m v) s = s.order m A.pwrCmd (vcoreWord v) := rfl
  exact hexec.trans (exec_pwrCmd hl (bit_go _ _ _ (by omega)))

/-- A refused VCORE does nothing but say so. -/
theorem exec_vcore_refused (hl : s.lets m A.pwrCmd (vcoreWord v)) {c : Nat}
    (hc : ∀ x, (s.loaded m A.pwrCmd (vcoreWord v)).pwrRefuses 3 v.toNat x = some c) :
    exec (.pwrVcore m v) s = .next (s.took m A.pwrCmd (vcoreWord v) fun d => d.pwrRefused c) := by
  obtain ⟨x, hx⟩ := pwrCommand_vcore (s.loaded m A.pwrCmd (vcoreWord v)) v (s.chip.dev.plain A.pwrCmd)
  rw [exec_vcore hl]
  exact congrArg _ (State.took_congr (hx.trans (by rw [Dev.pwrTry_refused (hc x)])))

/-- An accepted VCORE with another VCODE takes it over. -/
theorem exec_vcore_taken (hl : s.lets m A.pwrCmd (vcoreWord v))
    (hc : ∀ x, (s.loaded m A.pwrCmd (vcoreWord v)).pwrRefuses 3 v.toNat x = none)
    (hv : v.toNat ≠ (s.loaded m A.pwrCmd (vcoreWord v)).rf A.pwrVcore 4 0) :
    exec (.pwrVcore m v) s = .next (s.took m A.pwrCmd (vcoreWord v) fun d => d.vcoreTaken v) := by
  obtain ⟨x, hx⟩ := pwrCommand_vcore (s.loaded m A.pwrCmd (vcoreWord v)) v (s.chip.dev.plain A.pwrCmd)
  rw [exec_vcore hl]
  exact congrArg _ (State.took_congr (hx.trans (by rw [Dev.pwrTry_vcore (hc x) hv])))
end

/-- VCORE: the refusals in their order, or the new VCODE (R471, R473). -/
theorem vcore_effect (s : State) (m : Master) (v : BitVec 5) :
    let d := s.loaded m A.pwrCmd (vcoreWord v)
    let old := d.rf A.pwrVcore 4 0
    let admits := v.toNat < old → d.allFit d.framePreset (boundB v.toNat) = true
    s.lets m A.pwrCmd (vcoreWord v) →
      (d.pwr ≠ none → exec (.pwrVcore m v) s = .next (s.took m A.pwrCmd (vcoreWord v) fun d => d.pwrRefused 3)) ∧
      (d.pwr = none → ¬admits → exec (.pwrVcore m v) s = .next (s.took m A.pwrCmd (vcoreWord v) fun d => d.pwrRefused 7)) ∧
      (d.pwr = none → admits → v.toNat ≠ old → ∃ t, exec (.pwrVcore m v) s = .next t ∧ t.chip.dev.rf A.pwrVcore 4 0 = v.toNat ∧
        t.chip.dev.rb A.pwrVcore 8 = false ∧ t.chip.dev.rb A.pwrStat 8 = true ∧
        t.chip.dev.pwr = some { steps := [], vcore := some v } ∧ t.chip.dev.vBound = (if v.toNat < old then v.toNat else d.vBound)) := by
  intro d old admits hl
  have hfit : (decide (v.toNat < old) && !d.allFit d.framePreset (boundB v.toNat)) = true ↔ ¬admits := by
    simp [admits]
  refine ⟨fun hb => exec_vcore_refused hl (Dev.pwrRefuses_vcore_busy hb _), fun hb ha => ?_, fun hb ha hv => ?_⟩
  · exact exec_vcore_refused hl fun x => (Dev.pwrRefuses_vcore_idle hb _ x).trans (if_pos (hfit.2 ha))
  · have hc : ∀ x, d.pwrRefuses 3 v.toNat x = none := fun x =>
      (Dev.pwrRefuses_vcore_idle hb _ x).trans (if_neg fun h => hfit.1 h ha)
    refine ⟨_, exec_vcore_taken hl hc hv, ?_⟩
    rw [State.took, State.done_dev, Chip.onDev_dev]
    exact ⟨Dev.vcode_vcoreTaken _ v, Dev.settled_vcoreTaken _ v, Dev.busy_vcoreTaken _ v, rfl, rfl⟩

/-- ON and OFF: the refusals in their order, or the steps (R471, R472). -/
theorem switch_effect (s : State) (m : Master) (on : Bool) (dom : BitVec 8) :
    let d := s.loaded m A.pwrCmd (switchWord on dom)
    let i : Instr := if on then .pwrOn m dom else .pwrOff m dom
    let refused := fun c => exec i s = .next (s.took m A.pwrCmd (switchWord on dom) fun d => d.pwrRefused c)
    let changes := d.pwrChanges on dom
    s.lets m A.pwrCmd (switchWord on dom) →
      (d.namesAbsent dom → refused 1) ∧ (¬d.namesAbsent dom → Dev.namesFixed dom → refused 2) ∧
      (¬d.namesAbsent dom → ¬Dev.namesFixed dom → d.pwr ≠ none → refused 3) ∧
      (¬d.namesAbsent dom → ¬Dev.namesFixed dom → d.pwr = none → d.lacksClock on dom → refused 4) ∧
      (¬d.namesAbsent dom → ¬Dev.namesFixed dom → d.pwr = none → d.meetsRelief on dom → refused 5) ∧
      (¬d.namesAbsent dom → ¬Dev.namesFixed dom → d.pwr = none → ¬d.meetsRelief on dom → d.meetsUse on dom → refused 6) ∧
      (¬d.namesAbsent dom → ¬Dev.namesFixed dom → d.pwr = none → ¬d.lacksClock on dom → ¬d.meetsRelief on dom → ¬d.meetsUse on dom →
        (changes = [] → exec i s = .next (s.took m A.pwrCmd (switchWord on dom) fun d => (d.putBit A.pwrStat 8 true).pwrFinish)) ∧
        (changes ≠ [] → exec i s = .next (s.took m A.pwrCmd (switchWord on dom) fun d => { d.putBit A.pwrStat 8 true with
          pwr := some { steps := (if on then changes else changes.reverse).map fun n => (n, on), vcore := none } }))) := by
  intro d i refused changes hl
  have named {c : Nat} (h : d.domRefuses dom.toNat = some c) : refused c := exec_switch_refused hl (Dev.pwrRefuses_of_named h)
  have idle (ha : ¬d.namesAbsent dom) (hf : ¬Dev.namesFixed dom) (hb : d.pwr = none) :=
    Dev.pwrRefuses_of_idle (on := on) (Dev.domRefuses_none ha hf) hb
  refine ⟨fun ha => named (Dev.domRefuses_absent ha), fun ha hf => named (Dev.domRefuses_fixed ha hf), fun ha hf hb => ?busy,
    fun ha hf hb hc => ?clock, fun ha hf hb hr => ?relief, fun ha hf hb hr hu => ?inUse, fun ha hf hb hc hr hu => ?accepted⟩
  case busy => exact exec_switch_refused hl (Dev.pwrRefuses_of_busy (Dev.domRefuses_none ha hf) hb)
  case clock => exact exec_switch_refused hl fun v => (idle ha hf hb v).trans (Dev.switchRefuses_clock hc)
  case relief => exact exec_switch_refused hl fun v => (idle ha hf hb v).trans (Dev.switchRefuses_relief hr)
  case inUse => exact exec_switch_refused hl fun v => (idle ha hf hb v).trans (Dev.switchRefuses_use hr hu)
  case accepted =>
    have hnone := fun v => (idle ha hf hb v).trans (Dev.switchRefuses_none hc hr hu)
    exact ⟨exec_switch_done hl hnone, exec_switch_starts hl hnone⟩

end Sys2Proof.Machine
end

section
/-! The steps of a power command, and the power commands of a profile (R472, R473, R475). -/
namespace Sys2Proof.Machine

namespace Dev
variable (d : Dev)

/-! ## A domain switches (R472) -/

theorem restartScan_within {lo hi : Nat} : SameOutside lo hi d d.restartScan :=
  ⟨rfl, rfl, rfl, fun _ _ => rfl, fun _ => rfl, fun _ => rfl, fun _ => rfl⟩

theorem mbStale_within (off : Nat → Bool) : SameOutside 0xF0000 0x100000 d (d.mbStale off) := by
  have hmb (n : Nat) (x : Mbox) (e : Dev) : SameOutside 0xF0000 0x100000 e (e.setMb n x) :=
    ⟨rfl, rfl, rfl, fun _ _ => rfl, fun _ => rfl, fun h => absurd h (by unfold Outside; omega), fun _ => rfl⟩
  exact (SameOutside.foldl (fun n _ e => hmb n _ e) d).trans (.raiseIf (by decide) _ _)

/-- A domain's state goes, the mailboxes of PD5 ESC's engines marked first (R400). -/
def domLost (d : Dev) (n : Nat) : Dev :=
  (if n = 5 then d.restartScan.mbStale fun rx => (d.restartScan.rxEngine rx).isSome else d.restartScan).domDown n

theorem domLost_within (n : Nat) : SameOutside 0x40000 0x140000 d (d.domLost n) := by
  refine SameOutside.trans ?_ (domDown_within _ n)
  split
  · exact d.restartScan_within.trans ((mbStale_within _ _).widen (by omega) (by omega))
  · exact d.restartScan_within

theorem domSwitch_on (n : Nat) : d.domSwitch n true = (d.restartScan.putBit A.pwrDom n true).domUp n := rfl
theorem domSwitch_off (n : Nat) : d.domSwitch n false = (d.domLost n).putBit A.pwrDom n false := rfl

/-- A switch leaves the command and the supervisor, and of the registers below the banks' only PWR_DOM changes: in the domain's bit. -/
theorem domSwitch_keeps (n : Nat) (on : Bool) : (d.domSwitch n on).pwr = d.pwr ∧ (d.domSwitch n on).sup = d.sup ∧
    ∀ a < 0x40000, (d.domSwitch n on).reg a = (d.putBit A.pwrDom n on).reg a := by
  cases on with
  | true =>
    have h := domUp_within (d.restartScan.putBit A.pwrDom n true) n
    rw [domSwitch_on]
    exact ⟨h.pwr, h.sup, fun a ha => h.reg a (.inl ha)⟩
  | false =>
    have h := d.domLost_within n
    rw [domSwitch_off]
    refine ⟨h.pwr, h.sup, fun a ha => ?_⟩
    by_cases hd : a = A.pwrDom
    · subst hd
      rw [Dev.putBit, Dev.putFld, Dev.reg_setReg_self, Dev.putBit, Dev.putFld, Dev.reg_setReg_self, h.reg _ (.inl ha)]
    · rw [Dev.reg_putBit_ne _ hd, Dev.reg_putBit_ne _ hd, h.reg _ (.inl ha)]

theorem on_domSwitch {n : Nat} (hn : n < 32) (on : Bool) (k : Nat) : (d.domSwitch n on).on k = if n = k then on else d.on k := by
  obtain ⟨-, -, hreg⟩ := d.domSwitch_keeps n on
  exact (congrArg (bit · k) (hreg _ (by decide))).trans (Dev.rb_putBit d _ hn on k)

theorem pwrStat_domSwitch (n : Nat) (on : Bool) : (d.domSwitch n on).reg A.pwrStat = d.reg A.pwrStat := by
  obtain ⟨-, -, hreg⟩ := d.domSwitch_keeps n on
  exact (hreg _ (by decide)).trans (Dev.reg_putBit_ne d (by decide) n on)

/-! ## A command is done (R472) -/

theorem busy_pwrFinish : d.pwrFinish.rb A.pwrStat 8 = false := by
  rw [Dev.pwrFinish, Dev.rb_raiseSq _ _ _ _ (by omega), Dev.rb_putBit _ _ (by omega), if_pos rfl]
  decide

theorem done_pwrFinish : d.pwrFinish.rb A.pwrStat 0 = true := by
  rw [Dev.pwrFinish, Dev.rb_raiseSq _ _ _ _ (by omega), show Nat.testBit 0x1 0 = true by decide, Bool.or_true]

@[simp] theorem pwr_pwrFinish : d.pwrFinish.pwr = none := rfl
@[simp] theorem sup_pwrFinish : d.pwrFinish.sup = d.sup := rfl

theorem reg_pwrFinish {a : Nat} (h : a ≠ A.pwrStat) : d.pwrFinish.reg a = d.reg a :=
  (Dev.reg_raiseSq_ne _ h _).trans (Dev.reg_putBit_ne _ h _ _)

/-! ## The commands of a profile (R475) -/

/-- A power command that has been accepted and is to take steps, or to let the supply settle. -/
def pwrStarted (d : Dev) (p : PwrSeq) (bound : Nat) : Dev := { d with pwr := some p, vBound := bound }

/-- What a power command can do: it is refused, done at once, or started, VCORE with its VCODE loaded. -/
theorem pwrTry_cases (op v x : Nat) : let b := d.putBit A.pwrStat 8 true
    (∃ c, d.pwrTry op v x = (some c, d.pwrRefused c)) ∨ d.pwrTry op v x = (none, b.pwrFinish) ∨
    (∃ p n, d.pwrTry op v x = (none, ((b.putFld A.pwrVcore 4 0 v).putBit A.pwrVcore 8 false).pwrStarted p n)) ∨
    (∃ p, d.pwrTry op v x = (none, b.pwrStarted p b.vBound)) := by
  cases h : d.pwrRefuses op v x with
  | some c => exact .inl ⟨c, pwrTry_refused h⟩
  | none =>
    simp only [Dev.pwrTry, h]
    split
    · split
      · exact .inr (.inl rfl)
      · exact .inr (.inr (.inl ⟨_, _, rfl⟩))
    · split
      · exact .inr (.inl rfl)
      · exact .inr (.inr (.inr ⟨_, rfl⟩))

@[simp] theorem reg_pwrStarted (p : PwrSeq) (n a : Nat) : (d.pwrStarted p n).reg a = d.reg a := rfl

/-- No power command switches a domain before its steps. -/
theorem reg_pwrTry (op v x : Nat) {a : Nat} (hs : a ≠ A.pwrStat) (hv : a ≠ A.pwrVcore) : (d.pwrTry op v x).2.reg a = d.reg a := by
  have hbusy : (d.putBit A.pwrStat 8 true).reg a = d.reg a := Dev.reg_putBit_ne d hs 8 true
  obtain ⟨c, h⟩ | h | ⟨p, n, h⟩ | ⟨p, h⟩ := d.pwrTry_cases op v x <;> rw [h]
  · exact (Dev.reg_raiseSq_ne _ hs _).trans (Dev.reg_putFld_ne _ hs _ _ _)
  · exact (reg_pwrFinish _ hs).trans hbusy
  · rw [reg_pwrStarted, Dev.reg_putBit_ne _ hv, Dev.reg_putFld_ne _ hv, hbusy]
  · rw [reg_pwrStarted, hbusy]

@[simp] theorem reg_modSup (f : Sup → Sup) (a : Nat) : (d.modSup f).reg a = d.reg a := rfl
@[simp] theorem reg_answer (c : HeldCmd) (st : Nat) (l : List Word) (a : Nat) : (d.answer c st l).reg a = d.reg a := rfl

theorem profGo_idle {d : Dev} (h : d.sup.profStep = none) (fuel : Nat) : Dev.profGo fuel d = d := by
  cases fuel <;> simp [Dev.profGo, h]

theorem profGo_busy {d : Dev} (h : d.pwr.isSome = true) (fuel : Nat) : Dev.profGo fuel d = d := by
  cases fuel with
  | zero => rfl
  | succ fuel => rw [Dev.profGo]; split <;> simp [h]

/-- After its third power command a PROFRUN is answered with PWR_DOM. -/
theorem profGo_last {d : Dev} {cmd : HeldCmd} {dom : Nat} (h : d.sup.profStep = some (3, cmd, dom)) (hp : d.pwr = none) (fuel : Nat) :
    Dev.profGo (fuel + 1) d = (d.modSup fun s => { s with profStep := none }).answer cmd 0 [d.pwrDomWord] := by
  simp [Dev.profGo, h, hp]

/-- Before it, the next power command follows, or its refusal is answered. -/
theorem profGo_next {d : Dev} {st : Nat} {cmd : HeldCmd} {dom : Nat} (h : d.sup.profStep = some (st, cmd, dom)) (hp : d.pwr = none)
    (hst : st < 3) (fuel : Nat) : ∃ x, Dev.profGo (fuel + 1) d = match d.pwrTry st 0 x with
      | (some c, d) => (d.modSup fun s => { s with profStep := none }).answer cmd 4 [wd c]
      | (none, d) => Dev.profGo fuel (d.modSup fun s => { s with profStep := some (st + 1, cmd, dom) }) := by
  refine ⟨if st = 1 then dom else
    (List.range 8).foldl (fun (a n : Nat) => if 2 ≤ n && d.fuses.dom n && !dom.testBit n then a + 2 ^ n else a) 0, ?_⟩
  rw [Dev.profGo]
  simp only [h, hp, Option.isSome_none, Bool.false_eq_true, if_false, if_neg (Nat.not_le.2 hst)] <;> rfl

theorem reg_profGo {a : Nat} (hs : a ≠ A.pwrStat) (hv : a ≠ A.pwrVcore) (fuel : Nat) : ∀ d : Dev, (Dev.profGo fuel d).reg a = d.reg a := by
  induction fuel with
  | zero => exact fun _ => rfl
  | succ fuel ih =>
    intro d
    match hstep : d.sup.profStep, hpwr : d.pwr with
    | none, _ => rw [profGo_idle hstep]
    | some _, some _ => rw [profGo_busy (by simp [hpwr])]
    | some (st, cmd, dom), none =>
      by_cases hst : st < 3
      · obtain ⟨x, hx⟩ := profGo_next hstep hpwr hst fuel
        have htry := d.reg_pwrTry st 0 x hs hv
        rw [hx]
        split
        · next c e he => rw [he] at htry; exact htry
        · next e he => rw [he] at htry; exact (ih _).trans htry
      · simp [Dev.profGo, hstep, hpwr, Nat.not_lt.1 hst]

/-! ## One step (R472) -/

/-- The device once domain n has switched, with the steps left. -/
def stepped (d : Dev) (n : Nat) (on : Bool) (rest : List (Fin 8 × Bool)) (v : Option (BitVec 5)) : Dev :=
  ({ d with pwr := some { steps := rest, vcore := v } } : Dev).domSwitch n on

variable {d} in
theorem powerStep_eq {n : Fin 8} {on : Bool} {rest : List (Fin 8 × Bool)} {v : Option (BitVec 5)}
    (h : d.pwr = some { steps := (n, on) :: rest, vcore := v }) :
    d.powerStep = if rest.isEmpty then Dev.profGo 4 (d.stepped n on rest v).pwrFinish else d.stepped n on rest v := by
  simp only [Dev.powerStep, h]
  rfl

section
variable (n : Fin 8) (on : Bool) (rest : List (Fin 8 × Bool)) (v : Option (BitVec 5))

theorem on_stepped (k : Nat) : (d.stepped n on rest v).on k = if n.val = k then on else d.on k :=
  on_domSwitch _ (by omega) on k

theorem pwr_stepped : (d.stepped n on rest v).pwr = some { steps := rest, vcore := v } :=
  (domSwitch_keeps { d with pwr := some { steps := rest, vcore := v } } n.val on).1

theorem sup_stepped : (d.stepped n on rest v).sup = d.sup :=
  (domSwitch_keeps { d with pwr := some { steps := rest, vcore := v } } n.val on).2.1

theorem pwrStat_stepped : (d.stepped n on rest v).reg A.pwrStat = d.reg A.pwrStat :=
  pwrStat_domSwitch { d with pwr := some { steps := rest, vcore := v } } n.val on
end

variable {d} in
/-- Whatever follows it, a step switches its domain and no other. -/
theorem on_powerStep {n : Fin 8} {on : Bool} {rest : List (Fin 8 × Bool)} {v : Option (BitVec 5)}
    (h : d.pwr = some { steps := (n, on) :: rest, vcore := v }) (k : Nat) : d.powerStep.on k = if n.val = k then on else d.on k := by
  rw [powerStep_eq h, ← on_stepped d n on rest v k]
  split
  · have hgo := reg_profGo (a := A.pwrDom) (by decide) (by decide) 4 (d.stepped n on rest v).pwrFinish
    exact congrArg (bit · k) (hgo.trans (reg_pwrFinish _ (by decide)))
  · rfl

end Dev

theorem powerStepDone_effect (s : State) (n : Fin 8) (on : Bool) (rest : List (Fin 8 × Bool)) (v : Option (BitVec 5))
    (hup : s.chip.dev.held = false) (h : s.chip.dev.pwr = some { steps := (n, on) :: rest, vcore := v }) :
    ∃ t, exec .powerStepDone s = .next t ∧
      t.chip.dev.on n.val = on ∧ (∀ k < 8, k ≠ n.val → t.chip.dev.on k = s.chip.dev.on k) ∧
      (rest ≠ [] → t.chip.dev.pwr = some { steps := rest, vcore := v } ∧ t.chip.dev.reg A.pwrStat = s.chip.dev.reg A.pwrStat) ∧
      (rest = [] → s.chip.dev.sup.profStep = none → t.chip.dev.pwr = none ∧ t.chip.dev.rb A.pwrStat 8 = false ∧
        t.chip.dev.rb A.pwrStat 0 = true) ∧
      (∀ cmd dom, rest = [] → s.chip.dev.sup.profStep = some (3, cmd, dom) → t.chip.dev.sup.profStep = none ∧
        t.chip.dev.sup.replies = s.chip.dev.sup.replies ++ [cmd.reply 0 [t.chip.dev.pwrDomWord]]) ∧
      t.chip.nvm = s.chip.nvm := by
  have hstep : exec .powerStepDone s = .next (s.to s.chip.dev.powerStep) := State.device_of_up hup _
  have hon := Dev.on_powerStep h
  have hsup : (s.chip.dev.stepped n on rest v).pwrFinish.sup = s.chip.dev.sup := Dev.sup_stepped ..
  refine ⟨_, hstep, ?_⟩
  rw [State.to_dev, State.to_nvm]
  refine ⟨(hon _).trans (if_pos rfl), fun k _ hk => (hon k).trans (if_neg hk.symm), fun hr => ?more, fun hr hp => ?last,
    fun cmd dom hr hp => ?reply, rfl⟩
  case more =>
    rw [Dev.powerStep_eq h, if_neg (by simp [hr])]
    exact ⟨Dev.pwr_stepped .., Dev.pwrStat_stepped ..⟩
  case last =>
    rw [Dev.powerStep_eq h, if_pos (by simp [hr]), Dev.profGo_idle (by rw [hsup, hp])]
    exact ⟨rfl, Dev.busy_pwrFinish _, Dev.done_pwrFinish _⟩
  case reply =>
    rw [Dev.powerStep_eq h, if_pos (by simp [hr]), Dev.profGo_last (by rw [hsup, hp]) rfl]
    have hreplies := congrArg (fun x : Sup => x.replies ++ [cmd.reply 0 [(s.chip.dev.stepped n on rest v).pwrFinish.pwrDomWord]]) hsup
    exact ⟨rfl, hreplies⟩

theorem vcoreSettled_effect (s : State) (v : BitVec 5) (hup : s.chip.dev.held = false)
    (h : s.chip.dev.pwr = some { steps := [], vcore := some v }) (hp : s.chip.dev.sup.profStep = none) :
    exec .vcoreSettled s =
      .next (s.to (({ s.chip.dev with vBound := v.toNat } : Dev).putBit A.pwrVcore 8 true).pwrFinish) := by
  have hstep : exec .vcoreSettled s = .next (s.to s.chip.dev.vcoreSettled) := State.device_of_up hup _
  have hdev : s.chip.dev.vcoreSettled =
      Dev.profGo 4 (({ s.chip.dev with vBound := v.toNat } : Dev).putBit A.pwrVcore 8 true).pwrFinish := by
    simp only [Dev.vcoreSettled, h]
  rw [hstep, hdev, Dev.profGo_idle (by exact hp)]

end Sys2Proof.Machine
end

section
/-! What a store of a system record leaves as it is: the supervisor, the other records and, where nothing else goes on in the store, the
array outside the record's page (R408, R415). -/
namespace Sys2Proof.Machine

/-! ## The profiles stay through every write of the array -/

namespace Nvm
variable (n : Nvm)

theorem profiles_putBytes (l : List Byte) : ∀ (n : Nvm) (a : Nat), (n.putBytes a l).profiles = n.profiles := by
  induction l with
  | nil => exact fun _ _ => rfl
  | cons b l ih => exact fun n a => ih _ _

theorem profiles_clearErr (ph k : Nat) : (n.clearErr ph k).profiles = n.profiles := by unfold Nvm.clearErr; split <;> rfl

theorem profiles_found (ph : Nat) (e : CwErrs) : (n.found ph e).profiles = n.profiles := by unfold Nvm.found; split <;> rfl

@[simp] theorem profiles_pulse : n.pulse.profiles = n.profiles := rfl
@[simp] theorem profiles_setErrs (ph : Nat) (e : CwErrs) : (n.setErrs ph e).profiles = n.profiles := rfl
@[simp] theorem profiles_setPage (ph : Nat) (x : PageState) : (n.setPage ph x).profiles = n.profiles := rfl

theorem profiles_settle (ph : Nat) (held : Bool) : (n.settle ph held).profiles = n.profiles := by
  unfold Nvm.settle
  dsimp only
  split
  · rfl
  · split
    · rfl
    · rw [profiles_setErrs, profiles_putBytes]

theorem profiles_closeCw (ph : Nat) : (n.closeCw ph).profiles = n.profiles := by
  rw [Nvm.closeCw, profiles_setPage, profiles_clearErr, profiles_pulse, profiles_setPage, profiles_clearErr, profiles_pulse,
    profiles_settle]

theorem profiles_closeOpen : n.closeOpen.profiles = n.profiles := by
  unfold Nvm.closeOpen
  split
  · rfl
  · exact profiles_closeCw _ _

theorem profiles_foldl {α : Type} {f : Nvm → α → Nvm} (h : ∀ n a, (f n a).profiles = n.profiles) (l : List α) :
    ∀ n : Nvm, (l.foldl f n).profiles = n.profiles := by
  induction l with
  | nil => exact fun _ => rfl
  | cons a l ih => exact fun n => (ih _).trans (h n a)

theorem profiles_putCw (ph k start : Nat) (l : List Byte) : (n.putCw ph k start l).profiles = n.profiles := by
  unfold Nvm.putCw
  dsimp only
  refine (profiles_putBytes _ _ _).trans ((profiles_clearErr _ _ _).trans ?_)
  split
  · rfl
  · exact profiles_putBytes _ _ _

theorem profiles_storeIn (ph off : Nat) (l : List Byte) : (n.storeIn ph off l).profiles = n.profiles :=
  profiles_foldl (fun _ _ => profiles_putCw _ _ _ _ _) _ n

end Nvm

/-- The supervisor and the stored profiles are the same. -/
structure Chip.SameProfiles (c c' : Chip) : Prop where
  sup : c'.dev.sup = c.dev.sup
  profiles : c'.nvm.profiles = c.nvm.profiles

namespace Chip
variable (c : Chip)

theorem SameProfiles.refl {c : Chip} : SameProfiles c c := ⟨rfl, rfl⟩

theorem SameProfiles.trans {c c' c'' : Chip} (h : SameProfiles c c') (h' : SameProfiles c' c'') : SameProfiles c c'' :=
  ⟨h'.sup.trans h.sup, h'.profiles.trans h.profiles⟩

theorem SameProfiles.onNvm {c : Chip} {f : Nvm → Nvm} (h : (f c.nvm).profiles = c.nvm.profiles) : SameProfiles c (c.onNvm f) := ⟨rfl, h⟩

theorem SameProfiles.foldl {α : Type} {f : Chip → α → Chip} (h : ∀ c a, SameProfiles c (f c a)) (l : List α) :
    ∀ c : Chip, SameProfiles c (l.foldl f c) := by
  induction l with
  | nil => exact fun _ => refl
  | cons a l ih => exact fun c => (h c a).trans (ih _)

theorem sup_raiseIf (d : Dev) (b : Bool) (a bits : Nat) : (d.raiseIf b a bits).sup = d.sup := by cases b <;> rfl

theorem sameProfiles_openCw (ph : Nat) : SameProfiles c (c.openCw ph) := by
  refine ⟨?_, (Nvm.profiles_clearErr _ _ _).trans ?_⟩
  · change (if _ then _ else _ : Dev).sup = _
    split <;> rfl
  · change (if _ then _ else _ : Nvm).profiles = _
    split
    · exact Nvm.profiles_settle _ _ _
    · rfl

theorem sameProfiles_openFor (p : Nat) : SameProfiles c (c.openFor p) := by
  unfold Chip.openFor
  split
  · exact .refl
  · exact (SameProfiles.onNvm (Nvm.profiles_closeOpen _)).trans ((sameProfiles_openCw _ _).trans (.onNvm rfl))

theorem sameProfiles_readPage (p : Nat) (e : CwErrs) (f : Nat → Bool) : SameProfiles c (c.readPage p e f).2 := by
  refine ⟨?_, Nvm.profiles_found _ _ _⟩
  change (Dev.pageCounts c.dev _ _ f).sup = _
  unfold Dev.pageCounts
  dsimp only
  refine (sup_raiseIf _ _ _ _).trans ((sup_raiseIf _ _ _ _).trans ?_)
  split <;> rfl

theorem sameProfiles_fillSpare (s : Nat) (l : List Byte) : SameProfiles c (c.fillSpare s l) :=
  (sameProfiles_openCw c _).trans (.onNvm ((Nvm.profiles_closeCw _ _).trans (Nvm.profiles_storeIn _ _ _ _)))

theorem sameProfiles_mapSpare (p s : Nat) : SameProfiles c (c.mapSpare p s) := ⟨rfl, rfl⟩

theorem sameProfiles_remapWait (p : Nat) : SameProfiles c (c.remapWait p) := by
  unfold Chip.remapWait Chip.remapFinish
  split
  · split
    · exact .refl
    · exact sameProfiles_mapSpare c _ _
  · exact .refl

theorem sameProfiles_rewritePage (ph : Nat) : SameProfiles c (c.rewritePage ph) := by
  refine (sameProfiles_openCw c ph).trans (.onNvm ((Nvm.profiles_closeCw _ _).trans (Nvm.profiles_foldl (fun n k => ?_) _ _)))
  split
  · rfl
  · exact Nvm.profiles_clearErr _ _ _

theorem sameProfiles_scrubPage (p : Nat) : SameProfiles c (c.scrubPage p) := by
  have hwait := sameProfiles_remapWait c p
  have hread := hwait.trans (sameProfiles_readPage _ p [] fun _ => false)
  unfold Chip.scrubPage
  dsimp only
  split
  · exact hwait
  · split
    · exact hread.trans (.onNvm rfl)
    · split
      · exact hread
      · split
        · exact (hread.trans (sameProfiles_rewritePage _ _)).trans (.onNvm rfl)
        · split
          · exact hread.trans ⟨rfl, rfl⟩
          · exact ((hread.trans (sameProfiles_fillSpare _ _ _)).trans (sameProfiles_mapSpare _ _ _)).trans (.onNvm rfl)

theorem sameProfiles_scrubTo (upto : Nat) : SameProfiles c (c.scrubTo upto) := by
  unfold Chip.scrubTo
  split
  · exact .refl
  · exact ((SameProfiles.onNvm (Nvm.profiles_closeOpen _)).trans (SameProfiles.foldl (fun _ _ => sameProfiles_scrubPage _ _) _ _)).trans
      (.onNvm rfl)

theorem sameProfiles_scrubMeet (p : Nat) : SameProfiles c (c.scrubMeet p) := by
  have hfree : SameProfiles c { c with dev := c.dev.free.2 } := ⟨rfl, rfl⟩
  unfold Chip.scrubMeet
  dsimp only
  split
  · exact .refl
  · split
    · exact hfree
    · exact hfree.trans ((SameProfiles.onNvm rfl).trans (sameProfiles_scrubTo _ _))
    · exact hfree.trans (sameProfiles_scrubTo _ _)

/-! ## A record's page opens, is written and closes (R408, R415) -/

/-- The chip with a record's page open for its write. -/
def sysOpened (c : Chip) (r : SysRec) : Chip := (((c.onNvm Nvm.closeOpen).remapWait r.page).scrubMeet r.page).openFor r.page

/-- The store with the pulses of a record's write begun and its page's bytes written. -/
def sysWritten (c : Chip) (r : SysRec) (torn : List (Stored → Stored)) : Nvm :=
  let n := (torn.foldl Nvm.pulseBy (c.sysOpened r).nvm).pulse
  n.putBytes (256 * n.phys r.page) ((List.range 256).map (Config.sysByte n.sysStores))

theorem sysStore_dev (r : SysRec) (torn : List (Stored → Stored)) (full : Stored → Stored) :
    (c.sysStore r torn full).dev = (c.sysOpened r).dev := rfl

theorem sysStore_nvm (r : SysRec) (torn : List (Stored → Stored)) (full : Stored → Stored) : ∃ k,
    (c.sysStore r torn full).nvm =
      ({ c.sysWritten r torn with toStored := full (c.sysWritten r torn).toStored, sysStores := k } : Nvm).closeOpen := ⟨_, rfl⟩

theorem sameProfiles_sysOpened (r : SysRec) : SameProfiles c (c.sysOpened r) :=
  (((SameProfiles.onNvm (Nvm.profiles_closeOpen _)).trans (sameProfiles_remapWait _ _)).trans (sameProfiles_scrubMeet _ _)).trans
    (sameProfiles_openFor _ _)

theorem profiles_sysWritten (r : SysRec) (torn : List (Stored → Stored)) : (c.sysWritten r torn).profiles = c.nvm.profiles :=
  (Nvm.profiles_putBytes _ _ _).trans ((Nvm.profiles_foldl (f := Nvm.pulseBy) (fun _ _ => rfl) torn _).trans (c.sameProfiles_sysOpened r).profiles)

/-- Storing a record leaves the supervisor; the profiles become what the record's own change makes of them. -/
theorem sup_sysStore (r : SysRec) (torn : List (Stored → Stored)) (full : Stored → Stored) :
    (c.sysStore r torn full).dev.sup = c.dev.sup := (c.sameProfiles_sysOpened r).sup

theorem profiles_sysStore (r : SysRec) (torn : List (Stored → Stored)) (full : Stored → Stored) :
    ∃ x : Stored, x.profiles = c.nvm.profiles ∧ (c.sysStore r torn full).nvm.profiles = (full x).profiles := by
  obtain ⟨k, hk⟩ := c.sysStore_nvm r torn full
  exact ⟨_, c.profiles_sysWritten r torn, by rw [hk, Nvm.profiles_closeOpen]⟩

end Chip

/-! ## Where every codeword reads clean and neither a remap nor a scrub goes on -/

/-- The bytes of the array, how its codewords read, the remap table and what goes on beside are the same. -/
structure Nvm.SameArray (n n' : Nvm) : Prop where
  mem : n'.mem = n.mem
  errs : n'.errs = n.errs
  remapNow : n'.remapNow = n.remapNow
  remapRun : n'.remapRun = n.remapRun
  scrubbing : n'.scrubbing = n.scrubbing

namespace Nvm
variable {n : Nvm}

theorem errs_putBytes (l : List Byte) : ∀ (n : Nvm) (a : Nat), (n.putBytes a l).errs = n.errs := by
  induction l with
  | nil => exact fun _ _ => rfl
  | cons b l ih => exact fun n a => ih _ _

theorem SameArray.trans {n n' n'' : Nvm} (h : SameArray n n') (h' : SameArray n' n'') : SameArray n n'' :=
  ⟨h'.mem.trans h.mem, h'.errs.trans h.errs, h'.remapNow.trans h.remapNow, h'.remapRun.trans h.remapRun, h'.scrubbing.trans h.scrubbing⟩

theorem SameArray.refl : SameArray n n := ⟨rfl, rfl, rfl, rfl, rfl⟩

theorem SameArray.phys {n n' : Nvm} (h : SameArray n n') (p : Nat) : n'.phys p = n.phys p := by rw [Nvm.phys, h.remapNow, Nvm.phys]

theorem SameArray.byteAt {n n' : Nvm} (h : SameArray n n') (a : Nat) : n'.byteAt a = n.byteAt a := by rw [Nvm.byteAt, h.mem, Nvm.byteAt]

theorem pageErrs_clean (h : n.errs = []) (ph : Nat) : n.pageErrs ph = [] := by rw [Nvm.pageErrs, h, SMap.get_nil]

theorem clearErr_clean (h : n.errs = []) (ph k : Nat) : n.clearErr ph k = n := by rw [Nvm.clearErr, pageErrs_clean h]; rfl

theorem settle_clean (h : n.errs = []) (ph : Nat) (held : Bool) : n.settle ph held = n := by rw [Nvm.settle, pageErrs_clean h]; rfl

theorem sameArray_setPage (n : Nvm) (ph : Nat) (x : PageState) : SameArray n (n.setPage ph x) := ⟨rfl, rfl, rfl, rfl, rfl⟩

theorem sameArray_pulse (n : Nvm) : SameArray n n.pulse := ⟨rfl, rfl, rfl, rfl, rfl⟩

theorem sameArray_closeCw (h : n.errs = []) (ph : Nat) : SameArray n (n.closeCw ph) := by
  have hclear {m : Nvm} (hm : SameArray n m) (k : Nat) : m.clearErr ph k = m := clearErr_clean (hm.errs.trans h) ph k
  have h1 := sameArray_pulse n
  have h2 := (h1.trans (sameArray_setPage n.pulse ph { n.pulse.page ph with check := pageCheck (n.pulse.pageBytes ph) })).trans
    (sameArray_pulse _)
  rw [Nvm.closeCw, settle_clean h]
  simp only [hclear h1, hclear h2]
  exact h2.trans (sameArray_setPage _ _ _)

theorem sameArray_closeOpen (h : n.errs = []) : SameArray n n.closeOpen := by
  unfold Nvm.closeOpen
  split
  · exact .refl
  · next p hp => exact (sameArray_closeCw h (n.phys p)).trans ⟨rfl, rfl, rfl, rfl, rfl⟩

end Nvm

namespace Chip
variable {c : Chip}

theorem sameArray_openCw (h : c.nvm.errs = []) (ph : Nat) : Nvm.SameArray c.nvm (c.openCw ph).nvm := by
  have hopen : (if tornBit (c.nvm.page ph).isOpen (c.nvm.pageErrs ph) then c.nvm.settle ph false else c.nvm) = c.nvm := by
    rw [Nvm.settle_clean h, ite_self]
  have hnvm : (c.openCw ph).nvm = (c.nvm.pulse).setPage ph { c.nvm.pulse.page ph with isOpen := true } := by
    simp only [Chip.openCw, hopen]
    rw [Nvm.clearErr_clean (by exact h)]
  rw [hnvm]
  exact (Nvm.sameArray_pulse _).trans (Nvm.sameArray_setPage _ _ _)

/-- Opening a page counts at most one TORN page (R421). -/
theorem reg_openCw (c : Chip) (ph : Nat) {a : Nat} (ha : a ≠ A.nvmTorncnt) : (c.openCw ph).dev.reg a = c.dev.reg a := by
  change (if _ then _ else _ : Dev).reg a = _
  split
  · exact Dev.reg_count_ne _ ha _ _ _
  · rfl

theorem sameArray_openFor (h : c.nvm.errs = []) (p : Nat) : Nvm.SameArray c.nvm (c.openFor p).nvm := by
  unfold Chip.openFor
  split
  · exact .refl
  · have hclose := Nvm.sameArray_closeOpen h
    exact (hclose.trans (sameArray_openCw (c := c.onNvm Nvm.closeOpen) (hclose.errs.trans h) _)).trans ⟨rfl, rfl, rfl, rfl, rfl⟩

theorem reg_openFor (c : Chip) (p : Nat) {a : Nat} (ha : a ≠ A.nvmTorncnt) : (c.openFor p).dev.reg a = c.dev.reg a := by
  unfold Chip.openFor
  split
  · rfl
  · exact reg_openCw _ _ ha

theorem remapWait_idle (h : c.nvm.remapRun = none) (p : Nat) : c.remapWait p = c := by rw [Chip.remapWait, h]; rfl

theorem scrubMeet_idle (h : c.nvm.scrubbing = false) (p : Nat) : c.scrubMeet p = c := by rw [Chip.scrubMeet, h]; rfl

/-- Nothing holds a record's write up: its page is opened at once. -/
theorem sysOpened_calm (hrun : c.nvm.remapRun = none) (hscrub : c.nvm.scrubbing = false) (h : c.nvm.errs = []) (r : SysRec) :
    c.sysOpened r = (c.onNvm Nvm.closeOpen).openFor r.page := by
  have hclose := Nvm.sameArray_closeOpen h
  rw [sysOpened, remapWait_idle (by exact hclose.remapRun.trans hrun), scrubMeet_idle (by exact hclose.scrubbing.trans hscrub)]

variable (r : SysRec) (torn : List (Stored → Stored)) {full : Stored → Stored}

theorem foldl_pulseBy (torn : List (Stored → Stored)) : ∀ n : Nvm, Nvm.SameArray n (torn.foldl Nvm.pulseBy n) := by
  induction torn with
  | nil => exact fun _ => .refl
  | cons f l ih =>
    intro n
    have hf : Nvm.SameArray n (n.pulseBy f) := ⟨rfl, rfl, rfl, rfl, rfl⟩
    exact hf.trans (ih _)

/-- Where nothing else goes on, storing a record writes no byte outside its page (R408). -/
theorem byteAt_sysStore_calm (hrun : c.nvm.remapRun = none) (hscrub : c.nvm.scrubbing = false) (h : c.nvm.errs = [])
    (hfull : ∀ x, (full x).mem = x.mem ∧ (full x).errs = x.errs) {a : Nat} (ha : a / 256 ≠ c.nvm.phys r.page) :
    (c.sysStore r torn full).nvm.byteAt a = c.nvm.byteAt a := by
  obtain ⟨k, hk⟩ := c.sysStore_nvm r torn full
  have hclose := Nvm.sameArray_closeOpen h
  have hopen : Nvm.SameArray c.nvm (c.sysOpened r).nvm := by
    rw [sysOpened_calm hrun hscrub h]
    exact hclose.trans (sameArray_openFor (c := c.onNvm Nvm.closeOpen) (hclose.errs.trans h) r.page)
  have hpulse := (hopen.trans (foldl_pulseBy torn _)).trans (Nvm.sameArray_pulse _)
  have herrs : ({ c.sysWritten r torn with toStored := full (c.sysWritten r torn).toStored, sysStores := k } : Nvm).errs = [] :=
    (hfull _).2.trans ((Nvm.errs_putBytes _ _ _).trans (hpulse.errs.trans h))
  have hmem : ({ c.sysWritten r torn with toStored := full (c.sysWritten r torn).toStored, sysStores := k } : Nvm).byteAt a =
      (c.sysWritten r torn).byteAt a := congrArg (SMap.get 0 · a) (hfull _).1
  rw [hk, (Nvm.sameArray_closeOpen herrs).byteAt, hmem, sysWritten, Nvm.byteAt_putBytes, if_neg, hpulse.byteAt]
  rw [hpulse.phys, List.length_map, List.length_range]
  omega

theorem reg_sysStore_calm (hrun : c.nvm.remapRun = none) (hscrub : c.nvm.scrubbing = false) (h : c.nvm.errs = [])
    {a : Nat} (ha : a ≠ A.nvmTorncnt) : (c.sysStore r torn full).dev.reg a = c.dev.reg a := by
  rw [sysStore_dev, sysOpened_calm hrun hscrub h]
  exact reg_openFor _ _ ha

end Chip
end Sys2Proof.Machine
end

section
/-! The supervisor's power commands (R404, R475), and the statement about all of them. -/
namespace Sys2Proof.Machine

/-! ## The state a command that may write the array leaves -/

theorem State.landed_toStored (s : State) (c : Chip) : (s.landed c).chip.nvm.toStored = c.nvm.toStored := by
  simp only [State.landed, Chip.flown]
  split <;> rfl

theorem State.landed_byteAt (s : State) (c : Chip) (a : Nat) : (s.landed c).chip.nvm.byteAt a = c.nvm.byteAt a :=
  congrArg (fun x : Stored => SMap.get 0 x.mem a) (s.landed_toStored c)

theorem State.landed_profiles (s : State) (c : Chip) : (s.landed c).chip.nvm.profiles = c.nvm.profiles :=
  congrArg Stored.profiles (s.landed_toStored c)

/-- A held command that is answered at once changes nothing else. -/
theorem State.landed_answer (s : State) (h : HeldCmd) (st : Nat) (l : List Word) :
    s.landed (s.chip.onDev fun d => d.answer h st l) = s.answered h st l := State.landed_dev s _

section
variable {s : State} {i : Fin 4} {h : HeldCmd}

/-! ## PROFSAVE -/

/-- What PROFSAVE stores: the domains from PD2 on, and VCODE (R475). -/
def profOf (h : HeldCmd) : BitVec 8 × BitVec 5 := (BitVec.ofNat 8 (fld (h.arg 2) 7 2 * 4), BitVec.ofNat 5 (fld (h.arg 3) 4 0))

/-- The chip once PROFSAVE has stored its profile. -/
def Chip.profStored (c : Chip) (h : HeldCmd) : Chip :=
  c.sysStore .profiles [] fun x => { x with profiles := SMap.insert (fld (h.arg 1) 3 0) (profOf h) x.profiles }

theorem Chip.reg_profStored {c : Chip} (hrun : c.nvm.remapRun = none) (hscrub : c.nvm.scrubbing = false) (herrs : c.nvm.errs = [])
    {a : Nat} (ha : a ≠ A.nvmTorncnt) : (c.profStored h).dev.reg a = c.dev.reg a := by
  rw [Chip.profStored, Chip.reg_sysStore_calm _ _ hrun hscrub herrs ha]

theorem Chip.byteAt_profStored {c : Chip} (hrun : c.nvm.remapRun = none) (hscrub : c.nvm.scrubbing = false) (herrs : c.nvm.errs = [])
    {a : Nat} (ha : a / 256 ≠ c.nvm.phys SysRec.profiles.page) : (c.profStored h).nvm.byteAt a = c.nvm.byteAt a := by
  unfold Chip.profStored
  refine Chip.byteAt_sysStore_calm .profiles [] hrun hscrub herrs (fun _ => ?_) ha
  exact ⟨rfl, rfl⟩

theorem exec_profsave (hh : s.holds i 5 1 h) : exec (.profsave i) s = .next (s.landed (s.chip.profSave h)) :=
  State.held_of_holds hh fun h c => c.profSave h

theorem Chip.profSave_denied {c : Chip} (hm : c.dev.pwrMay h = false) : c.profSave h = c.onDev (·.answer h 6 []) := by
  simp only [Chip.profSave, hm, Bool.not_false, if_true]

theorem Chip.profSave_outOfRange {c : Chip} (hm : c.dev.pwrMay h = true) (hr : 3 < fld (h.arg 1) 3 0 ∨ 30 < fld (h.arg 3) 4 0) :
    c.profSave h = c.onDev (·.answer h 2 []) := by
  have hr' : (decide (3 < fld (h.arg 1) 3 0) || decide (30 < fld (h.arg 3) 4 0)) = true := by simpa using hr
  simp only [Chip.profSave, hm, hr', Bool.not_true, Bool.false_eq_true, if_false, if_true]

theorem Chip.profSave_inRange {c : Chip} (hm : c.dev.pwrMay h = true) (hn : fld (h.arg 1) 3 0 ≤ 3) (hv : fld (h.arg 3) 4 0 ≤ 30) :
    c.profSave h = if c.dev.sealed then c.onDev (·.answer h 5 []) else (c.profStored h).onDev (·.answer h 0 []) := by
  have hr' : (decide (3 < fld (h.arg 1) 3 0) || decide (30 < fld (h.arg 3) 4 0)) = false := by
    simp [Nat.not_lt.2 hn, Nat.not_lt.2 hv]
  simp only [Chip.profSave, hm, hr', Bool.not_true, Bool.false_eq_true, if_false]
  rfl

/-- A PROFSAVE let in stores its profile, and no other (R475). -/
theorem profsave_stores (hh : s.holds i 5 1 h) (hm : s.chip.dev.pwrMay h = true) (hn : fld (h.arg 1) 3 0 ≤ 3)
    (hv : fld (h.arg 3) 4 0 ≤ 30) (hs : s.chip.dev.sealed = false) : ∃ t, exec (.profsave i) s = .next t ∧
      SMap.find t.chip.nvm.profiles (fld (h.arg 1) 3 0) = some (profOf h) ∧
      (∀ k, k ≠ fld (h.arg 1) 3 0 → SMap.find t.chip.nvm.profiles k = SMap.find s.chip.nvm.profiles k) ∧
      t.chip.dev.sup = (s.answered h 0 []).chip.dev.sup ∧
      (s.chip.nvm.remapRun = none → s.chip.nvm.scrubbing = false → s.chip.nvm.errs = [] →
        (∀ a, a / 256 ≠ s.chip.nvm.phys SysRec.profiles.page → t.chip.nvm.byteAt a = s.chip.nvm.byteAt a) ∧
        (∀ a, a ≠ A.nvmTorncnt → t.chip.dev.reg a = s.chip.dev.reg a)) := by
  have hsave : s.chip.profSave h = (s.chip.profStored h).onDev (·.answer h 0 []) := by
    rw [Chip.profSave_inRange hm hn hv, if_neg (by rw [hs]; decide)]
  have hprof : (s.landed (s.chip.profSave h)).chip.nvm.profiles =
      SMap.insert (fld (h.arg 1) 3 0) (profOf h) s.chip.nvm.profiles := by
    obtain ⟨x, hx, hp⟩ := s.chip.profiles_sysStore .profiles []
      (fun x => { x with profiles := SMap.insert (fld (h.arg 1) 3 0) (profOf h) x.profiles })
    rw [State.landed_profiles, hsave, ← hx]
    exact hp
  refine ⟨_, exec_profsave hh, ?_, fun k hk => ?_, ?_, fun hrun hscrub herrs => ⟨fun a ha => ?_, fun a ha => ?_⟩⟩
  · rw [hprof, SMap.find_insert_self]
  · rw [hprof, SMap.find_insert_ne hk]
  · have hsup : (s.chip.profStored h).dev.sup = s.chip.dev.sup := Chip.sup_sysStore _ _ _ _
    rw [State.landed_chip_dev, hsave]
    exact congrArg (fun x : Sup => { x with held := x.held.erase h, replies := x.replies ++ [h.reply 0 []] }) hsup
  · rw [State.landed_byteAt, hsave]
    rw [Chip.onDev_nvm, Chip.byteAt_profStored hrun hscrub herrs ha]
  · rw [State.landed_chip_dev, hsave]
    rw [Chip.onDev_dev, Dev.reg_answer, Chip.reg_profStored hrun hscrub herrs ha]

/-! ## PROFRUN -/

theorem exec_profrun (hh : s.holds i 5 2 h) : exec (.profrun i) s = .next (s.landed (s.chip.profRun h)) :=
  State.held_of_holds hh fun h c => c.profRun h

/-- What PROFRUN does to the device, by the profile it finds. -/
def Dev.profRunOf (d : Dev) (h : HeldCmd) (p : Option (BitVec 8 × BitVec 5)) : Dev :=
  match p with
  | none => d.answer h 4 [0]
  | some (dom, v) => match d.pwrTry 3 v.toNat 0 with
    | (some cause, d) => d.answer h 4 [wd cause]
    | (none, d) => Dev.profGo 4 ((d.startCmd h).2.modSup fun s => { s with profStep := some (1, (d.startCmd h).1, dom.toNat) })

theorem Chip.profRun_eq (c : Chip) (h : HeldCmd) : c.profRun h = c.onDev fun d =>
    if !d.pwrMay h then d.answer h 6 [] else if 3 < fld (h.arg 1) 3 0 then d.answer h 2 []
    else d.profRunOf h (SMap.find c.nvm.profiles (fld (h.arg 1) 3 0)) := by
  unfold Chip.profRun Dev.profRunOf
  rfl

theorem Chip.profRun_denied {c : Chip} (hm : c.dev.pwrMay h = false) : c.profRun h = c.onDev (·.answer h 6 []) := by
  rw [Chip.profRun_eq, Chip.onDev, hm, Bool.not_false, if_pos rfl, Chip.onDev]

theorem Chip.profRun_outOfRange {c : Chip} (hm : c.dev.pwrMay h = true) (hn : 3 < fld (h.arg 1) 3 0) :
    c.profRun h = c.onDev (·.answer h 2 []) := by
  rw [Chip.profRun_eq, Chip.onDev, hm, Bool.not_true, if_neg Bool.false_ne_true, if_pos hn, Chip.onDev]

theorem Chip.profRun_inRange {c : Chip} (hm : c.dev.pwrMay h = true) (hn : fld (h.arg 1) 3 0 ≤ 3) :
    c.profRun h = c.onDev (·.profRunOf h (SMap.find c.nvm.profiles (fld (h.arg 1) 3 0))) := by
  rw [Chip.profRun_eq, Chip.onDev, hm, Bool.not_true, if_neg Bool.false_ne_true, if_neg (Nat.not_lt.2 hn), Chip.onDev]

/-- The device once a PROFRUN has raised the core supply, with the domains to follow. -/
def Dev.profRaised (d : Dev) (h : HeldCmd) (dom : BitVec 8) (v : BitVec 5) : Dev :=
  ((d.vcoreTaken v).startCmd h).2.modSup fun s => { s with profStep := some (1, { h with started := true }, dom.toNat) }

/-- PROFRUN raises the core supply first, and nothing is answered yet (R475). -/
theorem Dev.profRunOf_raises {d : Dev} {dom : BitVec 8} {v : BitVec 5} (hp : d.pwr = none) (hv : d.rf A.pwrVcore 4 0 < v.toNat) :
    d.profRunOf h (some (dom, v)) = d.profRaised h dom v := by
  have hnone : d.pwrRefuses 3 v.toNat 0 = none := by
    rw [Dev.pwrRefuses_vcore_idle hp, decide_eq_false (Nat.not_lt.2 (Nat.le_of_lt hv)), Bool.false_and, if_neg (by decide)]
  simp only [Dev.profRunOf, Dev.pwrTry_vcore hnone (Nat.ne_of_gt hv)]
  exact Dev.profGo_busy rfl 4

theorem Dev.pwr_profRaised (d : Dev) (h : HeldCmd) (dom : BitVec 8) (v : BitVec 5) :
    (d.profRaised h dom v).pwr = some { steps := [], vcore := some v } := rfl

theorem Dev.profStep_profRaised (d : Dev) (h : HeldCmd) (dom : BitVec 8) (v : BitVec 5) :
    (d.profRaised h dom v).sup.profStep = some (1, { h with started := true }, dom.toNat) := rfl

theorem Dev.replies_profRaised (d : Dev) (h : HeldCmd) (dom : BitVec 8) (v : BitVec 5) :
    (d.profRaised h dom v).sup.replies = d.sup.replies := rfl

theorem Dev.vcode_profRaised (d : Dev) (h : HeldCmd) (dom : BitVec 8) (v : BitVec 5) : (d.profRaised h dom v).rf A.pwrVcore 4 0 = v.toNat :=
  Dev.vcode_vcoreTaken d v

/-! ## PWRINFO -/

theorem exec_pwrinfo (hh : s.holds i 5 3 h) : exec (.pwrinfo i) s = .next (s.to (s.chip.dev.pwrInfo h)) :=
  State.heldDev_of_holds hh fun d h => d.pwrInfo h

end

/-- PROFSAVE, with its refusals in their order. -/
theorem profsave_effect (s : State) (i : Fin 4) (h : HeldCmd) (hh : s.holds i 5 1 h) :
    let d := s.chip.dev
    let n := fld (h.arg 1) 3 0
    let v := fld (h.arg 3) 4 0
    (d.pwrMay h = false → exec (.profsave i) s = .next (s.answered h 6 [])) ∧
    (d.pwrMay h = true → (3 < n ∨ 30 < v) → exec (.profsave i) s = .next (s.answered h 2 [])) ∧
    (d.pwrMay h = true → n ≤ 3 → v ≤ 30 → d.sealed = true → exec (.profsave i) s = .next (s.answered h 5 [])) ∧
    (d.pwrMay h = true → n ≤ 3 → v ≤ 30 → d.sealed = false → ∃ t, exec (.profsave i) s = .next t ∧
      SMap.find t.chip.nvm.profiles n = some (profOf h) ∧
      (∀ k, k ≠ n → SMap.find t.chip.nvm.profiles k = SMap.find s.chip.nvm.profiles k) ∧
      t.chip.dev.sup = (s.answered h 0 []).chip.dev.sup ∧
      (s.chip.nvm.remapRun = none → s.chip.nvm.scrubbing = false → s.chip.nvm.errs = [] →
        (∀ a, a / 256 ≠ s.chip.nvm.phys SysRec.profiles.page → t.chip.nvm.byteAt a = s.chip.nvm.byteAt a) ∧
        (∀ a, a ≠ A.nvmTorncnt → t.chip.dev.reg a = d.reg a))) := by
  intro d n v
  have answers {st : Nat} (hc : s.chip.profSave h = s.chip.onDev (·.answer h st [])) :
      exec (.profsave i) s = .next (s.answered h st []) := by rw [exec_profsave hh, hc, State.landed_answer]
  refine ⟨fun hm => answers (Chip.profSave_denied hm), fun hm hr => answers (Chip.profSave_outOfRange hm hr),
    fun hm hn hv hs => answers ?_, profsave_stores hh⟩
  rw [Chip.profSave_inRange hm hn hv, if_pos hs]

/-- PROFRUN, with its refusals in their order; a missing profile answered 4 with DATA1 0 is log entry 37. -/
theorem profrun_effect (s : State) (i : Fin 4) (h : HeldCmd) (hh : s.holds i 5 2 h) :
    let d := s.chip.dev
    let n := fld (h.arg 1) 3 0
    (d.pwrMay h = false → exec (.profrun i) s = .next (s.answered h 6 [])) ∧
    (d.pwrMay h = true → 3 < n → exec (.profrun i) s = .next (s.answered h 2 [])) ∧
    (d.pwrMay h = true → n ≤ 3 → SMap.find s.chip.nvm.profiles n = none → exec (.profrun i) s = .next (s.answered h 4 [0])) ∧
    (∀ dom v, d.pwrMay h = true → n ≤ 3 → SMap.find s.chip.nvm.profiles n = some (dom, v) → d.pwr = none →
      d.rf A.pwrVcore 4 0 < v.toNat → ∃ t, exec (.profrun i) s = .next t ∧
      t.chip.dev.pwr = some { steps := [], vcore := some v } ∧ t.chip.dev.rf A.pwrVcore 4 0 = v.toNat ∧
      t.chip.dev.sup.profStep = some (1, { h with started := true }, dom.toNat) ∧ t.chip.dev.sup.replies = d.sup.replies ∧
      t.chip.nvm = s.chip.nvm) := by
  intro d n
  have runs {f : Dev → Dev} (hc : s.chip.profRun h = s.chip.onDev f) : exec (.profrun i) s = .next (s.to (f d)) := by
    rw [exec_profrun hh, hc, Chip.onDev, State.landed_dev]
  refine ⟨fun hm => runs (Chip.profRun_denied hm), fun hm hn => runs (Chip.profRun_outOfRange hm hn), fun hm hn hp => ?_,
    fun dom v hm hn hp hi hv => ?_⟩
  · rw [runs (Chip.profRun_inRange hm hn), hp]; rfl
  · have hraise : exec (.profrun i) s = .next (s.to (d.profRaised h dom v)) := by
      rw [runs (Chip.profRun_inRange hm hn), hp, Dev.profRunOf_raises hi hv]
    exact ⟨s.to (d.profRaised h dom v), hraise, Dev.pwr_profRaised d h dom v, Dev.vcode_profRaised d h dom v,
      Dev.profStep_profRaised d h dom v, Dev.replies_profRaised d h dom v, State.to_nvm s _⟩

/-- PWRINFO (R475). -/
theorem pwrinfo_effect (s : State) (i : Fin 4) (h : HeldCmd) (hh : s.holds i 5 3 h) :
    let d := s.chip.dev
    (d.reachAt h.sender h.priv 0 = false → exec (.pwrinfo i) s = .next (s.answered h 6 [])) ∧
    (d.reachAt h.sender h.priv 0 = true →
      exec (.pwrinfo i) s = .next (s.answered h 0 [d.pwrDomWord, d.reg A.pwrVcore, d.reg A.sysRstcause])) := by
  refine ⟨fun hr => ?_, fun hr => ?_⟩
  · rw [exec_pwrinfo hh, Dev.pwrInfo, hr]; rfl
  · rw [exec_pwrinfo hh, Dev.pwrInfo, hr]; rfl

/-- Settles O49: the refusals and acceptances of PWR_CMD, its steps, and the three supervisor commands. That a command with nothing to do
completes at once is log entry 37. -/
theorem powerCommands : Obligations.PowerCommands := by
  unfold Obligations.PowerCommands
  refine ⟨switch_effect, vcore_effect, fun s n on rest v hup _ hp => powerStepDone_effect s n on rest v hup hp, vcoreSettled_effect,
    fun s i h => ⟨profsave_effect s i h, profrun_effect s i h, pwrinfo_effect s i h⟩⟩

end Sys2Proof.Machine
end

section
/-! What the steps of a round leave as it is. The message slots keep the aggregation and the outputs (R557-R560); the amounts in flight
and the contributions change the backlogs alone (R562, R563). -/
namespace Sys2Proof.Machine

/-! ## The outputs and what they follow (R564) -/

/-- `e` has all that the outputs of `d` read when a TOTAL is applied, the TOTAL itself left out: the variant, the active configuration,
the domains that are on, and the outputs. -/
structure Dev.SameOutputs (d e : Dev) : Prop where
  fuses : e.fuses = d.fuses
  act : e.act = d.act
  outs : e.outs = d.outs
  pwrDom : e.reg A.pwrDom = d.reg A.pwrDom

namespace Dev.SameOutputs
variable {d e f : Dev}

theorem refl : SameOutputs d d := ⟨rfl, rfl, rfl, rfl⟩

theorem trans (h : SameOutputs d e) (h' : SameOutputs e f) : SameOutputs d f :=
  ⟨h'.fuses.trans h.fuses, h'.act.trans h.act, h'.outs.trans h.outs, h'.pwrDom.trans h.pwrDom⟩

theorem setReg {a : Nat} (h : A.pwrDom ≠ a) (w : Word) : SameOutputs d (d.setReg a w) := ⟨rfl, rfl, rfl, Dev.reg_setReg_ne d h w⟩

theorem cfs (h : SameOutputs d e) : e.fuses.cfs = d.fuses.cfs := congrArg Fuses.cfs h.fuses
theorem on (h : SameOutputs d e) (n : Nat) : e.on n = d.on n := congrArg (bit · n) h.pwrDom
theorem out (h : SameOutputs d e) (n : Nat) : e.out n = d.out n := congrArg (Vector.getD · n PulseOut.zero) h.outs

theorem active (h : SameOutputs d e) (a : Nat) : e.active a = d.active a := congrArg (SMap.get (resetVal a) · a) h.act
theorem cfSrc (h : SameOutputs d e) (n : Nat) : e.cfSrc n = d.cfSrc n := congrArg (bit · 5) (h.active _)
theorem cfQ (h : SameOutputs d e) (n : Nat) : e.cfQ n = d.cfQ n := congrArg (fld · 11 8) (h.active _)

end Dev.SameOutputs

/-! ## The message slots (R557-R560) -/

/-- The ring without its messages in progress. -/
def Chn.noMessages (c : Chn) : Chn := { c with lane0 := none, lane1 := none, togglesTx := [], togglesRx := [] }

/-- `e` differs from `d` by messages alone: the link, the rounds and the aggregation are the same, and so are the outputs. -/
structure Dev.SameAggregation (d e : Dev) : Prop extends Dev.SameOutputs d e where
  chn : e.chn.noMessages = d.chn.noMessages

namespace Dev.SameAggregation
variable {d e f : Dev}

theorem refl : SameAggregation d d := ⟨.refl, rfl⟩

theorem trans (h : SameAggregation d e) (h' : SameAggregation e f) : SameAggregation d f :=
  ⟨h.toSameOutputs.trans h'.toSameOutputs, h'.chn.trans h.chn⟩

theorem setReg {a : Nat} (h : A.pwrDom ≠ a) (w : Word) : SameAggregation d (d.setReg a w) := ⟨.setReg h w, rfl⟩

/-- A change of the lanes and toggles alone. -/
theorem messages (l0 l1 : Option Lane) (tx rx : SMap Bool) :
    SameAggregation d (d.modChn fun c => { c with lane0 := l0, lane1 := l1, togglesTx := tx, togglesRx := rx }) :=
  ⟨⟨rfl, rfl, rfl, rfl⟩, rfl⟩

theorem rnum (h : SameAggregation d e) : e.chn.rnum = d.chn.rnum := show e.chn.noMessages.rnum = _ from h.chn ▸ rfl
theorem gotOk (h : SameAggregation d e) : e.chn.gotOk = d.chn.gotOk := show e.chn.noMessages.gotOk = _ from h.chn ▸ rfl
theorem up (h : SameAggregation d e) : e.chn.up = d.chn.up := show e.chn.noMessages.up = _ from h.chn ▸ rfl
theorem total (h : SameAggregation d e) : e.chn.total = d.chn.total := show e.chn.noMessages.total = _ from h.chn ▸ rfl
theorem backlog (h : SameAggregation d e) : e.chn.backlog = d.chn.backlog := show e.chn.noMessages.backlog = _ from h.chn ▸ rfl
theorem flight (h : SameAggregation d e) : e.chn.flight = d.chn.flight := show e.chn.noMessages.flight = _ from h.chn ▸ rfl

end Dev.SameAggregation

namespace Dev
variable (d : Dev)

theorem mbWrote_same (m n w : Nat) : SameAggregation d (d.mbWrote m n w) := ⟨⟨rfl, rfl, rfl, rfl⟩, rfl⟩

theorem mbFree_same (n : Nat) : SameAggregation d (d.mbFree n) := ⟨⟨rfl, rfl, rfl, rfl⟩, rfl⟩

theorem setMb_same (n : Nat) (x : Mbox) : SameAggregation d (d.setMb n x) := ⟨⟨rfl, rfl, rfl, rfl⟩, rfl⟩

theorem raiseIf_same {a : Nat} (h : A.pwrDom ≠ a) (c : Bool) (bits : Nat) : SameAggregation d (d.raiseIf c a bits) := by
  cases c
  · exact .refl
  · exact .setReg h _

theorem mbGo_same (m n : Nat) : SameAggregation d (d.mbGo m n) :=
  ((setMb_same d n _).trans (.setReg (by unfold A.pwrDom A.mbxMnStamp; omega) _)).trans (raiseIf_same _ (by decide) _ _)

theorem mbPost_same {m n : Nat} {e : Dev} (h : d.mbPost m n = .ok e) : SameAggregation d e := by
  unfold Dev.mbPost at h
  split at h
  · cases h
  · cases h; exact mbGo_same d m n

theorem slotWrite_same (s : RingSlot) : SameAggregation d (d.slotWrite s).2 := by
  unfold Dev.slotWrite
  dsimp only
  split
  · split
    · exact .refl
    · split
      · exact .refl
      · split
        · next hpost => exact (mbPost_same d hpost).trans (.messages _ _ _ _)
        · exact .refl
  · split
    · exact .refl
    · split
      · exact .refl
      · split
        · exact .refl
        · exact (SameAggregation.setReg (by unfold A.pwrDom mbDataAt A.mbxMnDATAw; omega) _).trans (mbWrote_same _ _ _ _)

theorem takeSlots_cons (s : RingSlot) (r : List RingSlot) :
    (d.takeSlots (s :: r)).1 = ((if d.takesSlot s then (d.slotWrite s).2 else d).takeSlots r).1 := by
  rw [Dev.takeSlots]
  cases d.takesSlot s <;> rfl

theorem takeSlots_same (l : List RingSlot) : ∀ d : Dev, SameAggregation d (d.takeSlots l).1 := by
  induction l with
  | nil => exact fun _ => .refl
  | cons s r ih =>
    intro d
    rw [takeSlots_cons]
    refine SameAggregation.trans ?_ (ih _)
    split
    · exact slotWrite_same d s
    · exact .refl

theorem msgFail_same (n cause : Nat) : SameAggregation d (d.msgFail n cause) :=
  ((SameAggregation.setReg (by decide) _).trans (.setReg (by decide) _)).trans (mbFree_same _ n)

theorem laneResult_same (lane : Option Lane) (s : RingSlot) : SameAggregation d (d.laneResult lane s).1 := by
  cases lane with
  | none => exact .refl
  | some l =>
    unfold Dev.laneResult
    dsimp only
    split
    · exact .refl
    · split
      · split
        · exact msgFail_same d _ _
        · exact .refl
      · split
        · exact mbFree_same d _
        · exact .refl
      · exact .refl
      · exact msgFail_same d _ _

theorem lanesResult_same (slots : List RingSlot) : SameAggregation d (d.lanesResult slots) :=
  ((laneResult_same d _ _).trans (laneResult_same _ _ _)).trans (.messages _ _ _ _)

theorem laneStart_same (other : Option Lane) : SameAggregation d (d.laneStart other).1 := by
  unfold Dev.laneStart
  split
  · exact .refl
  · dsimp only
    split
    · exact .messages _ _ _ _
    · exact SameAggregation.trans (e := d.free.2) ⟨⟨rfl, rfl, rfl, rfl⟩, rfl⟩ (.messages _ _ _ _)

/-- An idle lane takes up a message, a busy one goes on. -/
def laneNext (lane other : Option Lane) : Dev × Option Lane :=
  match lane with | some l => (d, some l) | none => d.laneStart other

theorem laneNext_same (lane other : Option Lane) : SameAggregation d (d.laneNext lane other).1 := by
  cases lane with
  | none => exact laneStart_same d other
  | some l => exact .refl

theorem lanesSend_same : SameAggregation d d.lanesSend.1 := by
  unfold Dev.lanesSend
  split
  · exact .refl
  · exact ((laneNext_same d d.chn.lane0 d.chn.lane1).trans (laneNext_same _ _ _)).trans (.messages _ _ _ _)

end Dev

end Sys2Proof.Machine
end

section
/-! The steps of the aggregation: a contribution, the fate of what is in flight, and the TOTALs that the outputs follow (R562-R564). -/
namespace Sys2Proof.Machine

theorem getD_mapIdx {α β : Type} {n : Nat} (v : Vector α n) (g : Nat → α → β) {i : Nat} (h : i < n) (x : α) (y : β) :
    (v.mapIdx g).getD i y = g i (v.getD i x) := by
  simp [Vector.getD, h]

/-- `e` differs from `d` by the backlogs and the amounts in flight alone, as far as the ring and the outputs go. -/
structure Dev.OnlyBacklog (d e : Dev) : Prop extends Dev.SameOutputs d e where
  chn : e.chn = { d.chn with backlog := e.chn.backlog, flight := e.chn.flight }

namespace Dev.OnlyBacklog
variable {d e f : Dev}

theorem refl : OnlyBacklog d d := ⟨.refl, rfl⟩

theorem trans (h : OnlyBacklog d e) (h' : OnlyBacklog e f) : OnlyBacklog d f :=
  ⟨h.toSameOutputs.trans h'.toSameOutputs, by rw [h'.chn, h.chn]⟩

theorem setReg {a : Nat} (h : A.pwrDom ≠ a) (w : Word) : OnlyBacklog d (d.setReg a w) := ⟨.setReg h w, rfl⟩

/-- A change of the backlogs and the amounts in flight. -/
theorem amounts (b : Vector Int 4) (l : List Flight) : OnlyBacklog d (d.modChn fun c => { c with backlog := b, flight := l }) :=
  ⟨⟨rfl, rfl, rfl, rfl⟩, rfl⟩

theorem up (h : OnlyBacklog d e) : e.chn.up = d.chn.up := by rw [h.chn]
theorem dupId (h : OnlyBacklog d e) : e.chn.dupId = d.chn.dupId := by rw [h.chn]
theorem rnum (h : OnlyBacklog d e) : e.chn.rnum = d.chn.rnum := by rw [h.chn]
theorem gotOk (h : OnlyBacklog d e) : e.chn.gotOk = d.chn.gotOk := by rw [h.chn]
theorem total (h : OnlyBacklog d e) : e.chn.total = d.chn.total := by rw [h.chn]

end Dev.OnlyBacklog

namespace Dev
variable (d : Dev)

/-! ## The fate of what is in flight (R563; that a valid round shows the fate of the eight rounds before it is log entry 27) -/

theorem unresolved_onlyBacklog (f : Flight) : OnlyBacklog d (d.unresolved f) :=
  .setReg (by unfold A.pwrDom A.chnAGGaUnres; omega) _

/-- What a valid round does to one amount in flight. -/
def fate (rnum okmap : BitVec 8) (d : Dev) (f : Flight) : Dev :=
  if 8 ≤ (rnum - 1 - f.rnum).toNat then d.unresolved f
  else if okmap.getLsbD (rnum - 1 - f.rnum).toNat then d
  else d.giveBack f

theorem settle_eq (rnum okmap : BitVec 8) :
    d.settle rnum okmap = d.chn.flight.foldl (fate rnum okmap) (d.modChn fun c => { c with flight := [] }) := rfl

/-- What is settled is no longer in flight, and the rest changes by the backlogs alone. -/
theorem fate_onlyBacklog (rnum okmap : BitVec 8) (f : Flight) :
    OnlyBacklog d (d.fate rnum okmap f) ∧ (d.fate rnum okmap f).chn.flight = d.chn.flight := by
  unfold fate
  split
  · exact ⟨unresolved_onlyBacklog d f, rfl⟩
  · split
    · exact ⟨.refl, rfl⟩
    · exact ⟨.amounts _ _, rfl⟩

theorem foldl_fate_onlyBacklog (rnum okmap : BitVec 8) (l : List Flight) : ∀ d : Dev,
    OnlyBacklog d (l.foldl (fate rnum okmap) d) ∧ (l.foldl (fate rnum okmap) d).chn.flight = d.chn.flight := by
  induction l with
  | nil => exact fun _ => ⟨.refl, rfl⟩
  | cons f l ih =>
    intro d
    obtain ⟨hf, hfl⟩ := fate_onlyBacklog d rnum okmap f
    obtain ⟨hl, hll⟩ := ih (d.fate rnum okmap f)
    exact ⟨hf.trans hl, hll.trans hfl⟩

theorem settle_onlyBacklog (rnum okmap : BitVec 8) : OnlyBacklog d (d.settle rnum okmap) :=
  OnlyBacklog.trans (.amounts d.chn.backlog []) (foldl_fate_onlyBacklog rnum okmap _ _).1

theorem flight_settle (rnum okmap : BitVec 8) : (d.settle rnum okmap).chn.flight = [] :=
  (foldl_fate_onlyBacklog rnum okmap _ _).2

/-- With nothing in flight there is nothing to settle. -/
theorem backlog_settle_nil {rnum okmap : BitVec 8} {d : Dev} (h : d.chn.flight = []) :
    (d.settle rnum okmap).chn.backlog = d.chn.backlog := by
  rw [settle_eq, h]
  rfl

theorem backlog_giveBack (f : Flight) {a : Nat} (ha : a < 4) : (d.giveBack f).chn.backlog.getD a 0 =
    if a = f.ch.val then mod96 (d.chn.backlog.getD a 0 + f.amount) else d.chn.backlog.getD a 0 :=
  getD_mapIdx _ _ ha 0 0

/-- A single amount whose fate the round shows: gone, or back in its backlog. -/
theorem backlog_settle_single {rnum okmap : BitVec 8} {d : Dev} {f : Flight} (h : d.chn.flight = [f])
    (hr : (rnum - 1 - f.rnum).toNat < 8) {a : Nat} (ha : a < 4) : (d.settle rnum okmap).chn.backlog.getD a 0 =
      if a = f.ch.val ∧ okmap.getLsbD (rnum - 1 - f.rnum).toNat = false then mod96 (d.chn.backlog.getD a 0 + f.amount)
      else d.chn.backlog.getD a 0 := by
  rw [settle_eq, h, List.foldl_cons, List.foldl_nil, fate, if_neg (by omega)]
  cases okmap.getLsbD (rnum - 1 - f.rnum).toNat with
  | false =>
    simp only [and_true, Bool.false_eq_true, if_false]
    exact backlog_giveBack _ f ha
  | true => simp [modChn]

/-! ## The contribution (R562; truncation toward zero is log entry 27) -/

end Dev

/-- The whole units of 2^-32 quantum of a backlog, at most 2^28 quanta. -/
def wholeUnits (b : Int) : Int := max (-(2 ^ 60)) (min (2 ^ 60) (Int.tdiv b (2 ^ 14)))

theorem contribution_eq (b : Int) : contribution b = wholeUnits b * 2 ^ 14 := by
  unfold contribution clampI wholeUnits
  generalize Int.tdiv b (2 ^ 14) = q
  split
  · omega
  · split <;> omega

theorem contribution_ediv (b : Int) : contribution b / 2 ^ 14 = wholeUnits b := by
  rw [contribution_eq]
  exact Int.mul_ediv_cancel _ (by decide)

namespace Dev
variable {d : Dev}

/-- A device whose link is DOWN contributes nothing. -/
theorem contribute_down (h : d.chn.up = false) (rnum : BitVec 8) : d.contribute rnum = (d, Vector.replicate 4 0) := by
  simp [Dev.contribute, h]

/-- The contributions of a round, as amounts in flight. -/
def sentInRound (d : Dev) (rnum : BitVec 8) : List Flight :=
  ((d.chn.backlog.mapIdx fun _ (b : Int) => contribution b).toList.mapIdx fun (a : Nat) (v : Int) =>
    ({ ch := Fin.ofNat 4 a, rnum := rnum, age := 0, amount := v } : Flight)).filter fun f => f.amount != 0

theorem contribute_up (hup : d.chn.up = true) (hdup : d.chn.dupId = false) (rnum : BitVec 8) :
    d.contribute rnum = (d.modChn fun c => { c with
      backlog := c.backlog.mapIdx fun _ (b : Int) => b - contribution b
      flight := c.flight ++ d.sentInRound rnum },
      (d.chn.backlog.mapIdx fun _ (b : Int) => contribution b).mapIdx fun _ (v : Int) => v / 2 ^ 14) := by
  rw [Dev.contribute, hup, hdup]
  rfl

theorem contribute_onlyBacklog (d : Dev) (rnum : BitVec 8) : OnlyBacklog d (d.contribute rnum).1 := by
  unfold Dev.contribute
  split
  · exact .refl
  · exact .amounts _ _

theorem collect_contribute (hup : d.chn.up = true) (hdup : d.chn.dupId = false) (rnum : BitVec 8) {a : Nat} (ha : a < 4) :
    (d.contribute rnum).2.getD a 0 = wholeUnits (d.chn.backlog.getD a 0) := by
  rw [contribute_up hup hdup, getD_mapIdx _ _ ha 0, getD_mapIdx _ _ ha 0, contribution_ediv]

theorem backlog_contribute (hup : d.chn.up = true) (hdup : d.chn.dupId = false) (rnum : BitVec 8) {a : Nat} (ha : a < 4) :
    (d.contribute rnum).1.chn.backlog.getD a 0 = d.chn.backlog.getD a 0 - wholeUnits (d.chn.backlog.getD a 0) * 2 ^ 14 := by
  rw [contribute_up hup hdup, ← contribution_eq]
  exact getD_mapIdx _ _ ha 0 0

/-- An amount sent is in flight for the round it was sent in. -/
theorem mem_flight_contribute (hup : d.chn.up = true) (hdup : d.chn.dupId = false) (rnum : BitVec 8) {a : Nat} (ha : a < 4)
    (hv : wholeUnits (d.chn.backlog.getD a 0) ≠ 0) :
    ({ ch := Fin.ofNat 4 a, rnum := rnum, age := 0, amount := wholeUnits (d.chn.backlog.getD a 0) * 2 ^ 14 } : Flight) ∈
      (d.contribute rnum).1.chn.flight := by
  rw [contribute_up hup hdup]
  refine List.mem_append_right _ (List.mem_filter.2 ⟨List.mem_mapIdx.2 ⟨a, by simpa using ha, ?_⟩, ?_⟩)
  · simp [contribution_eq, Vector.getD, ha]
  · simp only [bne_iff_ne]
    omega

/-! ## The TOTALs (R562, R564) -/

/-- The two registers that show the TOTAL of a channel, loaded. -/
def totalShown (d : Dev) (a : Nat) : Dev :=
  let t := (d.chn.total.getD a 0).toNat
  (d.setReg (A.chnAGGaTotlo a) (wd (t % 2 ^ 32))).setReg (A.chnAGGaTothi a) (wd (t / 2 ^ 32))

/-- The TOTALs of the four channels shown. -/
def totalsShown (d : Dev) : Dev := (List.range 4).foldl totalShown d

theorem applyTotals_eq (d : Dev) : d.applyTotals =
    if d.totalsShown.chn.up && d.totalsShown.on 5 then (List.range d.totalsShown.fuses.cfs).foldl applyTotal d.totalsShown
    else d.totalsShown := rfl

theorem totalShown_same (d : Dev) (a : Nat) : SameOutputs d (d.totalShown a) :=
  (SameOutputs.setReg (by unfold A.pwrDom A.chnAGGaTotlo; omega) _).trans (.setReg (by unfold A.pwrDom A.chnAGGaTothi; omega) _)

theorem foldl_totalShown_same (l : List Nat) : ∀ d : Dev,
    SameOutputs d (l.foldl totalShown d) ∧ (l.foldl totalShown d).chn = d.chn := by
  induction l with
  | nil => exact fun _ => ⟨.refl, rfl⟩
  | cons a l ih =>
    intro d
    obtain ⟨ho, hc⟩ := ih (d.totalShown a)
    exact ⟨(totalShown_same d a).trans ho, hc⟩

theorem totalsShown_same (d : Dev) : SameOutputs d d.totalsShown := (foldl_totalShown_same _ d).1

theorem chn_totalsShown (d : Dev) : d.totalsShown.chn = d.chn := (foldl_totalShown_same _ d).2

/-- The change of a TOTAL in units of 2^-46 quantum; the first valid round only sets the reference. -/
def totalChange (t : BitVec 64) : Option (BitVec 64) → Int
  | some r => (t - r).toInt * 2 ^ 14
  | none => 0

/-- The output as it stands after a TOTAL: one that follows an aggregate channel has moved by the change. -/
def followed (d : Dev) (n : Nat) : PulseOut :=
  if d.cfSrc n then
    let t := d.chn.total.getD (d.cfQ n % 4) 0
    { d.out n with aggRef := some t, p := (d.out n).p + totalChange t (d.out n).aggRef }
  else d.out n

theorem out_applyTotal_self (d : Dev) {n : Nat} (hn : n < 4) : (d.applyTotal n).out n = d.followed n := by
  unfold Dev.applyTotal followed
  split
  · exact (Dev.out_setOut ..).trans (if_pos ⟨rfl, hn⟩)
  · rfl

theorem out_applyTotal_ne (d : Dev) {k n : Nat} (h : k ≠ n) : (d.applyTotal k).out n = d.out n := by
  unfold Dev.applyTotal
  split
  · exact (Dev.out_setOut ..).trans (if_neg fun hk => h hk.1)
  · rfl

theorem applyTotal_shape (d : Dev) (n : Nat) : ∃ x, d.applyTotal n = { d with outs := x } := by
  unfold Dev.applyTotal
  split
  · exact ⟨_, rfl⟩
  · exact ⟨d.outs, rfl⟩

theorem foldl_applyTotal_shape (l : List Nat) : ∀ d : Dev, ∃ x, l.foldl applyTotal d = { d with outs := x } := by
  induction l with
  | nil => exact fun d => ⟨d.outs, rfl⟩
  | cons n l ih =>
    intro d
    obtain ⟨x, hx⟩ := applyTotal_shape d n
    rw [List.foldl_cons, hx]
    exact ih _

theorem followed_applyTotal_ne (d : Dev) {k n : Nat} (h : k ≠ n) : (d.applyTotal k).followed n = d.followed n := by
  have hout := out_applyTotal_ne d h
  obtain ⟨x, hx⟩ := applyTotal_shape d k
  unfold followed
  rw [hout, hx]
  rfl

theorem out_foldl_applyTotal {n : Nat} (hn : n < 4) (l : List Nat) (hl : l.Nodup) : ∀ d : Dev,
    (l.foldl applyTotal d).out n = if n ∈ l then d.followed n else d.out n := by
  induction l with
  | nil => exact fun _ => rfl
  | cons k l ih =>
    intro d
    obtain ⟨hk, hl⟩ := List.nodup_cons.1 hl
    rw [List.foldl_cons, ih hl]
    by_cases h : k = n
    · subst h
      simp [hk, out_applyTotal_self d hn]
    · simp [Ne.symm h, followed_applyTotal_ne d h, out_applyTotal_ne d h]

/-- Applying the TOTALs changes nothing of the ring. -/
theorem chn_applyTotals (d : Dev) : d.applyTotals.chn = d.chn := by
  rw [applyTotals_eq]
  split
  · obtain ⟨x, hx⟩ := foldl_applyTotal_shape (List.range d.totalsShown.fuses.cfs) d.totalsShown
    rw [hx]
    exact chn_totalsShown d
  · exact chn_totalsShown d

theorem cfs_le_four (f : Fuses) : f.cfs ≤ 4 := by
  unfold Fuses.cfs
  split <;> omega

theorem out_applyTotals (hup : d.chn.up = true) (hon : d.on 5 = true) {n : Nat} (hn : n < d.fuses.cfs) :
    d.applyTotals.out n = d.followed n := by
  have hs := d.totalsShown_same
  have h4 : n < 4 := Nat.lt_of_lt_of_le hn (cfs_le_four _)
  have hgo : (d.totalsShown.chn.up && d.totalsShown.on 5) = true := by rw [chn_totalsShown, hs.on, hup, hon]; rfl
  rw [applyTotals_eq, if_pos hgo, out_foldl_applyTotal h4 _ List.nodup_range, hs.cfs, if_pos (List.mem_range.2 hn)]
  simp only [followed, hs.cfSrc, hs.cfQ, hs.out, chn_totalsShown]

/-- An output that follows an aggregate channel moves by the change of its TOTAL. -/
theorem SameOutputs.followed_of_cfSrc {e : Dev} (h : SameOutputs d e) {n : Nat} (hs : d.cfSrc n = true) {t : BitVec 64}
    (ht : e.chn.total.getD (d.cfQ n % 4) 0 = t) :
    e.followed n = { d.out n with aggRef := some t, p := (d.out n).p + totalChange t (d.out n).aggRef } := by
  simp only [followed, h.cfSrc, hs, h.cfQ, h.out, ht, if_true]

end Dev

end Sys2Proof.Machine
end

section
/-! The rounds of the ring as the master starts them, as they pass a member and as the master receives them (R553-R556, R562). -/
namespace Sys2Proof.Machine

theorem getD_replicate_zero (a : Nat) : (Vector.replicate 4 (0 : Int)).getD a 0 = 0 := by
  by_cases h : a < 4 <;> simp [Vector.getD, h]

namespace Dev
variable (d : Dev)

/-! ## The link and the counts after a round (R556) -/

theorem chn_raiseIf (c : Bool) (a bits : Nat) : (d.raiseIf c a bits).chn = d.chn := by cases c <;> rfl

theorem chn_foldl_setMb (g : Dev → Nat → Mbox) (l : List Nat) : ∀ d : Dev,
    (l.foldl (fun (d : Dev) (n : Nat) => d.setMb n (g d n)) d).chn = d.chn := by
  induction l with
  | nil => exact fun _ => rfl
  | cons n l ih => exact fun d => ih (d.setMb n (g d n))

theorem chn_mbStale (off : Nat → Bool) : (d.mbStale off).chn = d.chn :=
  (chn_raiseIf _ _ _ _).trans (chn_foldl_setMb (fun d n => { d.mb n with stale := true }) _ d)

theorem chn_linkDown : d.linkDown.chn = { d.chn with up := false, good := 0, bad := 0 } := by
  unfold Dev.linkDown
  dsimp only
  split
  · exact chn_mbStale _ _
  · rfl

/-- The counts of a round change the ring by the link and the two runs alone. -/
theorem chn_roundCount (ok : Bool) : ∃ u g b, (d.roundCount ok).chn = { d.chn with up := u, good := g, bad := b } := by
  unfold Dev.roundCount
  dsimp only
  split
  · split
    · exact ⟨true, _, 0, rfl⟩
    · exact ⟨_, _, _, rfl⟩
  · split
    · exact ⟨false, 0, 0, chn_linkDown _⟩
    · exact ⟨_, _, _, rfl⟩

/-- A good round moves no output of a device whose link is UP. -/
theorem out_roundCount_good {d : Dev} (h : d.chn.up = true) (n : Nat) : (d.roundCount true).out n = d.out n := by
  unfold Dev.roundCount
  rw [if_pos rfl, if_neg]
  · rfl
  · simp [modChn, h]

/-! ## The master starts a round (R553; that OKMAP is resolved before the contribution is log entry 27) -/

/-- The OKMAP of the next round: the fate of the round before it, then those before that. -/
def nextOkmap : BitVec 8 := (d.chn.okHist <<< 1) ||| BitVec.ofNat 8 d.chn.gotOk.toNat

theorem getLsbD_nextOkmap {k : Nat} (hk : k < 8) :
    d.nextOkmap.getLsbD k = if k = 0 then d.chn.gotOk else d.chn.okHist.getLsbD (k - 1) := by
  unfold nextOkmap
  rw [BitVec.getLsbD_or, BitVec.getLsbD_shiftLeft]
  cases k with
  | zero => cases d.chn.gotOk <;> rfl
  | succ k => cases d.chn.gotOk <;> simp [hk]

/-- The round begun, with its number and its OKMAP. -/
def startOpened : Dev := d.modChn fun c => { c with okHist := d.nextOkmap, rnum := d.chn.rnum + 1, gotOk := false }

/-- What is in flight settled by that OKMAP, the master's contributions made, and its own slots filled. -/
def startSettled : Dev := d.startOpened.settle (d.chn.rnum + 1) d.nextOkmap
def startContributed : Dev := (d.startSettled.contribute (d.chn.rnum + 1)).1
def startSent : Dev := d.startContributed.lanesSend.1

/-- The round the master sends, but for its CRC. -/
def startedRound : Round where
  syncw := 0xB4E2
  crc := 0
  rnum := d.chn.rnum + 1
  okmap := d.nextOkmap
  status := (List.range 8).map fun (k : Nat) =>
    if k = 0 then d.startSent.ownStatus (d.startSent.chn.present.getD 0 false)
    else { noStatus with seen := d.startSent.chn.present.getD k false }
  cells := (List.range 4).map fun (a : Nat) =>
    ⟨(d.startSettled.contribute (d.chn.rnum + 1)).2.getD a 0, d.startSent.chn.total.getD a 0⟩
  slots := ownSlots 0 d.startSent.chn.slotsRx d.startContributed.lanesSend.2.1 d.startContributed.lanesSend.2.2

variable {d}

theorem roundStart_idle (h : d.isMaster = false ∨ d.ringOn = false) : d.roundStart = d := by
  rcases h with h | h <;> simp [Dev.roundStart, h]

theorem roundStart_sends (hm : d.isMaster = true) (hr : d.ringOn = true) : d.roundStart = d.startSent.modChn fun c =>
    { c with lastRound := some (roundSealed true d.startedRound), present := [], slotsRx := [] } := by
  rw [Dev.roundStart, hm, hr]
  rfl

variable (d)

theorem startSettled_onlyBacklog : OnlyBacklog d.startOpened d.startSettled := settle_onlyBacklog _ _ _

theorem startContributed_onlyBacklog : OnlyBacklog d.startOpened d.startContributed :=
  d.startSettled_onlyBacklog.trans (contribute_onlyBacklog _ _)

theorem startSent_same : SameAggregation d.startContributed d.startSent := lanesSend_same _

theorem rnum_startSent : d.startSent.chn.rnum = d.chn.rnum + 1 := d.startSent_same.rnum.trans d.startContributed_onlyBacklog.rnum
theorem gotOk_startSent : d.startSent.chn.gotOk = false := d.startSent_same.gotOk.trans d.startContributed_onlyBacklog.gotOk
theorem total_startSent : d.startSent.chn.total = d.chn.total := d.startSent_same.total.trans d.startContributed_onlyBacklog.total

theorem up_startSettled : d.startSettled.chn.up = d.chn.up := d.startSettled_onlyBacklog.up
theorem dupId_startSettled : d.startSettled.chn.dupId = d.chn.dupId := d.startSettled_onlyBacklog.dupId

variable {d}

theorem backlog_startSettled (h : d.chn.flight = []) : d.startSettled.chn.backlog = d.chn.backlog :=
  backlog_settle_nil (d := d.startOpened) h

theorem getD_cells_startedRound {a : Nat} (ha : a < 4) : d.startedRound.cells.getD a ⟨0, 0⟩ =
    ⟨(d.startSettled.contribute (d.chn.rnum + 1)).2.getD a 0, d.chn.total.getD a 0⟩ := by
  rw [← d.total_startSent]
  simp [startedRound, List.getD_eq_getElem?_getD, ha]

theorem roundGood_startedRound (d : Dev) : roundGood (roundSealed true d.startedRound) = true := by
  have hsync : roundSync d.startedRound = true := beq_self_eq_true 0xB4E2#16
  rw [roundGood_sealed, hsync, Bool.and_self]

/-- With nothing in flight and the link UP the master's contributions start the sums. -/
theorem startedRound_up (hf : d.chn.flight = []) (hup : d.chn.up = true) (hdup : d.chn.dupId = false) {a : Nat} (ha : a < 4) :
    let v := wholeUnits (d.chn.backlog.getD a 0)
    (d.startedRound.cells.getD a ⟨0, 0⟩).collect = v ∧ d.startSent.chn.backlog.getD a 0 = d.chn.backlog.getD a 0 - v * 2 ^ 14 ∧
      (v ≠ 0 → ({ ch := Fin.ofNat 4 a, rnum := d.chn.rnum + 1, age := 0, amount := v * 2 ^ 14 } : Flight) ∈
        d.startSent.chn.flight) := by
  have hu := d.up_startSettled.trans hup
  have hd := d.dupId_startSettled.trans hdup
  rw [getD_cells_startedRound ha, d.startSent_same.backlog, d.startSent_same.flight, ← backlog_startSettled hf]
  exact ⟨collect_contribute hu hd _ ha, backlog_contribute hu hd _ ha, mem_flight_contribute hu hd _ ha⟩

/-- With the link DOWN the master contributes nothing. -/
theorem startedRound_down (hup : d.chn.up = false) : (∀ a < 4, (d.startedRound.cells.getD a ⟨0, 0⟩).collect = 0) ∧
    (d.chn.flight = [] → d.startSent.chn.backlog = d.chn.backlog) := by
  have hnone := contribute_down (d.up_startSettled.trans hup) (d.chn.rnum + 1)
  refine ⟨fun a ha => ?_, fun hf => ?_⟩
  · rw [getD_cells_startedRound ha, hnone]
    exact getD_replicate_zero a
  · rw [d.startSent_same.backlog, startContributed, hnone, backlog_startSettled hf]

end Dev

/-! ## A good round passes a member (R553, R555) -/

section Forward
variable (d : Dev) (r : Round)

/-- What is in flight settled, the contributions made, the slots taken, and the device's own slots read and filled. -/
def Dev.passSettled : Dev := d.settle r.rnum r.okmap
def Dev.passContributed : Dev := ((d.passSettled r).contribute r.rnum).1
def Dev.passTaken : Dev × List RingSlot := (d.passContributed r).takeSlots r.slots
def Dev.passRead : Dev := (d.passTaken r).1.lanesResult (d.passTaken r).2
def Dev.passSent : Dev := (d.passRead r).lanesSend.1

/-- The TOTALs of the round taken. -/
def Dev.passTotals : Dev := (d.passSent r).modChn fun c => { c with
  total := c.total.mapIdx fun (a : Nat) (_ : BitVec 64) => (r.cells.getD a ⟨0, 0⟩).total }

/-- The status words of the round passed on. -/
def Dev.passStatus : List RingStatus := r.status.mapIdx fun (j : Nat) (s : RingStatus) =>
  if j = d.myId then (d.passSent r).ownStatus s.seen else s

/-- The round passed on, but for its CRC. -/
def Dev.passedRound : Round := { r with
  status := d.passStatus r
  cells := r.cells.mapIdx fun (a : Nat) (c : RingCell) =>
    { c with collect := c.collect + ((d.passSettled r).contribute r.rnum).2.getD a 0 }
  slots := ownSlots d.myId (d.passTaken r).2 (d.passRead r).lanesSend.2.1 (d.passRead r).lanesSend.2.2 }

/-- The member once the round has passed, before its counts. -/
def Dev.passDone : Dev := ((d.passTotals r).applyTotals.setReg A.chnMembers (membersWord (d.passStatus r))).modChn fun c =>
  { c with lastRound := some (roundSealed true (d.passedRound r)) }

variable {d r}

theorem roundSync_of_good (h : roundGood r = true) : roundSync r = true := (Bool.and_eq_true_iff.1 h).1

theorem Dev.roundPass_member (hr : d.ringOn = true) (hm : d.isMaster = false) (hg : roundGood r = true)
    (hp : (r.status.getD d.myId noStatus).present = false) (hd : d.chn.dupId = false) :
    d.roundPass r = (d.passDone r).roundCount true := by
  rw [Dev.roundPass, hr, hm]
  change d.roundForward r = _
  rw [Dev.roundForward, hg, roundSync_of_good hg, hp]
  simp only [Bool.and_false, Bool.false_eq_true, if_false, hd, Bool.not_false, Bool.and_true, decide_eq_true_eq]
  rfl

variable (d r)

theorem Dev.passContributed_onlyBacklog : OnlyBacklog d (d.passContributed r) :=
  (settle_onlyBacklog d _ _).trans (contribute_onlyBacklog _ _)

/-- The slots and lanes of a round change messages alone. -/
theorem Dev.passSent_same : SameAggregation (d.passContributed r) (d.passSent r) :=
  ((takeSlots_same _ _).trans (lanesResult_same _ _)).trans (lanesSend_same _)

theorem Dev.passTotals_sameOutputs : SameOutputs d (d.passTotals r) :=
  ((d.passContributed_onlyBacklog r).toSameOutputs.trans (d.passSent_same r).toSameOutputs).trans ⟨rfl, rfl, rfl, rfl⟩

theorem Dev.up_passTotals : (d.passTotals r).chn.up = d.chn.up := (d.passSent_same r).up.trans (d.passContributed_onlyBacklog r).up

theorem Dev.chn_passDone : (d.passDone r).chn = { (d.passTotals r).chn with lastRound := some (roundSealed true (d.passedRound r)) } := by
  rw [← chn_applyTotals (d.passTotals r)]
  rfl

/-- What a member keeps of a round passed on, read after its counts. -/
theorem Dev.chn_passed : let e := (d.passDone r).roundCount true
    e.chn.lastRound = some (roundSealed true (d.passedRound r)) ∧ e.chn.total = (d.passTotals r).chn.total ∧
    e.chn.backlog = (d.passContributed r).chn.backlog ∧ e.chn.flight = (d.passContributed r).chn.flight := by
  obtain ⟨u, g, b, h⟩ := chn_roundCount (d.passDone r) true
  dsimp only
  rw [h, chn_passDone]
  exact ⟨rfl, rfl, (d.passSent_same r).backlog, (d.passSent_same r).flight⟩

variable {d r}

/-! A seal changes the CRC alone. These hold for any `ok`, since with `ok` given the kernel would compare the rounds by computing it. -/

theorem roundSealed_rnum (ok : Bool) (r : Round) : (roundSealed ok r).rnum = r.rnum := rfl
theorem roundSealed_okmap (ok : Bool) (r : Round) : (roundSealed ok r).okmap = r.okmap := rfl

theorem Dev.rnum_passedRound : (d.passedRound r).rnum = r.rnum := rfl
theorem Dev.okmap_passedRound : (d.passedRound r).okmap = r.okmap := rfl

theorem Dev.roundGood_passedRound (h : roundGood r = true) : roundGood (roundSealed true (d.passedRound r)) = true := by
  have hgot := roundSync_of_good h
  have hsync : roundSync (d.passedRound r) = true := hgot
  rw [roundGood_sealed, hsync, Bool.and_self]

theorem Dev.total_passTotals {a : Nat} (ha : a < 4) : (d.passTotals r).chn.total.getD a 0 = (r.cells.getD a ⟨0, 0⟩).total :=
  getD_mapIdx _ _ ha 0 0

theorem getD_mapIdx_list {α β : Type} (l : List α) (g : Nat → α → β) {i : Nat} (h : i < l.length) (x : α) (y : β) :
    (l.mapIdx g).getD i y = g i (l.getD i x) := by
  simp [List.getD_eq_getElem?_getD, h]

theorem Dev.total_passedRound (a : Nat) : ((d.passedRound r).cells.getD a ⟨0, 0⟩).total = (r.cells.getD a ⟨0, 0⟩).total := by
  by_cases h : a < r.cells.length <;> simp [Dev.passedRound, List.getD_eq_getElem?_getD, h]

theorem Round.cells_length (h : r.wf = true) : r.cells.length = 4 := by
  simp only [Round.wf, Bool.and_eq_true, decide_eq_true_eq] at h
  obtain ⟨⟨⟨⟨⟨-, hc⟩, -⟩, -⟩, -⟩, -⟩ := h
  exact hc

theorem Dev.collect_passedRound (hw : r.wf = true) {a : Nat} (ha : a < 4) : ((d.passedRound r).cells.getD a ⟨0, 0⟩).collect =
    (r.cells.getD a ⟨0, 0⟩).collect + ((d.passSettled r).contribute r.rnum).2.getD a 0 := by
  have hl : a < r.cells.length := by rw [Round.cells_length hw]; exact ha
  exact congrArg RingCell.collect (getD_mapIdx_list r.cells _ hl ⟨0, 0⟩ ⟨0, 0⟩)

/-- A member whose link is DOWN leaves the cells as they are. -/
theorem Dev.cells_passedRound_down (h : d.chn.up = false) : (d.passedRound r).cells = r.cells := by
  have hup : (d.passSettled r).chn.up = false := (settle_onlyBacklog d _ _).up.trans h
  change r.cells.mapIdx _ = r.cells
  rw [contribute_down hup]
  simp only [getD_replicate_zero, Int.add_zero]
  exact List.ext_getElem (List.length_mapIdx ..) fun i _ _ => List.getElem_mapIdx ..

/-- With nothing in flight and the link UP a member's contributions join the sums. -/
theorem Dev.passed_up (hf : d.chn.flight = []) (hup : d.chn.up = true) (hdup : d.chn.dupId = false) (hw : r.wf = true) {a : Nat}
    (ha : a < 4) : let v := wholeUnits (d.chn.backlog.getD a 0)
    ((d.passedRound r).cells.getD a ⟨0, 0⟩).collect = (r.cells.getD a ⟨0, 0⟩).collect + v ∧
      (d.passContributed r).chn.backlog.getD a 0 = d.chn.backlog.getD a 0 - v * 2 ^ 14 := by
  have hs := settle_onlyBacklog d r.rnum r.okmap
  have hu := hs.up.trans hup
  have hd := hs.dupId.trans hdup
  rw [collect_passedRound hw ha, ← backlog_settle_nil (rnum := r.rnum) (okmap := r.okmap) hf]
  exact ⟨congrArg _ (collect_contribute hu hd _ ha), backlog_contribute hu hd _ ha⟩

/-- With the link DOWN a single amount in flight is settled, and nothing new is sent. -/
theorem Dev.passed_down {f : Flight} (hf : d.chn.flight = [f]) (hup : d.chn.up = false) (hage : (r.rnum - 1 - f.rnum).toNat < 8) :
    (d.passContributed r).chn.flight = [] ∧ ∀ a < 4, (d.passContributed r).chn.backlog.getD a 0 =
      if a = f.ch.val ∧ r.okmap.getLsbD (r.rnum - 1 - f.rnum).toNat = false then mod96 (d.chn.backlog.getD a 0 + f.amount)
      else d.chn.backlog.getD a 0 := by
  have hnone : d.passContributed r = d.settle r.rnum r.okmap :=
    congrArg Prod.fst (contribute_down (d := d.passSettled r) ((settle_onlyBacklog d _ _).up.trans hup) r.rnum)
  rw [hnone]
  exact ⟨flight_settle d _ _, fun a ha => backlog_settle_single hf hage ha⟩

/-- An output that follows an aggregate channel, after a good round. -/
theorem Dev.out_passed (hup : d.chn.up = true) (hon : d.on 5 = true) {n : Nat} (hn : n < d.fuses.cfs) (hs : d.cfSrc n = true) :
    ((d.passDone r).roundCount true).out n =
      let t := (r.cells.getD (d.cfQ n % 4) ⟨0, 0⟩).total
      { d.out n with aggRef := some t, p := (d.out n).p + totalChange t (d.out n).aggRef } := by
  have ho := d.passTotals_sameOutputs r
  have hup' := (d.up_passTotals r).trans hup
  have hdone : (d.passDone r).chn.up = true := by rw [chn_passDone]; exact hup'
  rw [out_roundCount_good hdone]
  exact (out_applyTotals hup' ((ho.on 5).trans hon) (ho.cfs.symm ▸ hn)).trans
    (ho.followed_of_cfSrc hs (Dev.total_passTotals (Nat.mod_lt _ (by decide))))

end Forward

/-! ## The master receives a round (R553, R562) -/

section Receive
variable (d : Dev) (r : Round)

/-- The slots of a round that came with its SYNCW taken. -/
def Dev.gotSlots : Dev × List RingSlot := if roundSync r then d.takeSlots r.slots else (d, [])

theorem Dev.gotSlots_same : SameAggregation d (d.gotSlots r).1 := by
  unfold Dev.gotSlots
  split
  · exact takeSlots_same _ d
  · exact .refl

/-- A good round's sums added to the TOTALs. -/
def Dev.gotTotals : Dev := ((d.gotSlots r).1.lanesResult (d.gotSlots r).2).modChn fun c => { c with
  gotOk := true, present := r.status.map fun (s : RingStatus) => s.present
  total := c.total.mapIdx fun (a : Nat) (t : BitVec 64) => t + BitVec.ofInt 64 (r.cells.getD a ⟨0, 0⟩).collect }

/-- What a round received leaves, before its counts. -/
def Dev.gotDone : Dev :=
  (if roundGood r then (d.gotTotals r).applyTotals.setReg A.chnMembers (membersWord r.status) else (d.gotSlots r).1).modChn fun c =>
    { c with slotsRx := (d.gotSlots r).2 }

variable {d r}

theorem Dev.roundPass_master (hr : d.ringOn = true) (hm : d.isMaster = true) :
    d.roundPass r = (d.gotDone r).roundCount (roundGood r) := by
  rw [Dev.roundPass, hr, hm]
  rfl

theorem Dev.totals_roundCount (d : Dev) (ok : Bool) :
    (d.roundCount ok).chn.gotOk = d.chn.gotOk ∧ (d.roundCount ok).chn.total = d.chn.total := by
  obtain ⟨u, g, b, h⟩ := chn_roundCount d ok
  rw [h]
  exact ⟨rfl, rfl⟩

theorem Dev.received_good (hg : roundGood r = true) : (d.gotDone r).chn.gotOk = true ∧ ∀ a < 4,
    (d.gotDone r).chn.total.getD a 0 = d.chn.total.getD a 0 + BitVec.ofInt 64 (r.cells.getD a ⟨0, 0⟩).collect := by
  have hchn : (d.gotDone r).chn = { (d.gotTotals r).chn with slotsRx := (d.gotSlots r).2 } := by
    rw [← chn_applyTotals (d.gotTotals r), gotDone, hg]
    rfl
  rw [hchn, ← ((d.gotSlots_same r).trans (lanesResult_same _ (d.gotSlots r).2)).total]
  exact ⟨rfl, fun a ha => getD_mapIdx _ _ ha 0 0⟩

theorem Dev.received_bad (hg : roundGood r = false) :
    (d.gotDone r).chn.gotOk = d.chn.gotOk ∧ (d.gotDone r).chn.total = d.chn.total := by
  rw [gotDone, hg]
  exact ⟨(d.gotSlots_same r).gotOk, (d.gotSlots_same r).total⟩

end Receive

/-! ## The statement -/

theorem exec_roundPass {s : State} {r : Round} {e : Dev} (hup : s.chip.dev.held = false) (h : s.chip.dev.roundPass r = e) :
    exec (.roundPass r) s = .next (s.to e) := by
  subst h
  exact State.device_of_up hup _

/-- Settles O55, clause by clause: the round the master starts, the round a member passes on, the round the master receives. That OKMAP is
resolved before the contribution, the truncation toward zero and the age of eight rounds are log entry 27. -/
theorem chainAggregation : Obligations.ChainAggregation := by
  unfold Obligations.ChainAggregation
  refine ⟨fun s hup => ⟨fun h => ?idle, fun hm hr => ⟨s.to s.chip.dev.roundStart, roundSealed true s.chip.dev.startedRound,
    State.device_of_up hup _, ?start⟩⟩, fun s r => ?member, fun s r hup hr hm => ?master⟩
  case idle =>
    have hexec : exec .roundStart s = .next (s.to s.chip.dev.roundStart) := State.device_of_up hup _
    rw [hexec, Dev.roundStart_idle h]
    rfl
  case start =>
    rw [State.to_dev, State.to_nvm, Dev.roundStart_sends hm hr]
    exact ⟨rfl, Dev.roundGood_startedRound _, rfl, Dev.rnum_startSent _, fun k hk => Dev.getLsbD_nextOkmap _ hk, Dev.gotOk_startSent _,
      fun a ha => congrArg RingCell.total (Dev.getD_cells_startedRound ha),
      fun hf hu hd a ha => Dev.startedRound_up hf hu hd ha, fun hu => Dev.startedRound_down hu, rfl⟩
  case member =>
    intro d member ⟨hup, hr, hm, hg, hp, hd, hw⟩
    obtain ⟨hlast, htotal, hback, hflight⟩ := d.chn_passed r
    refine ⟨_, roundSealed true (d.passedRound r), exec_roundPass hup (Dev.roundPass_member hr hm hg hp hd), ?_⟩
    rw [State.to_dev, hlast, htotal, hback, hflight]
    exact ⟨rfl, (roundSealed_rnum ..).trans Dev.rnum_passedRound, (roundSealed_okmap ..).trans Dev.okmap_passedRound,
      Dev.roundGood_passedRound hg, fun a => ⟨Dev.total_passTotals a.isLt, Dev.total_passedRound a.val⟩,
      fun hf hu a ha => Dev.passed_up hf hu hd hw ha, Dev.cells_passedRound_down, fun f hf hu hage => Dev.passed_down hf hu hage,
      fun hu hon n hn hs => by rw [Dev.out_passed hu hon hn hs]; exact ⟨rfl, rfl⟩⟩
  case master =>
    refine ⟨fun hg => ⟨_, exec_roundPass hup (Dev.roundPass_master hr hm), ?good⟩,
      fun hg => ⟨_, exec_roundPass hup (Dev.roundPass_master hr hm), ?bad⟩⟩
    all_goals
      obtain ⟨hok, htotal⟩ := (s.chip.dev.gotDone r).totals_roundCount (roundGood r)
      rw [State.to_dev, hok, htotal]
    case good =>
      obtain ⟨hgot, hsum⟩ := Dev.received_good hg
      exact ⟨hgot, fun a => hsum a.val a.isLt⟩
    case bad => exact Dev.received_bad hg

end Sys2Proof.Machine
end

section
/-! What the upkeep of the array leaves as it is — pages opened, closed, remapped, scrubbed: the records of the security block in the
system region, the caches of the ratchet counters, and the device outside the block of the store (R408, R415, R427, R428). -/
namespace Sys2Proof.Machine

/-- What the store keeps for the security block (R408): the keys, the copies of the protection map and of the seal, the event log, and
the values of the ratchet counters. -/
structure SecStore where
  keys : SMap (BitVec 256)
  pmapA : Copy (List Word)
  pmapB : Copy (List Word)
  sealA : Copy Bool
  sealB : Copy Bool
  log : List LogEntry
  cache : Vector (BitVec 64 × Nat × Bool × Nat × Bool) 16

namespace Nvm
variable (n : Nvm)

def secStore : SecStore := ⟨n.keys, n.pmapA, n.pmapB, n.sealA, n.sealB, n.log, n.cache⟩

/-- Bytes written change the bytes of the array alone. -/
theorem putBytes_shape (l : List Byte) : ∀ (n : Nvm) (a : Nat), ∃ x, n.putBytes a l = { n with mem := x } := by
  induction l with
  | nil => exact fun n _ => ⟨n.mem, rfl⟩
  | cons b l ih =>
    intro n a
    obtain ⟨x, hx⟩ := ih (n.putByte a b) (a + 1)
    exact ⟨x, hx⟩

@[simp] theorem secStore_putBytes (a : Nat) (l : List Byte) : (n.putBytes a l).secStore = n.secStore := by
  obtain ⟨x, hx⟩ := putBytes_shape l n a
  rw [hx]
  rfl

@[simp] theorem secStore_pulse : n.pulse.secStore = n.secStore := rfl
@[simp] theorem secStore_setPage (ph : Nat) (x : PageState) : (n.setPage ph x).secStore = n.secStore := rfl
@[simp] theorem secStore_setErrs (ph : Nat) (e : CwErrs) : (n.setErrs ph e).secStore = n.secStore := rfl

@[simp] theorem secStore_clearErr (ph k : Nat) : (n.clearErr ph k).secStore = n.secStore := by unfold Nvm.clearErr; split <;> rfl

@[simp] theorem secStore_found (ph : Nat) (e : CwErrs) : (n.found ph e).secStore = n.secStore := by unfold Nvm.found; split <;> rfl

@[simp] theorem secStore_settle (ph : Nat) (held : Bool) : (n.settle ph held).secStore = n.secStore := by
  unfold Nvm.settle
  dsimp only
  split
  · rfl
  · split
    · rfl
    · rw [secStore_setErrs, secStore_putBytes]

@[simp] theorem secStore_closeCw (ph : Nat) : (n.closeCw ph).secStore = n.secStore := by simp [Nvm.closeCw]

@[simp] theorem secStore_closeOpen : n.closeOpen.secStore = n.secStore := by
  unfold Nvm.closeOpen
  split
  · rfl
  · exact secStore_closeCw _ _

theorem secStore_foldl {α : Type} {f : Nvm → α → Nvm} (h : ∀ n a, (f n a).secStore = n.secStore) (l : List α) :
    ∀ n : Nvm, (l.foldl f n).secStore = n.secStore := by
  induction l with
  | nil => exact fun _ => rfl
  | cons a l ih => exact fun n => (ih _).trans (h n a)

theorem secStore_putCw (ph k start : Nat) (l : List Byte) : (n.putCw ph k start l).secStore = n.secStore := by
  unfold Nvm.putCw
  dsimp only
  split <;> simp

@[simp] theorem secStore_storeIn (ph off : Nat) (l : List Byte) : (n.storeIn ph off l).secStore = n.secStore :=
  secStore_foldl (fun _ _ => secStore_putCw _ _ _ _ _) _ n

end Nvm

/-- `e` is `d` but for the registers of the block of the store and the free values drawn. -/
structure Dev.SameBesideStore (d e : Dev) : Prop extends Dev.SameOutside 0x100000 0x110000 d e where
  inst : e.inst = d.inst
  sess : e.sess = d.sess

namespace Dev.SameBesideStore
variable {d e f : Dev}

theorem refl : SameBesideStore d d := ⟨.refl, rfl, rfl⟩

theorem trans (h : SameBesideStore d e) (h' : SameBesideStore e f) : SameBesideStore d f :=
  ⟨h.toSameOutside.trans h'.toSameOutside, h'.inst.trans h.inst, h'.sess.trans h.sess⟩

theorem setReg {a : Nat} (h : 0x100000 ≤ a ∧ a < 0x110000) (w : Word) : SameBesideStore d (d.setReg a w) := ⟨.setReg h w, rfl, rfl⟩

theorem raiseSq {a : Nat} (h : 0x100000 ≤ a ∧ a < 0x110000) (bits : Nat) : SameBesideStore d (d.raiseSq a bits) := setReg h _

theorem count {a : Nat} (h : 0x100000 ≤ a ∧ a < 0x110000) (hi lo n : Nat) : SameBesideStore d (d.count a hi lo n) := setReg h _

theorem raiseIf {a : Nat} (h : 0x100000 ≤ a ∧ a < 0x110000) (c : Bool) (bits : Nat) : SameBesideStore d (d.raiseIf c a bits) := by
  cases c
  · exact refl
  · exact raiseSq h bits

theorem free : SameBesideStore d d.free.2 := ⟨⟨rfl, rfl, rfl, fun _ _ => rfl, fun _ => rfl, fun _ => rfl, fun _ => rfl⟩, rfl, rfl⟩

theorem pageCounts (r : PageRead) (torn : Bool) (f : Nat → Bool) : SameBesideStore d (d.pageCounts r torn f) := by
  have houter (e : Dev) : SameBesideStore e (if r.outer = 0 then e else e.count A.nvmEccouter 31 0 1) := by
    split
    · exact refl
    · exact count (by decide) _ _ _
  exact ((((count (by decide) _ _ _).trans (houter _)).trans (raiseIf (by decide) _ _)).trans (count (by decide) _ _ _)).trans
    (raiseIf (by decide) _ _)

theorem ireg (h : SameBesideStore d e) (m a : Nat) : e.ireg m a = d.ireg m a := by rw [Dev.ireg, h.inst, Dev.ireg]

theorem sessState (h : SameBesideStore d e) (m : Nat) : e.sessState m = d.sessState m := congrArg (fld · 23 20) (h.ireg m _)

theorem session (h : SameBesideStore d e) (m : Nat) : e.session m = d.session m := by rw [Dev.session, h.sess, Dev.session]

theorem sessLevel (h : SameBesideStore d e) (m : Nat) : e.sessLevel m = d.sessLevel m := by
  rw [Dev.sessLevel, h.sessState, h.session, Dev.sessLevel]

theorem regAt (h : SameBesideStore d e) {a : Nat} (ha : a < 0x100000) : e.reg a = d.reg a := h.reg a (.inl ha)

theorem level (h : SameBesideStore d e) (m : Nat) : e.level m = d.level m := by
  simp only [Dev.level, Dev.rf, h.regAt (show A.secLevel < 0x100000 by decide)]

theorem pmap (h : SameBesideStore d e) {n : Nat} (hn : n < 6) : e.pmap n = d.pmap n := by
  rw [Dev.pmap, h.fuses, h.regAt (by unfold A.secPMAPn; omega), Dev.pmap]

end Dev.SameBesideStore

/-- An upkeep of the array: what the security block keeps stays, and so does the device beside the block of the store. -/
structure Chip.Upkeep (c c' : Chip) : Prop where
  dev : Dev.SameBesideStore c.dev c'.dev
  nvm : c'.nvm.secStore = c.nvm.secStore

namespace Chip
variable (c : Chip)

theorem Upkeep.refl {c : Chip} : Upkeep c c := ⟨.refl, rfl⟩

theorem Upkeep.trans {c c' c'' : Chip} (h : Upkeep c c') (h' : Upkeep c' c'') : Upkeep c c'' :=
  ⟨h.dev.trans h'.dev, h'.nvm.trans h.nvm⟩

theorem Upkeep.onNvm {c : Chip} {f : Nvm → Nvm} (h : (f c.nvm).secStore = c.nvm.secStore) : Upkeep c (c.onNvm f) := ⟨.refl, h⟩

theorem Upkeep.onDev {c : Chip} {f : Dev → Dev} (h : Dev.SameBesideStore c.dev (f c.dev)) : Upkeep c (c.onDev f) := ⟨h, rfl⟩

theorem Upkeep.foldl {α : Type} {f : Chip → α → Chip} (h : ∀ c a, Upkeep c (f c a)) (l : List α) : ∀ c : Chip, Upkeep c (l.foldl f c) := by
  induction l with
  | nil => exact fun _ => refl
  | cons a l ih => exact fun c => (h c a).trans (ih _)

theorem upkeep_closeOpen : Upkeep c (c.onNvm Nvm.closeOpen) := .onNvm (Nvm.secStore_closeOpen _)

theorem upkeep_openCw (ph : Nat) : Upkeep c (c.openCw ph) := by
  unfold Chip.openCw
  constructor
  · dsimp only
    split
    · exact .count (by decide) _ _ _
    · exact .refl
  · dsimp only
    split <;> simp

theorem upkeep_openFor (p : Nat) : Upkeep c (c.openFor p) := by
  unfold Chip.openFor
  split
  · exact .refl
  · exact c.upkeep_closeOpen.trans ((upkeep_openCw _ _).trans (.onNvm rfl))

theorem upkeep_readPage (p : Nat) (e : CwErrs) (f : Nat → Bool) : Upkeep c (c.readPage p e f).2 :=
  ⟨.pageCounts _ _ f, Nvm.secStore_found _ _ _⟩

theorem upkeep_fillSpare (s : Nat) (l : List Byte) : Upkeep c (c.fillSpare s l) := (upkeep_openCw c _).trans (.onNvm (by simp))

theorem upkeep_mapSpare (p s : Nat) : Upkeep c (c.mapSpare p s) := ⟨.raiseSq (by decide) _, rfl⟩

theorem upkeep_remapWait (p : Nat) : Upkeep c (c.remapWait p) := by
  unfold Chip.remapWait Chip.remapFinish
  split
  · split
    · exact .refl
    · exact upkeep_mapSpare c _ _
  · exact .refl

theorem upkeep_rewritePage (ph : Nat) : Upkeep c (c.rewritePage ph) := by
  refine (upkeep_openCw c ph).trans (.onNvm ((Nvm.secStore_closeCw _ _).trans (Nvm.secStore_foldl (fun n k => ?_) _ _)))
  split
  · rfl
  · exact Nvm.secStore_clearErr _ _ _

theorem upkeep_tally (a b k : Nat) : Upkeep c (c.onNvm (·.tally a b k)) := ⟨.refl, rfl⟩

theorem upkeep_scrubPage (p : Nat) : Upkeep c (c.scrubPage p) := by
  have hwait := upkeep_remapWait c p
  have hread := hwait.trans (upkeep_readPage _ p [] fun _ => false)
  unfold Chip.scrubPage
  dsimp only
  split
  · exact hwait
  · split
    · exact hread.trans (upkeep_tally _ _ _ _)
    · split
      · exact hread
      · split
        · exact (hread.trans (upkeep_rewritePage _ _)).trans (upkeep_tally _ _ _ _)
        · split
          · exact hread.trans (.onDev (.raiseSq (by decide) _))
          · exact ((hread.trans (upkeep_fillSpare _ _ _)).trans (upkeep_mapSpare _ _ _)).trans (upkeep_tally _ _ _ _)

theorem upkeep_scrubTo (upto : Nat) : Upkeep c (c.scrubTo upto) := by
  unfold Chip.scrubTo
  split
  · exact .refl
  · exact (c.upkeep_closeOpen.trans (Upkeep.foldl (fun _ _ => upkeep_scrubPage _ _) _ _)).trans (.onNvm rfl)

theorem upkeep_scrubMeet (p : Nat) : Upkeep c (c.scrubMeet p) := by
  have hfree : Upkeep c { c with dev := c.dev.free.2 } := ⟨.free, rfl⟩
  unfold Chip.scrubMeet
  dsimp only
  split
  · exact .refl
  · split
    · exact hfree
    · exact hfree.trans ((Upkeep.onNvm rfl).trans (upkeep_scrubTo _ _))
    · exact hfree.trans (upkeep_scrubTo _ _)

theorem upkeep_sysOpened (r : SysRec) : Upkeep c (c.sysOpened r) :=
  ((c.upkeep_closeOpen.trans (upkeep_remapWait _ _)).trans (upkeep_scrubMeet _ _)).trans (upkeep_openFor _ _)

/-- Storing a record leaves the device beside the block of the store. -/
theorem sysStore_besideStore (r : SysRec) (torn : List (Stored → Stored)) (full : Stored → Stored) :
    Dev.SameBesideStore c.dev (c.sysStore r torn full).dev := by
  rw [sysStore_dev]
  exact (c.upkeep_sysOpened r).dev

/-- What the security block keeps becomes what the record's own change makes of it. -/
theorem secStore_sysStore (r : SysRec) (torn : List (Stored → Stored)) (full : Stored → Stored) : ∃ n : Nvm,
    n.secStore = c.nvm.secStore ∧ (c.sysStore r torn full).nvm.secStore = ({ n with toStored := full n.toStored } : Nvm).secStore := by
  obtain ⟨k, hk⟩ := c.sysStore_nvm r torn full
  have hw : (c.sysWritten r torn).secStore = c.nvm.secStore :=
    (Nvm.secStore_putBytes _ _ _).trans ((Nvm.secStore_foldl (f := Nvm.pulseBy) (fun _ _ => rfl) torn _).trans (c.upkeep_sysOpened r).nvm)
  generalize c.sysWritten r torn = w at hk hw
  refine ⟨w, hw, ?_⟩
  rw [hk, Nvm.secStore_closeOpen]
  rfl

end Chip
end Sys2Proof.Machine
end

section
/-! The ratchet counters and the event log (R430-R432, R583, R584): what an increment counts, what an entry holds, and what both leave
of the rest of the store. -/
namespace Sys2Proof.Machine

/-! ## Increments (R432) -/

/-- The cache of one counter replaced. -/
def SecStore.setCache (x : SecStore) (i : Nat) (v : BitVec 64 × Nat × Bool × Nat × Bool) : SecStore :=
  { x with cache := x.cache.setIfInBounds i v }

namespace Nvm
variable (n : Nvm) {i : Nat}

theorem rcCache_of_secStore {n n' : Nvm} (h : n'.secStore = n.secStore) (i : Nat) : n'.rcCache i = n.rcCache i :=
  congrArg (fun x : SecStore => x.cache.getD i (0, 0, false, 0, false)) h

/-- A counter is read from the caches. -/
theorem rc_of_secStore {n n' : Nvm} (h : n'.secStore = n.secStore) (i : Nat) : n'.rc i = n.rc i := by
  rw [Nvm.rc, rcCache_of_secStore h, Nvm.rc]

/-- Codewords of counters are written: only they and the pulses change. -/
def WritesCounters (n n' : Nvm) : Prop := ∃ r f, n' = { n with counters := r, flight := f }

theorem WritesCounters.trans {n n' n'' : Nvm} (h : WritesCounters n n') (h' : WritesCounters n' n'') : WritesCounters n n'' := by
  obtain ⟨r, f, rfl⟩ := h
  obtain ⟨r', f', rfl⟩ := h'
  exact ⟨r', f', rfl⟩

theorem writesCounters_putRatchet (i w : Nat) (f : Ratchet → Ratchet) : WritesCounters n (n.putRatchet i w f) := ⟨_, _, rfl⟩

theorem writesCounters_putCell (i k gen : Nat) : WritesCounters n (n.putCell i k gen) := writesCounters_putRatchet _ _ _ _

theorem writesCounters_putSlot (i s : Nat) (v : BitVec 64 × BitVec 64) : WritesCounters n (n.putSlot i s v) := by
  unfold Nvm.putSlot
  exact (writesCounters_putRatchet _ _ _ _).trans (writesCounters_putRatchet _ _ _ _)

/-- An increment closes the open page, writes codewords of its counter, and replaces the counter's cache by one that reads one more. -/
theorem increment_shape (i : Nat) : ∃ n' v, WritesCounters n.closeOpen n' ∧
    n.increment i = { n' with cache := n.closeOpen.cache.setIfInBounds i v } ∧
      (v.1.toNat + v.2.2.2.1) % 2 ^ 64 = (n.closeOpen.rc i + 1) % 2 ^ 64 := by
  unfold Nvm.increment Nvm.rc
  dsimp only
  split
  case isTrue => exact ⟨_, _, writesCounters_putCell _ _ _ _, rfl, by simp only [← Nat.add_assoc, Nat.mod_add_mod]⟩
  case isFalse =>
    exact ⟨_, _, (writesCounters_putSlot _ _ _ _).trans (writesCounters_putCell _ _ _ _), rfl, by rw [slotMake, BitVec.toNat_ofNat]⟩

theorem secStore_increment (i : Nat) : ∃ v : BitVec 64 × Nat × Bool × Nat × Bool,
    (n.increment i).secStore = n.secStore.setCache i v ∧ (v.1.toNat + v.2.2.2.1) % 2 ^ 64 = (n.rc i + 1) % 2 ^ 64 := by
  obtain ⟨_, v, ⟨r, f, rfl⟩, h, hv⟩ := n.increment_shape i
  rw [rc_of_secStore n.secStore_closeOpen] at hv
  rw [h, ← n.secStore_closeOpen]
  exact ⟨v, rfl, hv⟩

/-- A counter after an increment of one of the sixteen (R430, R432). -/
theorem rc_increment (hi : i < 16) (j : Nat) : (n.increment i).rc j = if j = i then (n.rc i + 1) % 2 ^ 64 else n.rc j := by
  obtain ⟨x, hx, hsum⟩ := n.secStore_increment i
  have hcache : (n.increment i).rcCache j = if i = j ∧ j < 16 then x else n.rcCache j := by
    refine (congrArg (fun y : SecStore => y.cache.getD j (0, 0, false, 0, false)) hx).trans ?_
    exact getD_setIfInBounds ..
  rw [Nvm.rc, hcache]
  by_cases h : j = i
  · subst h
    rw [if_pos ⟨rfl, hi⟩, if_pos rfl, hsum]
  · rw [if_neg fun hij => h hij.1.symm, if_neg h, Nvm.rc]

end Nvm

/-! ## Where every codeword reads clean and neither a remap nor a scrub goes on (R408) -/

namespace Nvm

/-- No codeword reads wrong, and neither a scrub nor a remap is in progress. -/
structure Calm (n : Nvm) : Prop where
  errs : n.errs = []
  scrubbing : n.scrubbing = false
  remapRun : n.remapRun = none

/-- From a calm store a step leads to a calm one with the same pages, and writes no byte outside the pages of some records. -/
structure WritesOnly (l : List SysRec) (n n' : Nvm) : Prop where
  calm : n.Calm → n'.Calm
  remapNow : n.Calm → n'.remapNow = n.remapNow
  byteAt : n.Calm → ∀ a, (∀ r ∈ l, a / 256 ≠ n.phys r.page) → n'.byteAt a = n.byteAt a

variable {l l' : List SysRec} {n n' n'' : Nvm}

theorem WritesOnly.keeps (h : WritesOnly l n n') : n.keeps n' l := fun herrs hscrub hrun => h.byteAt ⟨herrs, hscrub, hrun⟩

theorem WritesOnly.trans (h : WritesOnly l n n') (h' : WritesOnly l' n' n'') : WritesOnly (l ++ l') n n'' where
  calm hn := h'.calm (h.calm hn)
  remapNow hn := (h'.remapNow (h.calm hn)).trans (h.remapNow hn)
  byteAt hn a ha := by
    have hphys (p : Nat) : n'.phys p = n.phys p := by rw [Nvm.phys, h.remapNow hn, Nvm.phys]
    refine (h'.byteAt (h.calm hn) a fun r hr => ?_).trans (h.byteAt hn a fun r hr => ha r (List.mem_append_left _ hr))
    rw [hphys]
    exact ha r (List.mem_append_right _ hr)

theorem WritesOnly.of_sameArray (h : n.errs = [] → SameArray n n') : WritesOnly [] n n' where
  calm hn := ⟨(h hn.errs).errs.trans hn.errs, (h hn.errs).scrubbing.trans hn.scrubbing, (h hn.errs).remapRun.trans hn.remapRun⟩
  remapNow hn := (h hn.errs).remapNow
  byteAt hn a _ := (h hn.errs).byteAt a

/-- The counters stand beside the pages: an increment writes none of their bytes. -/
theorem sameArray_increment (h : n.errs = []) (i : Nat) : SameArray n (n.increment i) := by
  obtain ⟨_, v, ⟨r, f, rfl⟩, hn, -⟩ := n.increment_shape i
  have hclose := sameArray_closeOpen h
  rw [hn]
  exact ⟨hclose.mem, hclose.errs, hclose.remapNow, hclose.remapRun, hclose.scrubbing⟩

theorem writesOnly_increment (n : Nvm) (i : Nat) : WritesOnly [] n (n.increment i) := .of_sameArray fun h => sameArray_increment h i

end Nvm

namespace Chip
variable (c : Chip)

/-- A record's page that is written leaves a calm store calm. -/
theorem calm_sysWritten (hn : c.nvm.Calm) (r : SysRec) (torn : List (Stored → Stored)) :
    (c.sysWritten r torn).Calm ∧ (c.sysWritten r torn).remapNow = c.nvm.remapNow := by
  have hclose := Nvm.sameArray_closeOpen hn.errs
  have hopen : Nvm.SameArray c.nvm (c.sysOpened r).nvm := by
    rw [sysOpened_calm hn.remapRun hn.scrubbing hn.errs]
    exact hclose.trans (sameArray_openFor (c := c.onNvm Nvm.closeOpen) (hclose.errs.trans hn.errs) r.page)
  have hpulse := (hopen.trans (foldl_pulseBy torn _)).trans (Nvm.sameArray_pulse _)
  obtain ⟨x, hx⟩ : ∃ x, c.sysWritten r torn = { (torn.foldl Nvm.pulseBy (c.sysOpened r).nvm).pulse with mem := x } :=
    Nvm.putBytes_shape _ _ _
  rw [hx]
  exact ⟨⟨hpulse.errs.trans hn.errs, hpulse.scrubbing.trans hn.scrubbing, hpulse.remapRun.trans hn.remapRun⟩, hpulse.remapNow⟩

/-- Storing a record writes its own page. -/
theorem writesOnly_sysStore (r : SysRec) (torn : List (Stored → Stored)) {full : Stored → Stored}
    (hfull : ∀ x, (full x).mem = x.mem ∧ (full x).errs = x.errs) :
    Nvm.WritesOnly [r] c.nvm (c.sysStore r torn full).nvm := by
  have htable (hn : c.nvm.Calm) : (c.sysStore r torn full).nvm.Calm ∧ (c.sysStore r torn full).nvm.remapNow = c.nvm.remapNow := by
    obtain ⟨k, hk⟩ := c.sysStore_nvm r torn full
    obtain ⟨hw, hnow⟩ := c.calm_sysWritten hn r torn
    generalize c.sysWritten r torn = w at hk hw hnow
    have herrs : ({ w with toStored := full w.toStored, sysStores := k } : Nvm).errs = [] := (hfull _).2.trans hw.errs
    have hlast := Nvm.sameArray_closeOpen herrs
    rw [hk]
    exact ⟨⟨hlast.errs.trans herrs, hlast.scrubbing.trans hw.scrubbing, hlast.remapRun.trans hw.remapRun⟩, hlast.remapNow.trans hnow⟩
  exact ⟨fun hn => (htable hn).1, fun hn => (htable hn).2, fun hn a ha =>
    byteAt_sysStore_calm r torn hn.remapRun hn.scrubbing hn.errs hfull (ha r (List.mem_singleton_self r))⟩

/-! ## An entry of the event log (R584) -/

/-- The bytes that the CRC of an entry covers. -/
def logBody (c : Chip) (kind m level arg : Nat) : List Byte :=
  leBytes 8 (c.nvm.rc 1) ++ [BitVec.ofNat 8 kind, BitVec.ofNat 8 m, BitVec.ofNat 8 level, BitVec.ofNat 8 arg] ++
    leBytes 8 (c.nvm.rc 0) ++ c.dev.logCalendar ++ [BitVec.ofNat 8 (c.dev.rb A.rtcStat 15).toNat]

/-- The entry as it is stored. -/
def logBytes (c : Chip) (kind m level arg : Nat) : LogEntry :=
  c.logBody kind m level arg ++ leBytes 4 (crc32c (c.logBody kind m level arg)).toNat

variable (kind m level arg : Nat)

/-- What an entry makes of the stored log: the newest 64 stay (R584). -/
def addEntry (e : LogEntry) (x : Stored) : Stored := { x with log := (x.log ++ [e]).drop (x.log.length - 63) }

theorem log_eq : c.log kind m level arg = (c.increment 1).sysStore .log [fun x => { x with log := x.log.drop (x.log.length - 63) }]
    (addEntry ((c.increment 1).logBytes kind m level arg)) := rfl

/-- Of what the security block keeps, an entry adds to the log and counts in RC1. -/
theorem secStore_log : (c.log kind m level arg).nvm.secStore = { (c.nvm.increment 1).secStore with
    log := (c.nvm.log ++ [(c.increment 1).logBytes kind m level arg]).drop (c.nvm.log.length - 63) } := by
  obtain ⟨n, hn, h⟩ := (c.increment 1).secStore_sysStore .log [fun x => { x with log := x.log.drop (x.log.length - 63) }]
    (addEntry ((c.increment 1).logBytes kind m level arg))
  obtain ⟨x, hx, -⟩ := c.nvm.secStore_increment 1
  have hlog : n.log = c.nvm.log := (congrArg SecStore.log hn).trans (congrArg SecStore.log hx)
  rw [log_eq, h, ← hlog]
  exact congrArg (fun y : SecStore =>
    { y with log := (n.log ++ [(c.increment 1).logBytes kind m level arg]).drop (n.log.length - 63) }) hn

theorem log_besideStore : Dev.SameBesideStore c.dev (c.log kind m level arg).dev := by
  rw [log_eq]
  exact Dev.SameBesideStore.trans (.raiseSq (by decide) _) (sysStore_besideStore (c.increment 1) _ _ _)

theorem writesOnly_log : Nvm.WritesOnly [.log] c.nvm (c.log kind m level arg).nvm := by
  rw [log_eq]
  exact (Nvm.writesOnly_increment c.nvm 1).trans (writesOnly_sysStore (c.increment 1) _ _ fun _ => ⟨rfl, rfl⟩)

/-- An entry in the log leaves every counter but RC1. -/
theorem rc_log (j : Nat) : (c.log kind m level arg).nvm.rc j = (c.nvm.increment 1).rc j := by
  have h : (c.log kind m level arg).nvm.cache = (c.nvm.increment 1).cache := congrArg SecStore.cache (c.secStore_log kind m level arg)
  rw [Nvm.rc, Nvm.rcCache, h, Nvm.rc, Nvm.rcCache]

theorem rc_log_zero : (c.log kind m level arg).nvm.rc 0 = c.nvm.rc 0 := by
  rw [rc_log, Nvm.rc_increment _ (by decide), if_neg (by decide)]

theorem leBytes_length (k : Nat) : ∀ v, (leBytes k v).length = k := by
  induction k with
  | zero => exact fun _ => rfl
  | succ k ih => exact fun v => congrArg (· + 1) (ih _)

theorem logCalendar_length (d : Dev) : d.logCalendar.length = 7 := rfl

theorem logBody_length : (c.logBody kind m level arg).length = 28 := by
  simp [logBody, leBytes_length, logCalendar_length]

/-- An entry that is written is the newest, with the counters as they stand after it (R584). -/
theorem logs_log : c.logs (c.log kind m level arg) kind m level arg := by
  have hbody := (c.increment 1).logBody_length kind m level arg
  have hrc0 := c.rc_log kind m level arg 0
  have hrc1 := c.rc_log kind m level arg 1
  have hlast : (c.log kind m level arg).nvm.log = (c.nvm.log ++ [(c.increment 1).logBytes kind m level arg]).drop (c.nvm.log.length - 63) :=
    congrArg SecStore.log (c.secStore_log kind m level arg)
  refine ⟨by rw [hrc1, Nvm.rc_increment _ (by decide), if_pos rfl], (c.increment 1).logBytes kind m level arg, ?_, ?_, ?_, ?_, ?_⟩
  · rw [hlast, List.getLast?_drop, if_neg (by rw [List.length_append, List.length_singleton]; omega), List.getLast?_concat]
  · rw [hrc1]; rfl
  · rfl
  · rw [hrc0]; rfl
  · rw [logBytes, List.take_left' hbody, List.drop_left' hbody]

/-- Whether an entry was written depends on the counters before, and on what the store keeps after. -/
theorem logs_of_secStore {c c' e e' : Chip} (h : c.logs c' kind m level arg) (hc : e.nvm.rc 1 = c.nvm.rc 1)
    (hc' : e'.nvm.secStore = c'.nvm.secStore) : e.logs e' kind m level arg := by
  have hlog : e'.nvm.log = c'.nvm.log := congrArg SecStore.log hc'
  rw [Chip.logs, hc, Nvm.rc_of_secStore hc' 1, Nvm.rc_of_secStore hc' 0, hlog]
  exact h

end Chip
end Sys2Proof.Machine
end

section
/-! A change of what the seal protects is counted in RC0, noted in the session's mask, and its record stored (R581, R583, R584): what
the device, the counters and the array hold after it, and after its entry in the log. -/
namespace Sys2Proof.Machine

/-! ## The mask of a session (R584) -/

namespace Dev
variable (d : Dev) (m bits : Nat)

theorem markChange_shape : ∃ x, d.markChange m bits = { d with sess := x } := by
  unfold Dev.markChange
  split
  · exact ⟨_, rfl⟩
  · exact ⟨d.sess, rfl⟩

@[simp] theorem reg_markChange (a : Nat) : (d.markChange m bits).reg a = d.reg a := by
  obtain ⟨x, hx⟩ := d.markChange_shape m bits; rw [hx]; rfl

@[simp] theorem ireg_markChange (k a : Nat) : (d.markChange m bits).ireg k a = d.ireg k a := by
  obtain ⟨x, hx⟩ := d.markChange_shape m bits; rw [hx]; rfl

@[simp] theorem fuses_markChange : (d.markChange m bits).fuses = d.fuses := by
  obtain ⟨x, hx⟩ := d.markChange_shape m bits; rw [hx]

@[simp] theorem engines_markChange : (d.markChange m bits).engines = d.engines := by
  obtain ⟨x, hx⟩ := d.markChange_shape m bits; rw [hx]

@[simp] theorem mbox_markChange : (d.markChange m bits).mbox = d.mbox := by
  obtain ⟨x, hx⟩ := d.markChange_shape m bits; rw [hx]

@[simp] theorem sessState_markChange (k : Nat) : (d.markChange m bits).sessState k = d.sessState k :=
  congrArg (fld · 23 20) (d.ireg_markChange m bits k _)

/-- An open session notes the kind of change. -/
theorem session_markChange (h : d.sessState m = 2) :
    (d.markChange m bits).session m = { d.session m with mask := (d.session m).mask ||| BitVec.ofNat 4 bits } := by
  rw [Dev.markChange, if_pos h]
  simp [Dev.session, SMap.get_eq_find]

theorem mask_markChange (h : d.sessState m = 2) :
    ((d.markChange m bits).session m).mask = (d.session m).mask ||| BitVec.ofNat 4 bits := by rw [d.session_markChange m bits h]

@[simp] theorem sessLevel_markChange : (d.markChange m bits).sessLevel m = d.sessLevel m := by
  by_cases h : d.sessState m = 2
  · simp [Dev.sessLevel, h, d.session_markChange m bits h]
  · simp [Dev.sessLevel, h]

end Dev

theorem Dev.SameBesideStore.markChange {d e : Dev} (h : SameBesideStore d e) (m bits : Nat) :
    SameBesideStore (d.markChange m bits) (e.markChange m bits) := by
  have hsess := h.session m
  unfold Dev.markChange
  rw [h.sessState, hsess]
  split
  · exact ⟨⟨h.fuses, h.pwr, h.sup, h.reg, h.engines, h.mbox, h.plc⟩, h.inst, congrArg (SMap.insert m _) h.sess⟩
  · exact h

namespace Chip
variable {c c' : Chip} {d : Dev} {l : List SysRec}

theorem countSeal_besideStore (c : Chip) (m bits : Nat) : Dev.SameBesideStore (c.dev.markChange m bits) (c.countSeal m bits).dev :=
  Dev.SameBesideStore.markChange (.raiseSq (by decide) _) m bits

theorem countSeal_nvm (c : Chip) (m bits : Nat) : (c.countSeal m bits).nvm = c.nvm.increment 0 := rfl

/-! ## A counted change that is stored (R583) -/

/-- From `c` a change was counted in RC0 and the records `l` were stored; the device is `d` beside the block of the store. -/
structure Recorded (c : Chip) (d : Dev) (l : List SysRec) (c' : Chip) : Prop where
  dev : Dev.SameBesideStore d c'.dev
  cache : c'.nvm.cache = (c.nvm.increment 0).cache
  writes : Nvm.WritesOnly l c.nvm c'.nvm

theorem recorded_sysStore (hd : Dev.SameBesideStore d c'.dev) (hn : c'.nvm = c.nvm.increment 0) (r : SysRec)
    (torn : List (Stored → Stored)) {full : Stored → Stored} (hfull : ∀ x, (full x).mem = x.mem ∧ (full x).errs = x.errs) :
    c.Recorded d [r] (c'.sysStore r torn full) where
  dev := hd.trans (sysStore_besideStore _ _ _ _)
  cache := by
    obtain ⟨n, hs, h⟩ := c'.secStore_sysStore r torn full
    rw [← hn]
    exact (congrArg SecStore.cache h).trans (congrArg SecStore.cache hs)
  writes := by
    have h := Nvm.writesOnly_increment c.nvm 0
    rw [← hn] at h
    exact h.trans (writesOnly_sysStore c' r torn hfull)

theorem Recorded.onDev (h : c.Recorded d l c') {f : Dev → Dev} (hf : Dev.SameBesideStore (f d) (f c'.dev)) :
    c.Recorded (f d) l (c'.onDev f) := ⟨hf, h.cache, h.writes⟩

theorem Recorded.rc (h : c.Recorded d l c') (j : Nat) : c'.nvm.rc j = if j = 0 then (c.nvm.rc 0 + 1) % 2 ^ 64 else c.nvm.rc j := by
  rw [← Nvm.rc_increment _ (by decide), Nvm.rc, Nvm.rcCache, h.cache, Nvm.rc, Nvm.rcCache]

variable (kind m level arg : Nat)

/-- The entry that follows counts from the state before the change. -/
theorem Recorded.logs (h : c.Recorded d l c') : c.logs (c'.log kind m level arg) kind m level arg :=
  logs_of_secStore _ _ _ _ (c'.logs_log kind m level arg) (by rw [h.rc, if_neg (by decide)]) rfl

theorem Recorded.rc_log (h : c.Recorded d l c') : (c'.log kind m level arg).nvm.rc 0 = (c.nvm.rc 0 + 1) % 2 ^ 64 := by
  rw [rc_log_zero, h.rc, if_pos rfl]

theorem Recorded.keeps_log (h : c.Recorded d l c') : c.nvm.keeps (c'.log kind m level arg).nvm (l ++ [.log]) :=
  (h.writes.trans (c'.writesOnly_log kind m level arg)).keeps

theorem Recorded.dev_log (h : c.Recorded d l c') : Dev.SameBesideStore d (c'.log kind m level arg).dev :=
  h.dev.trans (c'.log_besideStore kind m level arg)

end Chip

/-! ## The state an accepted command leaves -/

@[simp] theorem State.done_secStore (s : State) (c : Chip) : (s.done c).chip.nvm.secStore = c.nvm.secStore := by
  simp only [State.done, State.landed, Chip.flown]
  split <;> rfl

theorem State.done_rc (s : State) (c : Chip) (i : Nat) : (s.done c).chip.nvm.rc i = c.nvm.rc i := Nvm.rc_of_secStore (s.done_secStore c) i

theorem State.done_keys (s : State) (c : Chip) : (s.done c).chip.nvm.keys = c.nvm.keys := congrArg SecStore.keys (s.done_secStore c)

theorem State.done_sealCopy (s : State) (c : Chip) : (s.done c).chip.nvm.sealCopy = c.nvm.sealCopy :=
  congrArg (fun x : SecStore => Copy.newest sealImage x.sealA x.sealB) (s.done_secStore c)

theorem State.done_pmapCopy (s : State) (c : Chip) : (s.done c).chip.nvm.pmapCopy = c.nvm.pmapCopy :=
  congrArg (fun x : SecStore => Copy.newest wordBytes x.pmapA x.pmapB) (s.done_secStore c)

theorem State.done_keeps {s : State} {c : Chip} {n : Nvm} {l : List SysRec} (h : n.keeps c.nvm l) : n.keeps (s.done c).chip.nvm l :=
  fun herrs hscrub hrun a ha => (State.landed_byteAt ..).trans (h herrs hscrub hrun a ha)

theorem State.done_logs {s : State} {c c' : Chip} {kind m level arg : Nat} (h : c.logs c' kind m level arg) :
    c.logs (s.done c').chip kind m level arg := Chip.logs_of_secStore _ _ _ _ h rfl (s.done_secStore c')

@[simp] theorem Dev.sealed_answeredDone (d : Dev) : d.answeredDone.sealed = d.sealed := rfl
@[simp] theorem Dev.pmap_answeredDone (d : Dev) (n : Nat) : d.answeredDone.pmap n = d.pmap n := rfl

/-! ## Copies with a sequence number (R426, R578) -/

namespace Copy
variable {α : Type} (enc : α → List Byte) (a b : Copy α) (v : α)

/-- A copy as it is written, with a sequence number. -/
def fresh (seq : Nat) : Copy α := ⟨seq, copySum enc seq v, false, v⟩

theorem ok_fresh (seq : Nat) : (fresh enc v seq).ok enc = true := by simp [Copy.ok, fresh]

variable {a b}

/-- A copy written with a later number than the first of the two is the newest. -/
theorem newest_fresh_second {seq : Nat} (h : a.seq ≤ seq) : Copy.newest enc a (fresh enc v seq) = some (fresh enc v seq) := by
  have hf : Copy.firstNewest enc a (fresh enc v seq) = false := by
    rw [Copy.firstNewest, ok_fresh, show decide ((fresh enc v seq).seq < a.seq) = false from decide_eq_false (Nat.not_lt.2 h)]
    exact Bool.and_false _
  rw [Copy.newest, hf, ok_fresh]
  rfl

/-- A copy written with a later number than the second, or beside one that is not valid, is the newest. -/
theorem newest_fresh_first {seq : Nat} (h : b.ok enc = true → b.seq < seq) :
    Copy.newest enc (fresh enc v seq) b = some (fresh enc v seq) := by
  refine if_pos ?_
  rw [Copy.firstNewest, ok_fresh, Bool.true_and, Bool.or_eq_true, decide_eq_true_eq, Bool.not_eq_true']
  cases hb : b.ok enc with
  | false => exact .inl rfl
  | true => exact .inr (h hb)

/-- The copy just written is the newest, as long as the sequence numbers have not come round. -/
theorem newest_put (h : ∀ k, Copy.newest enc a b = some k → k.seq < 2 ^ 32 - 1) :
    (Copy.newest enc (Copy.put enc a b v).1 (Copy.put enc a b v).2).map (·.val) = some v := by
  cases hf : Copy.firstNewest enc a b with
  | true =>
    have hnew : Copy.newest enc a b = some a := if_pos hf
    have hseq := h a hnew
    have hput : Copy.put enc a b v = (a, fresh enc v ((a.seq + 1) % 2 ^ 32)) := by simp only [Copy.put, hnew, hf, if_true, fresh]
    have hle : a.seq ≤ (a.seq + 1) % 2 ^ 32 := by omega
    rw [hput, newest_fresh_second enc v hle]
    rfl
  | false =>
    have hnew : Copy.newest enc a b = if b.ok enc then some b else none := if_neg (by rw [hf]; decide)
    obtain ⟨seq, hput, hseq⟩ : ∃ seq, Copy.put enc a b v = (fresh enc v seq, b) ∧ (b.ok enc = true → b.seq < seq) := by
      simp only [Copy.put, hf, Bool.false_eq_true, if_false]
      refine ⟨_, rfl, fun hb => ?_⟩
      rw [hb, if_pos rfl] at hnew
      have hseq := h b hnew
      have hlt : b.seq < (b.seq + 1) % 2 ^ 32 := by omega
      rw [hnew]
      exact hlt
    rw [hput, newest_fresh_first enc v hseq]
    rfl

end Copy
end Sys2Proof.Machine
end

section
/-! The seal and the key slots (R572, R580, R581, R583). -/
namespace Sys2Proof.Machine

/-! ## The seal -/

/-- What a change of the seal makes of its stored copies (R581). -/
def sealPut (v : Bool) (x : Stored) : Stored :=
  { x with sealA := (Copy.put sealImage x.sealA x.sealB v).1, sealB := (Copy.put sealImage x.sealA x.sealB v).2 }

/-- The same of a write cut short. -/
def sealTorn (x : Stored) : Stored :=
  { x with sealA := (Copy.torn sealImage x.sealA x.sealB).1, sealB := (Copy.torn sealImage x.sealA x.sealB).2 }

namespace Chip
variable (c : Chip) (m : Nat) (v : Bool)

/-- The chip with the change counted and stored, before its entry in the log. -/
def sealStored : Chip := (c.countSeal m 0x8).sysStore .seals [sealTorn] (sealPut v)

theorem sealChange_eq : c.sealChange m v =
    ((c.sealStored m v).log (if v then 4 else 5) m ((c.sealStored m v).dev.sessLevel m) 0).onDev (·.putBit A.secSealstat 0 v) := rfl

theorem recorded_sealStored : c.Recorded (c.dev.markChange m 0x8) [.seals] (c.sealStored m v) :=
  recorded_sysStore (c.countSeal_besideStore m _) (c.countSeal_nvm m _) _ _ fun _ => ⟨rfl, rfl⟩

theorem sessLevel_sealStored : (c.sealStored m v).dev.sessLevel m = c.dev.sessLevel m :=
  ((c.recorded_sealStored m v).dev.sessLevel m).trans (c.dev.sessLevel_markChange m _)

theorem sealStored_copies : (c.sealStored m v).nvm.sealA = (Copy.put sealImage c.nvm.sealA c.nvm.sealB v).1 ∧
    (c.sealStored m v).nvm.sealB = (Copy.put sealImage c.nvm.sealA c.nvm.sealB v).2 := by
  obtain ⟨n, hn, h⟩ := (c.countSeal m 0x8).secStore_sysStore .seals [sealTorn] (sealPut v)
  obtain ⟨x, hx, -⟩ := c.nvm.secStore_increment 0
  have hA : n.sealA = c.nvm.sealA := (congrArg SecStore.sealA hn).trans (congrArg SecStore.sealA hx)
  have hB : n.sealB = c.nvm.sealB := (congrArg SecStore.sealB hn).trans (congrArg SecStore.sealB hx)
  rw [← hA, ← hB]
  exact ⟨congrArg SecStore.sealA h, congrArg SecStore.sealB h⟩

/-- The copies of the seal stay through an entry in the log. -/
theorem sealCopy_log (c : Chip) (kind m level arg : Nat) :
    (c.log kind m level arg).nvm.sealCopy = Copy.newest sealImage c.nvm.sealA c.nvm.sealB := by
  obtain ⟨x, hx, -⟩ := c.nvm.secStore_increment 1
  have h := c.secStore_log kind m level arg
  have hA : (c.log kind m level arg).nvm.sealA = c.nvm.sealA := (congrArg SecStore.sealA h).trans (congrArg SecStore.sealA hx)
  have hB : (c.log kind m level arg).nvm.sealB = c.nvm.sealB := (congrArg SecStore.sealB h).trans (congrArg SecStore.sealB hx)
  rw [Stored.sealCopy, hA, hB]

/-- The change as its entry in the log leaves it, before the seal itself is set or opened (R581). -/
def sealLogged : Chip := (c.sealStored m v).log (if v then 4 else 5) m (c.dev.sessLevel m) 0

theorem sealChange_logged : c.sealChange m v = (c.sealLogged m v).onDev (·.putBit A.secSealstat 0 v) := by
  rw [sealChange_eq, sessLevel_sealStored, sealLogged]

theorem sealCopy_sealLogged (h : ∀ k, c.nvm.sealCopy = some k → k.seq < 2 ^ 32 - 1) :
    (c.sealLogged m v).nvm.sealCopy.map (·.val) = some v := by
  obtain ⟨hA, hB⟩ := c.sealStored_copies m v
  rw [sealLogged, sealCopy_log, hA, hB]
  exact Copy.newest_put sealImage v h

/-- OPEN of the seal asks for a session proved with slot 0 (R580). -/
def mayChangeSeal (d : Dev) (m : Nat) (v : Bool) : Prop := v = true ∨ (d.sessState m = 2 ∧ (d.session m).slot = 0)

variable {c m v}

theorem sealCommand_refused (h : ¬mayChangeSeal c.dev m v) : c.sealCommand m v = c.onDev fun d => d.secFail m 9 := by
  obtain ⟨hv, hs⟩ := not_or.1 h
  have hcond : (!v && !(c.dev.sessState m == 2 && (c.dev.session m).slot == 0)) = true := by
    rw [Bool.eq_false_iff.2 hv, Bool.not_false, Bool.true_and, Bool.not_eq_true', Bool.eq_false_iff]
    intro h
    rw [Bool.and_eq_true, beq_iff_eq, beq_iff_eq] at h
    exact hs h
  rw [sealCommand, if_pos hcond]

theorem sealCommand_granted (h : mayChangeSeal c.dev m v) : c.sealCommand m v = if c.dev.sealed == v then c else c.sealChange m v := by
  refine if_neg ?_
  rcases h with rfl | ⟨h2, h0⟩
  · simp
  · simp [h2, h0]

end Chip

/-- SEAL_SET and SEAL_OPEN are the command of their bit in SEC_SEALCMD (R580). -/
theorem exec_seal {s : State} {m : Master} (v : Bool) (hl : s.chip.lets m.id A.secSealcmd (if v then 1 else 2)) :
    exec (if v then .sealSet m else .sealOpen m) s =
      .next (s.done ((s.chip.loaded m.id A.secSealcmd (if v then 1 else 2)).sealCommand m.id v)) := by
  obtain ⟨old, h⟩ := State.wrote_of_lets hl (by decide) (by decide) (by decide) (by decide) (by decide) (by decide)
  cases v <;> exact h

/-- A change of the seal: RC0, the record and its copy, the entry, the mask of the session, and last the seal itself (R581). -/
theorem sealChange_effect (s : State) (c : Chip) (m : Nat) (v : Bool) :
    let x := s.done (c.sealChange m v)
    x.chip.dev.sealed = v ∧ x.chip.nvm.rc 0 = (c.nvm.rc 0 + 1) % 2 ^ 64 ∧ c.logs x.chip (if v then 4 else 5) m (c.dev.sessLevel m) 0 ∧
      ((∀ k, c.nvm.sealCopy = some k → k.seq < 2 ^ 32 - 1) → x.chip.nvm.sealCopy.map (·.val) = some v) ∧
      (c.dev.sessState m = 2 → (x.chip.dev.session m).mask = (c.dev.session m).mask ||| 0x8#4) ∧
      x.chip.dev.engines = c.dev.engines ∧ x.chip.dev.mbox = c.dev.mbox ∧ c.nvm.keeps x.chip.nvm [.seals, .log] := by
  have hrec := c.recorded_sealStored m v
  have hdev : Dev.SameBesideStore (c.dev.markChange m 8) (c.sealLogged m v).dev := hrec.dev_log ..
  have hrc : (c.sealLogged m v).nvm.rc 0 = (c.nvm.rc 0 + 1) % 2 ^ 64 := hrec.rc_log ..
  have hlogs : c.logs (c.sealLogged m v) (if v then 4 else 5) m (c.dev.sessLevel m) 0 := hrec.logs ..
  have hkeeps : c.nvm.keeps (c.sealLogged m v).nvm [.seals, .log] := hrec.keeps_log _ _ _ _
  have hcopy := c.sealCopy_sealLogged m v
  rw [c.sealChange_logged]
  generalize c.sealLogged m v = y at *
  refine ⟨?sealed, (State.done_rc ..).trans hrc, State.done_logs (Chip.logs_of_secStore _ _ _ _ hlogs rfl rfl), fun h => ?copy,
    fun h => ?mask, ?engines, ?mbox, State.done_keeps hkeeps⟩
  case copy => exact (congrArg (Option.map _) (State.done_sealCopy ..)).trans (hcopy h)
  all_goals rw [State.done_dev, Chip.onDev_dev]
  case sealed => rw [Dev.sealed_answeredDone, Dev.sealed, Dev.rb_putBit _ _ (by decide), if_pos rfl]
  case mask => exact (congrArg Session.mask (hdev.session m)).trans (c.dev.mask_markChange m 8 h)
  case engines => exact (hdev.engines (.inl (by decide))).trans (c.dev.engines_markChange m 8)
  case mbox => exact (hdev.mbox (.inl (by decide))).trans (c.dev.mbox_markChange m 8)

/-! ## The key slots -/

theorem leNat_wordBytes_cons (w : Word) (l : List Word) : leNat (wordBytes (w :: l)) = w.toNat + 2 ^ 32 * leNat (wordBytes l) := by
  have h := w.isLt
  have hb : wordBytes (w :: l) = leBytes 4 w.toNat ++ wordBytes l := rfl
  rw [hb]
  simp only [leBytes, List.cons_append, List.nil_append, leNat, BitVec.toNat_ofNat]
  omega

/-- Words stored as bytes, least significant first, are the digits of the number they make. -/
theorem leNat_wordBytes_digit (l : List Word) : ∀ n, leNat (wordBytes l) / 2 ^ (32 * n) % 2 ^ 32 = (l.getD n 0).toNat := by
  induction l with
  | nil => intro n; simp [wordBytes, leNat]
  | cons w l ih =>
    intro n
    have hw := w.isLt
    rw [leNat_wordBytes_cons]
    cases n with
    | zero => simp only [Nat.mul_zero, Nat.pow_zero, Nat.div_one, List.getD_cons_zero]; omega
    | succ n =>
      have hdiv : (w.toNat + 2 ^ 32 * leNat (wordBytes l)) / 2 ^ 32 = leNat (wordBytes l) := by omega
      rw [show 32 * (n + 1) = 32 + 32 * n by omega, Nat.pow_add, ← Nat.div_div_eq_div_mul, hdiv, ih, List.getD_cons_succ]

theorem leNat_wordBytes_lt (l : List Word) : leNat (wordBytes l) < 2 ^ (32 * l.length) := by
  induction l with
  | nil => decide
  | cons w l ih =>
    have hw := w.isLt
    rw [leNat_wordBytes_cons, List.length_cons, show 32 * (l.length + 1) = 32 + 32 * l.length by omega, Nat.pow_add]
    calc w.toNat + 2 ^ 32 * leNat (wordBytes l) < 2 ^ 32 * (leNat (wordBytes l) + 1) := by omega
      _ ≤ 2 ^ 32 * 2 ^ (32 * l.length) := Nat.mul_le_mul_left _ ih

/-- A key written whole: none of the four codewords is the old one's. -/
theorem keyMix_whole (old : BitVec 256) (k : Nat) : keyMix old.toNat k 4 = BitVec.ofNat 256 k := by
  have h := old.isLt
  apply BitVec.eq_of_toNat_eq
  rw [keyMix, Nat.div_eq_of_lt h, Nat.zero_mul, Nat.zero_add, BitVec.toNat_ofNat, BitVec.toNat_ofNat]
  exact Nat.mod_mod _ _

/-- The key that the response words make holds them in order. -/
theorem extractLsb_respBytes (d : Dev) (m : Nat) {n : Nat} (hn : n < 8) :
    (BitVec.ofNat 256 (leNat (d.respBytes m))).extractLsb' (32 * n) 32 = d.ireg m (A.secRESPn n) := by
  have hlt : leNat (wordBytes ((List.range 8).map fun n => d.ireg m (A.secRESPn n))) < 2 ^ 256 :=
    Nat.lt_of_lt_of_eq (leNat_wordBytes_lt _) (by rw [List.length_map, List.length_range])
  apply BitVec.eq_of_toNat_eq
  rw [BitVec.extractLsb'_toNat, BitVec.toNat_ofNat, Nat.shiftRight_eq_div_pow, Dev.respBytes, Nat.mod_eq_of_lt hlt, leNat_wordBytes_digit]
  simp [List.getD, hn]

namespace Dev
variable (d : Dev) (m : Nat)

/-- One response word of a master cleared. -/
def clearResp (m : Nat) (d : Dev) (n : Nat) : Dev := d.setIreg m (A.secRESPn n) 0

/-- The response words of a master cleared. -/
def respCleared (d : Dev) (m : Nat) : Dev := (List.range 8).foldl (clearResp m) d

theorem foldl_setIreg_shape (l : List Nat) : ∀ d : Dev, ∃ x,
    l.foldl (clearResp m) d = { d with inst := x } := by
  induction l with
  | nil => exact fun d => ⟨d.inst, rfl⟩
  | cons n l ih =>
    intro d
    obtain ⟨x, hx⟩ := ih (clearResp m d n)
    exact ⟨x, hx⟩

theorem respCleared_shape : ∃ x, d.respCleared m = { d with inst := x } := foldl_setIreg_shape m _ d

/-- A response word is cleared where it is listed, and no other register is touched. -/
theorem ireg_foldl_setIreg (l : List Nat) (hl : ∀ n ∈ l, n < 8) {k a : Nat} (ha : a < 0x1000000) : ∀ d : Dev,
    (l.foldl (clearResp m) d).ireg k a =
      if k = m ∧ ∃ n ∈ l, a = A.secRESPn n then 0 else d.ireg k a := by
  induction l with
  | nil => intro d; simp
  | cons n l ih =>
    intro d
    have hn : A.secRESPn n < 0x1000000 := by have := hl n (List.mem_cons_self ..); unfold A.secRESPn; omega
    rw [List.foldl_cons, ih (fun i hi => hl i (List.mem_cons_of_mem n hi))]
    by_cases h : k = m ∧ a = A.secRESPn n
    · obtain ⟨rfl, rfl⟩ := h
      have hself : (clearResp k d n).ireg k (A.secRESPn n) = 0 := Dev.ireg_setIreg_self ..
      rw [hself, ite_self, if_pos ⟨rfl, n, List.mem_cons_self .., rfl⟩]
    · have hne : instKey k a ≠ instKey m (A.secRESPn n) := fun he => h (instKey_inj ha hn he)
      rw [clearResp, Dev.ireg_setIreg_ne _ hne]
      refine ite_congr (propext ?_) (fun _ => rfl) fun _ => rfl
      exact ⟨fun ⟨hk, i, hi, he⟩ => ⟨hk, i, List.mem_cons_of_mem n hi, he⟩,
        fun ⟨hk, i, hi, he⟩ => ⟨hk, i, (List.mem_cons.1 hi).resolve_left fun hin => h ⟨hk, hin ▸ he⟩, he⟩⟩

theorem ireg_respCleared {n : Nat} (hn : n < 8) : (d.respCleared m).ireg m (A.secRESPn n) = 0 := by
  rw [respCleared, ireg_foldl_setIreg m _ (fun _ h => List.mem_range.1 h) (by unfold A.secRESPn; omega),
    if_pos ⟨rfl, n, List.mem_range.2 hn, rfl⟩]

theorem sessState_respCleared (k : Nat) : (d.respCleared m).sessState k = d.sessState k := by
  have hne : ¬ (k = m ∧ ∃ n ∈ List.range 8, A.secSesstat = A.secRESPn n) := by
    rintro ⟨-, n, -, h⟩
    unfold A.secSesstat A.secRESPn at h
    omega
  rw [Dev.sessState, respCleared, ireg_foldl_setIreg m _ (fun _ h => List.mem_range.1 h) (by decide), if_neg hne, Dev.sessState]

theorem session_respCleared (k : Nat) : (d.respCleared m).session k = d.session k := by
  obtain ⟨x, hx⟩ := d.respCleared_shape m; rw [hx]; rfl

theorem level_respCleared (k : Nat) : (d.respCleared m).level k = d.level k := by
  obtain ⟨x, hx⟩ := d.respCleared_shape m; rw [hx]; rfl

theorem sessLevel_respCleared (k : Nat) : (d.respCleared m).sessLevel k = d.sessLevel k := by
  rw [Dev.sessLevel, sessState_respCleared, session_respCleared, Dev.sessLevel]

end Dev

theorem Dev.SameBesideStore.respCleared {d e : Dev} (h : SameBesideStore d e) (m : Nat) :
    SameBesideStore (d.respCleared m) (e.respCleared m) := by
  have hfold : ∀ (l : List Nat) (d e : Dev), SameBesideStore d e → SameBesideStore
      (l.foldl (clearResp m) d) (l.foldl (clearResp m) e) := by
    intro l
    induction l with
    | nil => exact fun _ _ h => h
    | cons n l ih =>
      intro d e h
      exact ih _ _ ⟨⟨h.fuses, h.pwr, h.sup, h.reg, h.engines, h.mbox, h.plc⟩, congrArg (SMap.set _ · _ _) h.inst, h.sess⟩
  exact hfold _ d e h

theorem Dev.level_markChange (d : Dev) (m bits k : Nat) : (d.markChange m bits).level k = d.level k := by
  simp only [Dev.level, Dev.rf, Dev.reg_markChange]

/-- What a key's write makes of the stored keys, after w of its four codewords. -/
def keyPut (slot k w : Nat) (x : Stored) : Stored :=
  { x with keys := SMap.set 0 x.keys slot (keyMix (SMap.get 0 x.keys slot).toNat k w) }

theorem keyPut_array (slot k w : Nat) (x : Stored) : (keyPut slot k w x).mem = x.mem ∧ (keyPut slot k w x).errs = x.errs := by
  simp only [keyPut, and_self]

/-- A key written whole takes the place of the one before. -/
theorem keyPut_whole (slot k : Nat) (x : Stored) : (keyPut slot k 4 x).keys = SMap.set 0 x.keys slot (BitVec.ofNat 256 k) := by
  rw [← keyMix_whole (SMap.get 0 x.keys slot), keyPut]

namespace Chip
variable (c : Chip) (m slot : Nat)

theorem keys_of_secStore {n n' : Nvm} {x : Stored} (h : n'.secStore = ({ n with toStored := x } : Nvm).secStore) : n'.keys = x.keys :=
  congrArg SecStore.keys h

/-- The chip with the key counted and stored. -/
def keyStored : Chip :=
  (c.countSeal m 0x4).sysStore .keys ([1, 2, 3].map (keyPut slot (leNat (c.dev.respBytes m)))) (keyPut slot (leNat (c.dev.respBytes m)) 4)

theorem recorded_keyStored : c.Recorded (c.dev.markChange m 0x4) [.keys] (c.keyStored m slot) :=
  recorded_sysStore (c.countSeal_besideStore m _) (c.countSeal_nvm m _) _ _ (keyPut_array _ _ _)

theorem keyStored_keys : (c.keyStored m slot).nvm.keys = SMap.set 0 c.nvm.keys slot (BitVec.ofNat 256 (leNat (c.dev.respBytes m))) := by
  obtain ⟨n, hn, h⟩ := (c.countSeal m 0x4).secStore_sysStore .keys ([1, 2, 3].map (keyPut slot (leNat (c.dev.respBytes m))))
    (keyPut slot (leNat (c.dev.respBytes m)) 4)
  obtain ⟨x, hx, -⟩ := c.nvm.secStore_increment 0
  have hk : n.keys = c.nvm.keys := (congrArg SecStore.keys hn).trans (congrArg SecStore.keys hx)
  rw [keyStored, keys_of_secStore h, keyPut_whole, hk]

theorem keyCommand_stored (h2 : 2 ≤ slot) (h8 : slot < 8) : c.keyCommand m slot =
    ((c.keyStored m slot).onDev (·.respCleared m)).log 6 m (((c.keyStored m slot).onDev (·.respCleared m)).dev.sessLevel m) slot := by
  have h : ¬(slot < 2 || 8 ≤ slot) = true := by simp; omega
  rw [keyCommand, if_neg h]
  rfl

theorem keyCommand_refused (h : slot < 2 ∨ 8 ≤ slot) : c.keyCommand m slot = c.onDev fun d => d.secFail m 3 :=
  if_pos (by simpa using h)

theorem keys_log (c : Chip) (kind m level arg : Nat) : (c.log kind m level arg).nvm.keys = c.nvm.keys := by
  obtain ⟨x, hx, -⟩ := c.nvm.secStore_increment 1
  exact (congrArg SecStore.keys (c.secStore_log kind m level arg)).trans (congrArg SecStore.keys hx)

end Chip

/-- The word of KEYCMD: GO and the slot (R572). -/
theorem keyWord_fields (slot : Fin 16) : bit (setFld 0x80000000#32 19 16 slot.val) 31 = true ∧
    fld (setFld 0x80000000#32 19 16 slot.val) 19 16 = slot.val := by
  constructor
  · rw [bit_setFld _ _ _ (by omega), if_neg (by omega)]; decide
  · rw [fld_setFld_self _ _ (by omega)]; exact Nat.mod_eq_of_lt slot.isLt

theorem exec_keycmd {s : State} {m : Master} {slot : Fin 16} (hl : s.chip.lets m.id A.secKeycmd (setFld 0x80000000#32 19 16 slot.val)) :
    exec (.keycmd m slot) s = .next (s.done ((s.chip.loaded m.id A.secKeycmd (setFld 0x80000000#32 19 16 slot.val)).keyCommand m.id slot.val)) := by
  obtain ⟨hgo, hslot⟩ := keyWord_fields slot
  obtain ⟨old, h⟩ := State.wrote_of_lets hl (by decide) (by decide) (by decide) (by decide) (by decide) (by decide)
  refine Eq.trans h ?_
  change Host.Outcome.next (s.done (if bit _ 31 then Chip.keyCommand _ _ (fld _ 19 16) else _)) = _
  rw [hgo, hslot, if_pos rfl]

/-- KEYCMD of a slot that takes a key (R572, R583). -/
theorem keyCommand_effect (s : State) (c : Chip) (m : Nat) {slot : Nat} (h2 : 2 ≤ slot) (h8 : slot < 8) :
    let x := s.done (c.keyCommand m slot)
    (∀ n < 8, (SMap.get 0 x.chip.nvm.keys slot).extractLsb' (32 * n) 32 = c.dev.ireg m (A.secRESPn n)) ∧
      (∀ k, k ≠ slot → SMap.get 0 x.chip.nvm.keys k = SMap.get 0 c.nvm.keys k) ∧
      (∀ n < 8, x.chip.dev.ireg m (A.secRESPn n) = 0) ∧ x.chip.nvm.rc 0 = (c.nvm.rc 0 + 1) % 2 ^ 64 ∧
      c.logs x.chip 6 m (c.dev.sessLevel m) slot ∧
      (c.dev.sessState m = 2 → (x.chip.dev.session m).mask = (c.dev.session m).mask ||| 0x4#4) ∧
      (∀ k, x.chip.dev.sessState k = c.dev.sessState k) ∧ (∀ k, x.chip.dev.level k = c.dev.level k) ∧
      c.nvm.keeps x.chip.nvm [.keys, .log] := by
  have hstored := c.recorded_keyStored m slot
  have hrec := hstored.onDev (f := (·.respCleared m)) (hstored.dev.respCleared m)
  have hlevel : ((c.keyStored m slot).onDev (·.respCleared m)).dev.sessLevel m = c.dev.sessLevel m :=
    (hrec.dev.sessLevel m).trans ((Dev.sessLevel_respCleared _ m m).trans (c.dev.sessLevel_markChange m 4))
  have hdev := hrec.dev_log 6 m (c.dev.sessLevel m) slot
  have hrc := hrec.rc_log 6 m (c.dev.sessLevel m) slot
  have hlogs := hrec.logs 6 m (c.dev.sessLevel m) slot
  have hkeeps := hrec.keeps_log 6 m (c.dev.sessLevel m) slot
  have hkeys := Chip.keys_log ((c.keyStored m slot).onDev (·.respCleared m)) 6 m (c.dev.sessLevel m) slot
  rw [Chip.onDev_nvm, c.keyStored_keys] at hkeys
  rw [c.keyCommand_stored m slot h2 h8, hlevel]
  generalize Chip.log _ 6 m (c.dev.sessLevel m) slot = y at *
  refine ⟨fun n hn => ?key, fun k hk => ?others, fun n hn => ?cleared, (State.done_rc ..).trans hrc, State.done_logs hlogs, fun h => ?mask,
    fun k => ?state, fun k => ?level, State.done_keeps hkeeps⟩
  case key => rw [State.done_keys, hkeys, SMap.get_set_self, extractLsb_respBytes c.dev m hn]
  case others => rw [State.done_keys, hkeys, SMap.get_set_ne _ _ _ hk]
  all_goals rw [State.done_dev]
  case cleared => exact (hdev.ireg m _).trans (Dev.ireg_respCleared _ m hn)
  case mask =>
    exact (congrArg Session.mask ((hdev.session m).trans (Dev.session_respCleared _ m m))).trans (c.dev.mask_markChange m 4 h)
  case state => exact (hdev.sessState k).trans ((Dev.sessState_respCleared _ m k).trans (c.dev.sessState_markChange m 4 k))
  case level => exact (hdev.level k).trans ((Dev.level_respCleared _ m k).trans (c.dev.level_markChange m 4 k))

end Sys2Proof.Machine
end

section
/-! The protection map (R10, R578, R579, R583), and the statement about the seal, the keys and the map. -/
namespace Sys2Proof.Machine

/-! ## A word of the map (R10, R578) -/

namespace Fuses
variable (f : Fuses)

/-- An entry after those of blocks that are not there are set to 0. -/
theorem fld_foldl_noEntry (n : Nat) (l : List Nat) (hl : ∀ i ∈ l, i < 4) (j : Nat) : ∀ w : Word,
    fld (l.foldl (fun w i => if f.noEntry (4 * n + i) then setFld w (8 * i + 7) (8 * i) 0 else w) w) (8 * j + 7) (8 * j) =
      if j ∈ l ∧ f.noEntry (4 * n + j) = true then 0 else fld w (8 * j + 7) (8 * j) := by
  induction l with
  | nil => intro w; simp
  | cons i l ih =>
    intro w
    have hi := hl i (List.mem_cons_self ..)
    rw [List.foldl_cons, ih fun k hk => hl k (List.mem_cons_of_mem i hk)]
    by_cases hji : j = i
    · subst hji
      have h0 := fld_setFld_self w (hi := 8 * j + 7) (lo := 8 * j) 0 (by omega)
      rw [Nat.zero_mod] at h0
      cases hb : f.noEntry (4 * n + j) with
      | true => simp only [if_true, h0, ite_self, List.mem_cons_self, and_self]
      | false => simp only [Bool.false_eq_true, if_false, and_false]
    · have hw : fld (if f.noEntry (4 * n + i) then setFld w (8 * i + 7) (8 * i) 0 else w) (8 * j + 7) (8 * j) = fld w (8 * j + 7) (8 * j) := by
        split
        · exact fld_setFld_disjoint w _ (by omega) (by omega)
        · rfl
      rw [hw]
      simp only [List.mem_cons, hji, false_or]

/-- No block of the first map word can be fused off. -/
theorem noEntry_first {b : Nat} (h : b < 4) : f.noEntry b = false := by
  have h22 : ¬ 22 ≤ b := by omega
  have h18 : b ≠ 18 := by omega
  have h19 : b ≠ 19 := by omega
  have h8 : ¬ 8 ≤ b := by omega
  simp [Fuses.noEntry, h22, h18, h19, h8]

/-- The entries of a map word as it is kept. -/
theorem fld_pmapWord (n : Nat) {j : Nat} (hj : j < 4) (w : Word) : fld (f.pmapWord n w) (8 * j + 7) (8 * j) =
    if 4 * n + j = 1 then 0x77 else if f.noEntry (4 * n + j) = true then 0 else fld w (8 * j + 7) (8 * j) := by
  unfold Fuses.pmapWord
  by_cases hn : n = 0
  · subst hn
    rw [if_pos rfl, Nat.mul_zero, Nat.zero_add, f.noEntry_first hj, if_neg Bool.false_ne_true]
    by_cases h1 : j = 1
    · subst h1
      exact fld_setFld_self w 0x77 (by omega)
    · rw [if_neg h1, fld_setFld_disjoint _ _ (by omega) (by omega)]
  · rw [if_neg hn, if_neg (by omega), f.fld_foldl_noEntry n _ (fun i hi => List.mem_range.1 hi) j]
    simp only [List.mem_range, hj, true_and]

end Fuses

/-! ## A write of the map through the fabric -/

/-- The entry of SEC_PMAPn in `rowsSec`. -/
def pmapRow : RegRow := ⟨0x80, 0x4, 6, .rw, false, true, false, 0xFFFFFFFF, 0x0, 0x0, 0x0, 0x0, 0xBBBBBBBB⟩

theorem rowAt_pmap : ∀ n : Fin 6, rowAt (A.secPMAPn n.val) = some pmapRow := by decide

theorem Dev.target_pmap {d : Dev} {r : RegRow} {n : Fin 6} (h : d.target (A.secPMAPn n.val) = .ok r) : r = pmapRow :=
  Option.some.inj ((Dev.rowAt_of_target h).symm.trans (rowAt_pmap n))

/-- What a plain write of some of its low bytes makes of a register that software writes whole. -/
def lowBytes (cur data : Word) (bytes : Nat) : Word :=
  mergeWrite .plain cur 0xFFFFFFFF (2 ^ (8 * bytes) - 1) (data.toNat % 2 ^ (8 * bytes))

theorem getLsbD_lowBytes (cur data : Word) (bytes : Nat) {i : Nat} (hi : i < 32) :
    (lowBytes cur data bytes).getLsbD i = if i < 8 * bytes then data.getLsbD i else cur.getLsbD i := by
  have hall : wd 0xFFFFFFFF = BitVec.allOnes 32 := by decide
  rw [lowBytes, mergeWrite, hall, BitVec.not_allOnes, BitVec.and_zero, BitVec.and_allOnes, BitVec.zero_or]
  simp only [wd, BitVec.getLsbD_or, BitVec.getLsbD_and, BitVec.getLsbD_not, BitVec.getLsbD_ofNat, Nat.testBit_mod_two_pow,
    Nat.testBit_two_pow_sub_one, hi, decide_true, Bool.true_and]
  by_cases h : i < 8 * bytes
  · simp [h, BitVec.getLsbD]
  · simp [h]

theorem Chip.effect_pmap (c : Chip) (m : Nat) (n : Fin 6) (old w : Word) (errs : CwErrs) :
    c.effect m (A.secPMAPn n.val) old w errs = c.pmapSet m n.val w := by
  have hn := n.isLt
  have hblock : A.secPMAPn n.val / 0x10000 = 1 := by unfold A.secPMAPn; omega
  have hoff : A.secPMAPn n.val % 0x10000 = 0x80 + 4 * n.val := by unfold A.secPMAPn; omega
  have hdiv : (0x80 + 4 * n.val - 0x80) / 4 = n.val := by omega
  have h08 : 0x80 + 4 * n.val ≠ 0x08 := by omega
  have h98 : 0x80 + 4 * n.val < 0x98 := by omega
  simp only [Chip.effect, Chip.secEffect, hblock, hoff, hdiv, if_neg h08, h98, Nat.le_add_right, decide_true, Bool.and_self, if_true]

/-- An accepted write of the map: the word loaded, then its effect (R340). -/
theorem Chip.accept_pmap (c : Chip) (m : Nat) (n : Fin 6) (data : Word) (bytes : Nat) (errs : CwErrs) :
    c.accept m pmapRow (A.secPMAPn n.val) .plain (2 ^ (8 * bytes) - 1) (data.toNat % 2 ^ (8 * bytes)) errs =
      (c.onDev fun d => d.setReg (A.secPMAPn n.val) (lowBytes (c.dev.reg (A.secPMAPn n.val)) data bytes)).pmapSet m n.val
        (lowBytes (c.dev.reg (A.secPMAPn n.val)) data bytes) := by
  have hid : c.dev.hidden (A.secPMAPn n.val) = 0 := by
    match n with
    | 0 | 1 | 2 | 3 | 4 | 5 => rfl
  have hw : c.dev.written pmapRow m (A.secPMAPn n.val) .plain (2 ^ (8 * bytes) - 1) (data.toNat % 2 ^ (8 * bytes)) =
      lowBytes (c.dev.reg (A.secPMAPn n.val)) data bytes := by
    simp only [Dev.written, pmapRow, Dev.stored, hid, lowBytes]
    rfl
  rw [Chip.accept, hw, effect_pmap]
  rfl

/-- A write of the map that the fabric lets in (R340). -/
theorem Chip.write_pmap {c : Chip} {m bytes data : Nat} {n : Fin 6} {r : RegRow}
    (hl : c.acceptsPlain m (A.secPMAPn n.val) (A.secPMAPn n.val) bytes .plain data r) (errs : CwErrs) :
    c.write m (A.secPMAPn n.val) bytes data errs =
      (.done, c.accept m pmapRow (A.secPMAPn n.val) .plain (2 ^ (8 * bytes) - 1) (data % 2 ^ (8 * bytes)) errs) := by
  obtain ⟨-, -, ht, -, had, hseal, hfix, hlock, hal, ho⟩ := hl
  obtain rfl := Dev.target_pmap ht
  have hn := n.isLt
  obtain ⟨hlt, h4, hbase, hreg⟩ : A.secPMAPn n.val < 0x150000 ∧ A.secPMAPn n.val % 4 = 0 ∧
      A.secPMAPn n.val / 0x10000 * 0x10000 + A.secPMAPn n.val % 0x1000 / 4 * 4 = A.secPMAPn n.val ∧
      A.secPMAPn n.val % 0x10000 / 0x1000 = 0 := by
    unfold A.secPMAPn
    refine ⟨?_, ?_, ?_, ?_⟩ <;> omega
  have hnormal : regionOf (A.secPMAPn n.val % 0x10000) = .normal := by simp [regionOf, hreg]
  have hwin : inWindow (A.secPMAPn n.val) = false := by
    simp only [inWindow, Bool.and_eq_false_iff, decide_eq_false_iff_not]
    unfold A.secPMAPn
    omega
  have h2 : ¬ 0x400000 ≤ A.secPMAPn n.val := by omega
  simp only [h4, Nat.mul_zero, Nat.pow_zero, Nat.mul_one] at ho
  have htype : typeRefuses pmapRow false .plain bytes = none := by simp [typeRefuses, pmapRow]
  have hcm : (pmapRow.typ == RTyp.cm) = false := rfl
  have hcm' : ¬ pmapRow.typ = RTyp.cm := by decide
  simp only [Chip.write, h2, Nat.not_le.2 hlt, hal, hwin, hnormal, hbase, ht, decide_false, Bool.false_and, Bool.false_eq_true, if_false,
    ne_eq, not_true_eq_false]
  simp only [Chip.regWrite, had, hseal, hlock, Option.isSome_none, htype, hfix, hcm, hcm', h4, ho, Bool.and_false, Bool.not_true,
    Bool.false_eq_true, if_false, Nat.mul_zero, Nat.pow_zero, Nat.mul_one]

theorem exec_pmapWrite {s : State} {m : Master} {n : Fin 6} {size : Fin 3} {data : Word} {r : RegRow}
    (hl : s.chip.acceptsPlain m.id (A.secPMAPn n.val) (A.secPMAPn n.val) (sizeBytes size) .plain data.toNat r) :
    exec (.pmapWrite m n size data) s = .next (s.done
      ((s.chip.onDev fun d => d.setReg (A.secPMAPn n.val) (lowBytes (s.chip.dev.reg (A.secPMAPn n.val)) data (sizeBytes size))).pmapSet m.id n.val
        (lowBytes (s.chip.dev.reg (A.secPMAPn n.val)) data (sizeBytes size)))) := by
  obtain ⟨hup, hm, -⟩ := id hl
  change s.access m (fun c => c.write m.id (A.secPMAPn n.val) (sizeBytes size) data.toNat []) = _
  rw [State.access_of_up hup (Master.isEngine_false hm), Chip.write_pmap hl, Chip.accept_pmap]
  rfl

/-! ## What an accepted write of the map leaves (R578, R583) -/

/-- What a write of the map makes of its stored copies. -/
def pmapPut (map : List Word) (x : Stored) : Stored :=
  { x with pmapA := (Copy.put wordBytes x.pmapA x.pmapB map).1, pmapB := (Copy.put wordBytes x.pmapA x.pmapB map).2 }

/-- The stored words are not written. -/
theorem pmapPut_array (map : List Word) (x : Stored) : (pmapPut map x).mem = x.mem ∧ (pmapPut map x).errs = x.errs := by
  simp only [pmapPut, and_self]

/-- The same of a write cut short. -/
def pmapTorn (x : Stored) : Stored :=
  { x with pmapA := (Copy.torn wordBytes x.pmapA x.pmapB).1, pmapB := (Copy.torn wordBytes x.pmapA x.pmapB).2 }

theorem Dev.SameBesideStore.setReg_both {d e : Dev} (h : SameBesideStore d e) (a : Nat) (w : Word) :
    SameBesideStore (d.setReg a w) (e.setReg a w) := by
  refine ⟨⟨h.fuses, h.pwr, h.sup, fun x hx => ?_, h.engines, h.mbox, h.plc⟩, h.inst, h.sess⟩
  by_cases hxa : x = a
  · subst hxa; rw [Dev.reg_setReg_self, Dev.reg_setReg_self]
  · rw [Dev.reg_setReg_ne _ hxa, Dev.reg_setReg_ne _ hxa, h.reg x hx]

/-- The device after a change of the map is noted and its word is in the register. -/
def Dev.pmapNoted (d : Dev) (m n : Nat) (w : Word) : Dev := (d.markChange m 0x2).setReg (A.secPMAPn n) (d.fuses.pmapWord n w)

theorem Dev.pmap_pmapNoted_self (d : Dev) (m n : Nat) (w : Word) :
    (d.pmapNoted m n w).pmap n = d.fuses.pmapWord n (d.fuses.pmapWord n w) := by
  rw [Dev.pmapNoted, Dev.pmap, Dev.reg_setReg_self, Dev.fuses_setReg, Dev.fuses_markChange]

theorem Dev.pmap_pmapNoted_ne (d : Dev) (m : Nat) {n k : Nat} (h : k ≠ n) (w : Word) : (d.pmapNoted m n w).pmap k = d.pmap k := by
  have ha : A.secPMAPn k ≠ A.secPMAPn n := by unfold A.secPMAPn; omega
  rw [Dev.pmapNoted, Dev.pmap, Dev.reg_setReg_ne _ ha, Dev.reg_markChange, Dev.fuses_setReg, Dev.fuses_markChange, Dev.pmap]

namespace Chip
variable (c : Chip) (m n : Nat) (w : Word)

/-- The chip with the change counted and the word in its register. -/
def pmapLoaded : Chip := (c.countSeal m 0x2).onDev fun d => d.setReg (A.secPMAPn n) (d.fuses.pmapWord n w)

theorem pmapSet_eq : c.pmapSet m n w = (c.pmapLoaded m n w).sysStore .maps [pmapTorn]
    (pmapPut ((List.range 6).map (c.pmapLoaded m n w).dev.pmap)) := rfl

theorem pmapLoaded_nvm : (c.pmapLoaded m n w).nvm = c.nvm.increment 0 := by
  rw [pmapLoaded, onDev_nvm, countSeal_nvm]

theorem pmapLoaded_besideStore : Dev.SameBesideStore (c.dev.pmapNoted m n w) (c.pmapLoaded m n w).dev := by
  have h := c.countSeal_besideStore m 0x2
  have hf : (c.countSeal m 0x2).dev.fuses = c.dev.fuses := h.fuses.trans (c.dev.fuses_markChange m 2)
  rw [pmapLoaded, onDev_dev, hf]
  exact h.setReg_both _ _

theorem recorded_pmapSet : c.Recorded (c.dev.pmapNoted m n w) [.maps] (c.pmapSet m n w) := by
  rw [pmapSet_eq]
  exact recorded_sysStore (c.pmapLoaded_besideStore m n w) (c.pmapLoaded_nvm m n w) _ _ (pmapPut_array _)

theorem pmapStored_copies (map : List Word) :
    ((c.pmapLoaded m n w).sysStore .maps [pmapTorn] (pmapPut map)).nvm.pmapA = (Copy.put wordBytes c.nvm.pmapA c.nvm.pmapB map).1 ∧
      ((c.pmapLoaded m n w).sysStore .maps [pmapTorn] (pmapPut map)).nvm.pmapB = (Copy.put wordBytes c.nvm.pmapA c.nvm.pmapB map).2 := by
  obtain ⟨y, hy, hs⟩ := (c.pmapLoaded m n w).secStore_sysStore .maps [pmapTorn] (pmapPut map)
  obtain ⟨x, hx, -⟩ := c.nvm.secStore_increment 0
  rw [pmapLoaded_nvm] at hy
  have hA : y.pmapA = c.nvm.pmapA := (congrArg SecStore.pmapA hy).trans (congrArg SecStore.pmapA hx)
  have hB : y.pmapB = c.nvm.pmapB := (congrArg SecStore.pmapB hy).trans (congrArg SecStore.pmapB hx)
  rw [← hA, ← hB]
  exact ⟨congrArg SecStore.pmapA hs, congrArg SecStore.pmapB hs⟩

/-- The map as it stands after the write is the newest copy (R578). -/
theorem pmapCopy_pmapSet (h : ∀ k, c.nvm.pmapCopy = some k → k.seq < 2 ^ 32 - 1) :
    (c.pmapSet m n w).nvm.pmapCopy.map (·.val) = some ((List.range 6).map (c.pmapSet m n w).dev.pmap) := by
  have hmap (full : Stored → Stored) : (List.range 6).map ((c.pmapLoaded m n w).sysStore .maps [pmapTorn] full).dev.pmap =
      (List.range 6).map (c.pmapLoaded m n w).dev.pmap :=
    List.map_congr_left fun k hk => (sysStore_besideStore _ _ _ full).pmap (List.mem_range.1 hk)
  rw [pmapSet_eq, hmap]
  generalize (List.range 6).map (c.pmapLoaded m n w).dev.pmap = map
  obtain ⟨hA, hB⟩ := c.pmapStored_copies m n w map
  rw [Stored.pmapCopy, hA, hB]
  exact Copy.newest_put wordBytes map h

end Chip

/-- A write of the map: its entries, the count, the stored copy and the mask of the session. -/
theorem pmapSet_effect (s : State) (m : Nat) (n : Fin 6) (w : Word) :
    let d := s.chip.dev
    let x := s.done ((s.chip.onDev fun d => d.setReg (A.secPMAPn n.val) w).pmapSet m n.val w)
    (∀ j : Fin 4, let b := 4 * n.val + j.val
      fld (x.chip.dev.pmap n.val) (8 * j.val + 7) (8 * j.val) =
        if b = 1 then 0x77 else if d.fuses.noEntry b = true then 0 else fld w (8 * j.val + 7) (8 * j.val)) ∧
    (∀ k : Fin 6, k ≠ n → x.chip.dev.pmap k.val = d.pmap k.val) ∧
    x.chip.nvm.rc 0 = (s.chip.nvm.rc 0 + 1) % 2 ^ 64 ∧
    ((∀ k, s.chip.nvm.pmapCopy = some k → k.seq < 2 ^ 32 - 1) →
      x.chip.nvm.pmapCopy.map (·.val) = some ((List.range 6).map x.chip.dev.pmap)) ∧
    (d.sessState m = 2 → (x.chip.dev.session m).mask = (d.session m).mask ||| 0x2#4) ∧
    x.chip.dev.engines = d.engines ∧ x.chip.dev.mbox = d.mbox ∧ s.chip.nvm.keeps x.chip.nvm [.maps] ∧ x.chip.dev.resp = .done := by
  have hrec := (s.chip.onDev fun d => d.setReg (A.secPMAPn n.val) w).recorded_pmapSet m n.val w
  have hcopy := (s.chip.onDev fun d => d.setReg (A.secPMAPn n.val) w).pmapCopy_pmapSet m n.val w
  have hdev := hrec.dev
  rw [Chip.onDev_dev] at hdev
  have hrc : _ = (s.chip.nvm.rc 0 + 1) % 2 ^ 64 := (hrec.rc 0).trans (if_pos rfl)
  have hkeeps : s.chip.nvm.keeps _ [.maps] := hrec.writes.keeps
  generalize Chip.pmapSet _ m n.val w = y at *
  have hself : y.dev.pmap n.val = s.chip.dev.fuses.pmapWord n.val (s.chip.dev.fuses.pmapWord n.val w) :=
    (hdev.pmap n.isLt).trans (Dev.pmap_pmapNoted_self _ _ _ _)
  refine ⟨fun j => ?entry, fun k hk => ?others, (State.done_rc ..).trans hrc, fun h => ?copy, fun h => ?mask, ?engines, ?mbox,
    State.done_keeps hkeeps, ?resp⟩
  case copy =>
    rw [State.done_pmapCopy, State.done_dev]
    exact hcopy h
  all_goals rw [State.done_dev]
  case entry =>
    rw [Dev.pmap_answeredDone, hself]
    simp only [Fuses.fld_pmapWord _ _ j.isLt]
    split
    · rfl
    · split <;> rfl
  case others =>
    have hkn : k.val ≠ n.val := fun h => hk (Fin.ext h)
    have ha : A.secPMAPn k.val ≠ A.secPMAPn n.val := by unfold A.secPMAPn; omega
    rw [Dev.pmap_answeredDone, hdev.pmap k.isLt, Dev.pmap_pmapNoted_ne _ _ hkn, Dev.pmap, Dev.reg_setReg_ne _ ha, Dev.fuses_setReg, Dev.pmap]
  case mask => exact (congrArg Session.mask (hdev.session m)).trans (Dev.mask_markChange _ m 2 h)
  case engines => exact (hdev.engines (.inl (by decide))).trans (Dev.engines_markChange _ m 2)
  case mbox => exact (hdev.mbox (.inl (by decide))).trans (Dev.mbox_markChange _ m 2)
  case resp => rfl

/-- Settles O58, clause by clause: the seal, the key slots, the map. That OPEN of the seal is refused for SV as for any other master, and
before it is asked whether anything would change, is log entry 22. -/
theorem sealKeysAndMap : Obligations.SealKeysAndMap := by
  unfold Obligations.SealKeysAndMap
  refine ⟨?sealed, ?key, ?map⟩
  case sealed =>
    intro s m v w i c may hl
    have hexec : exec i s = .next (s.done (c.sealCommand m.id v)) := exec_seal v hl
    refine ⟨fun hmay => ?_, fun hmay hv => ?_, fun hmay hv => ⟨_, ?_, sealChange_effect s c m.id v⟩⟩
    · rw [hexec, Chip.sealCommand_refused hmay]; rfl
    · rw [hexec, Chip.sealCommand_granted hmay, if_pos (beq_iff_eq.2 hv)]
    · rw [hexec, Chip.sealCommand_granted hmay, if_neg fun h => hv (beq_iff_eq.1 h)]
  case key =>
    intro s m slot w c hl
    have hexec : exec (.keycmd m slot) s = .next (s.done (c.keyCommand m.id slot.val)) := exec_keycmd hl
    refine ⟨fun hslot => ?_, fun h2 h8 => ⟨_, hexec, keyCommand_effect s c m.id h2 h8⟩⟩
    rw [hexec, Chip.keyCommand_refused c m.id slot.val hslot]
    rfl
  case map =>
    intro s m n size data r d a hl
    exact ⟨_, lowBytes (d.reg a) data (sizeBytes size), exec_pmapWrite hl, fun i hi => getLsbD_lowBytes _ _ _ hi, pmapSet_effect s m.id n _⟩

end Sys2Proof.Machine
end
